-- ==== Sys2Proof/Word.lean ====
section
/-! DEFINITION. The words of the part: names for the widths that the manual uses, and sparse tables of plain data. -/

namespace Sys2Proof

/-- One byte. -/
abbrev Byte := BitVec 8
/-- A 32-bit register element or instruction word (R209). -/
abbrev Word := BitVec 32
/-- A 64-bit pair of registers. -/
abbrev DWord := BitVec 64
/-- A mask with one bit for each lane position 0 to 63 (R248). -/
abbrev Mask := BitVec 64

/-- A sparse table: pairs of a key and a value, keys strictly rising. A table that has a default value lists no entry
equal to it, so equal tables are equal lists. -/
abbrev Table (α : Type) := List (Nat × α)

end Sys2Proof
end

