-- ==== Sys2Proof/Syntax.lean ====
section
/-! DEFINITION. The instruction set as one inductive type: one constructor per row of spec/opcode_table.json.
The operands of a row with a word are the fields of that word (R210 and the encoding tables of 09 to 12 and 17); those of a
stream instruction are its ARG fields and operand words (R328); a row without a word is another indivisible step of the
module, and its operands name what it acts on. -/

namespace Sys2Proof

/-- One step of the part. Each constructor's docstring is the row's summary and its rule. -/
inductive Instr where
  /-- SADD: Adds two 32-bit scalar registers (R243) -/
  | sadd (d : BitVec 7) (a : BitVec 7) (b : BitVec 7)
  /-- SSUB: Subtracts two 32-bit scalar registers (R243) -/
  | ssub (d : BitVec 7) (a : BitVec 7) (b : BitVec 7)
  /-- SMUL: Writes the low 32 bits of a scalar product (R243) -/
  | smul (d : BitVec 7) (a : BitVec 7) (b : BitVec 7)
  /-- SMULH: Writes the high 32 bits of the signed scalar product (R243) -/
  | smulh (d : BitVec 7) (a : BitVec 7) (b : BitVec 7)
  /-- SMULH_U: Writes the high 32 bits of the unsigned scalar product (R243) -/
  | smulhU (d : BitVec 7) (a : BitVec 7) (b : BitVec 7)
  /-- SDIV: Signed scalar division truncated toward zero (R243) -/
  | sdiv (d : BitVec 7) (a : BitVec 7) (b : BitVec 7)
  /-- SDIV_U: Unsigned scalar division (R243) -/
  | sdivU (d : BitVec 7) (a : BitVec 7) (b : BitVec 7)
  /-- SAND: Bitwise AND of two scalars (R243) -/
  | sand (d : BitVec 7) (a : BitVec 7) (b : BitVec 7)
  /-- SOR: Bitwise OR of two scalars (R243) -/
  | sor (d : BitVec 7) (a : BitVec 7) (b : BitVec 7)
  /-- SXOR: Bitwise XOR of two scalars (R243) -/
  | sxor (d : BitVec 7) (a : BitVec 7) (b : BitVec 7)
  /-- SANDN: Computes a AND NOT b on scalars (R243) -/
  | sandn (d : BitVec 7) (a : BitVec 7) (b : BitVec 7)
  /-- SSHL: Shifts a scalar left by b mod 32 (R243) -/
  | sshl (d : BitVec 7) (a : BitVec 7) (b : BitVec 7)
  /-- SSHR: Shifts a scalar right logically by b mod 32 (R243) -/
  | sshr (d : BitVec 7) (a : BitVec 7) (b : BitVec 7)
  /-- SSRA: Shifts a scalar right arithmetically by b mod 32 (R243) -/
  | ssra (d : BitVec 7) (a : BitVec 7) (b : BitVec 7)
  /-- SMIN: Signed minimum of two scalars (R243) -/
  | smin (d : BitVec 7) (a : BitVec 7) (b : BitVec 7)
  /-- SMIN_U: Unsigned minimum of two scalars (R243) -/
  | sminU (d : BitVec 7) (a : BitVec 7) (b : BitVec 7)
  /-- SMAX: Signed maximum of two scalars (R243) -/
  | smax (d : BitVec 7) (a : BitVec 7) (b : BitVec 7)
  /-- SMAX_U: Unsigned maximum of two scalars (R243) -/
  | smaxU (d : BitVec 7) (a : BitVec 7) (b : BitVec 7)
  /-- SSET_EQ: Writes 1 if the scalars are equal, else 0 (R243) -/
  | ssetEq (d : BitVec 7) (a : BitVec 7) (b : BitVec 7)
  /-- SSET_NE: Writes 1 if the scalars differ, else 0 (R243) -/
  | ssetNe (d : BitVec 7) (a : BitVec 7) (b : BitVec 7)
  /-- SSET_LT: Writes 1 if a is below b, signed (R243) -/
  | ssetLt (d : BitVec 7) (a : BitVec 7) (b : BitVec 7)
  /-- SSET_LE: Writes 1 if a is at most b, signed (R243) -/
  | ssetLe (d : BitVec 7) (a : BitVec 7) (b : BitVec 7)
  /-- SSET_LT_U: Writes 1 if a is below b, unsigned (R243) -/
  | ssetLtU (d : BitVec 7) (a : BitVec 7) (b : BitVec 7)
  /-- SSET_LE_U: Writes 1 if a is at most b, unsigned (R243) -/
  | ssetLeU (d : BitVec 7) (a : BitVec 7) (b : BitVec 7)
  /-- SSEL: Selects a if the old destination is non-zero, else b (R243) -/
  | ssel (d : BitVec 7) (a : BitVec 7) (b : BitVec 7)
  /-- SMOV: Copies scalar b to the destination (R243) -/
  | smov (d : BitVec 7) (b : BitVec 7)
  /-- SCLZ: Counts the leading zeros of b (R243) -/
  | sclz (d : BitVec 7) (b : BitVec 7)
  /-- SPOPC: Counts the ones in b (R243) -/
  | spopc (d : BitVec 7) (b : BitVec 7)
  /-- SBFX: Extracts a bit field of a under control b (R244) -/
  | sbfx (d : BitVec 7) (a : BitVec 7) (b : BitVec 7)
  /-- SBFI: Inserts a field of a into the destination under control b (R244) -/
  | sbfi (d : BitVec 7) (a : BitVec 7) (b : BitVec 7)
  /-- SADD_Q: Adds two 64-bit q pairs (R243) -/
  | saddQ (d : BitVec 7) (a : BitVec 7) (b : BitVec 7)
  /-- SSUB_Q: Subtracts two 64-bit q pairs (R243) -/
  | ssubQ (d : BitVec 7) (a : BitVec 7) (b : BitVec 7)
  /-- SMUL_Q: Writes the low 64 bits of a q-pair product (R243) -/
  | smulQ (d : BitVec 7) (a : BitVec 7) (b : BitVec 7)
  /-- SMULH_Q: Writes the high 64 bits of the signed q-pair product (R243) -/
  | smulhQ (d : BitVec 7) (a : BitVec 7) (b : BitVec 7)
  /-- SMULH_U_Q: Writes the high 64 bits of the unsigned q-pair product (R243) -/
  | smulhUQ (d : BitVec 7) (a : BitVec 7) (b : BitVec 7)
  /-- SDIV_Q: Signed 64-bit division (R243) -/
  | sdivQ (d : BitVec 7) (a : BitVec 7) (b : BitVec 7)
  /-- SDIV_U_Q: Unsigned 64-bit division (R243) -/
  | sdivUQ (d : BitVec 7) (a : BitVec 7) (b : BitVec 7)
  /-- SAND_Q: Bitwise AND of q pairs (R243) -/
  | sandQ (d : BitVec 7) (a : BitVec 7) (b : BitVec 7)
  /-- SOR_Q: Bitwise OR of q pairs (R243) -/
  | sorQ (d : BitVec 7) (a : BitVec 7) (b : BitVec 7)
  /-- SXOR_Q: Bitwise XOR of q pairs (R243) -/
  | sxorQ (d : BitVec 7) (a : BitVec 7) (b : BitVec 7)
  /-- SANDN_Q: Computes a AND NOT b on q pairs (R243) -/
  | sandnQ (d : BitVec 7) (a : BitVec 7) (b : BitVec 7)
  /-- SSHL_Q: Shifts a q pair left by b mod 64 (R243) -/
  | sshlQ (d : BitVec 7) (a : BitVec 7) (b : BitVec 7)
  /-- SSHR_Q: Shifts a q pair right logically by b mod 64 (R243) -/
  | sshrQ (d : BitVec 7) (a : BitVec 7) (b : BitVec 7)
  /-- SSRA_Q: Shifts a q pair right arithmetically by b mod 64 (R243) -/
  | ssraQ (d : BitVec 7) (a : BitVec 7) (b : BitVec 7)
  /-- SMIN_Q: Signed minimum of q pairs (R243) -/
  | sminQ (d : BitVec 7) (a : BitVec 7) (b : BitVec 7)
  /-- SMIN_U_Q: Unsigned minimum of q pairs (R243) -/
  | sminUQ (d : BitVec 7) (a : BitVec 7) (b : BitVec 7)
  /-- SMAX_Q: Signed maximum of q pairs (R243) -/
  | smaxQ (d : BitVec 7) (a : BitVec 7) (b : BitVec 7)
  /-- SMAX_U_Q: Unsigned maximum of q pairs (R243) -/
  | smaxUQ (d : BitVec 7) (a : BitVec 7) (b : BitVec 7)
  /-- SSET_EQ_Q: Writes 1 if the q pairs are equal (R243) -/
  | ssetEqQ (d : BitVec 7) (a : BitVec 7) (b : BitVec 7)
  /-- SSET_NE_Q: Writes 1 if the q pairs differ (R243) -/
  | ssetNeQ (d : BitVec 7) (a : BitVec 7) (b : BitVec 7)
  /-- SSET_LT_Q: Writes 1 if a is below b, signed 64-bit (R243) -/
  | ssetLtQ (d : BitVec 7) (a : BitVec 7) (b : BitVec 7)
  /-- SSET_LE_Q: Writes 1 if a is at most b, signed 64-bit (R243) -/
  | ssetLeQ (d : BitVec 7) (a : BitVec 7) (b : BitVec 7)
  /-- SSET_LT_U_Q: Writes 1 if a is below b, unsigned 64-bit (R243) -/
  | ssetLtUQ (d : BitVec 7) (a : BitVec 7) (b : BitVec 7)
  /-- SSET_LE_U_Q: Writes 1 if a is at most b, unsigned 64-bit (R243) -/
  | ssetLeUQ (d : BitVec 7) (a : BitVec 7) (b : BitVec 7)
  /-- SSEL_Q: Selects a q pair by the old destination (R243) -/
  | sselQ (d : BitVec 7) (a : BitVec 7) (b : BitVec 7)
  /-- SMOV_Q: Copies q pair b (R243) -/
  | smovQ (d : BitVec 7) (b : BitVec 7)
  /-- SCLZ_Q: Counts leading zeros of a q pair (R243) -/
  | sclzQ (d : BitVec 7) (b : BitVec 7)
  /-- SPOPC_Q: Counts the ones in a q pair (R243) -/
  | spopcQ (d : BitVec 7) (b : BitVec 7)
  /-- SBFX_Q: Extracts a bit field from a q pair (R244) -/
  | sbfxQ (d : BitVec 7) (a : BitVec 7) (b : BitVec 7)
  /-- SBFI_Q: Inserts a bit field into a q pair (R244) -/
  | sbfiQ (d : BitVec 7) (a : BitVec 7) (b : BitVec 7)
  /-- SIMM: Loads a sign-extended immediate into a scalar (R246) -/
  | simm (d : BitVec 7) (im : BitVec 12)
  /-- SADD_IMM: Adds an immediate to a scalar (R246) -/
  | saddImm (d : BitVec 7) (a : BitVec 7) (im : BitVec 12)
  /-- SAND_IMM: ANDs a scalar with an immediate (R246) -/
  | sandImm (d : BitVec 7) (a : BitVec 7) (im : BitVec 12)
  /-- SOR_IMM: ORs a scalar with an immediate (R246) -/
  | sorImm (d : BitVec 7) (a : BitVec 7) (im : BitVec 12)
  /-- SXOR_IMM: XORs a scalar with an immediate (R246) -/
  | sxorImm (d : BitVec 7) (a : BitVec 7) (im : BitVec 12)
  /-- SSHL_IMM: Shifts a scalar left by an immediate count (R246) -/
  | sshlImm (d : BitVec 7) (a : BitVec 7) (n : BitVec 5)
  /-- SSHR_IMM: Shifts a scalar right logically by an immediate count (R246) -/
  | sshrImm (d : BitVec 7) (a : BitVec 7) (n : BitVec 5)
  /-- SSRA_IMM: Shifts a scalar right arithmetically by an immediate count (R246) -/
  | ssraImm (d : BitVec 7) (a : BitVec 7) (n : BitVec 5)
  /-- KAND: Bitwise AND of two mask registers (R247) -/
  | kand (d : BitVec 7) (a : BitVec 7) (b : BitVec 7)
  /-- KOR: Bitwise OR of two mask registers (R247) -/
  | kor (d : BitVec 7) (a : BitVec 7) (b : BitVec 7)
  /-- KXOR: Bitwise XOR of two mask registers (R247) -/
  | kxor (d : BitVec 7) (a : BitVec 7) (b : BitVec 7)
  /-- KANDN: Computes ka AND NOT kb (R247) -/
  | kandn (d : BitVec 7) (a : BitVec 7) (b : BitVec 7)
  /-- KMOV: Copies one mask register to another (R247) -/
  | kmov (d : BitVec 7) (a : BitVec 7)
  /-- KMOV_FROM_Q: Copies a 64-bit q pair into a mask register (R247) -/
  | kmovFromQ (d : BitVec 7) (a : BitVec 7)
  /-- KMOV_TO_Q: Copies a mask register into a q pair (R247) -/
  | kmovToQ (d : BitVec 7) (a : BitVec 7)
  /-- KPOPC: Counts the set bits of a mask into a scalar (R247) -/
  | kpopc (d : BitVec 7) (a : BitVec 7)
  /-- KFIRST: Writes the index of the lowest set bit of a mask (R247) -/
  | kfirst (d : BitVec 7) (a : BitVec 7)
  /-- BR: Branches the whole split if its condition holds, unwinding the loop stack (R249) -/
  | br (c : BitVec 4) (k : BitVec 4) (d : BitVec 18)
  /-- BRD: Divides the split by a condition mask and writes the rejoin mask (R43) -/
  | brd (r : BitVec 4) (k : BitVec 4) (d : BitVec 18)
  /-- CALL: Writes each lane's link and sends the split to the target (R256) -/
  | call (d : BitVec 18)
  /-- LOOP: Pushes a loop-stack entry or skips the body when the count is zero (R51) -/
  | loop (k : BitVec 4) (d : BitVec 18)
  /-- JOIN: Rejoins at a rejoin mask: continues, swaps with deferred lanes or parks (R44) -/
  | join (a : BitVec 7)
  /-- CALLI: Calls per-lane targets, dividing the split by target (R257) -/
  | calli (a : BitVec 7)
  /-- RET: Returns each lane to its link, grouping lanes by target and depth (R258) -/
  | ret
  /-- JMPI: Jumps the whole split to the address in a q pair (R259) -/
  | jmpi (a : BitVec 7)
  /-- LEXIT: Pops the top loop entry and branches past its end (R253) -/
  | lexit
  /-- EXIT: Ends the split's lanes after GST and TMD reach zero (R262) -/
  | exit
  /-- YIELD: Stops the warp for a save when the pre-emption request flag is set (R263) -/
  | yield
  /-- NOP: Occupies an issue slot and does nothing (R263) -/
  | nop
  /-- WAITC: Waits until an arrival counter is at most a threshold; raises a pending PEER or LATE (R264) -/
  | waitc (a : BitVec 7) (p : BitVec 7)
  /-- BAR: Parks the split at a barrier of workgroup, cluster or grid scope (R265) -/
  | bar (bs : BitVec 7)
  /-- LAUNCH: Reads a launch record and queues a child grid, writing a status (R266) -/
  | launch (d : BitVec 7) (a : BitVec 7)
  /-- LAUNCH_QUEUE_ENTRY: A LAUNCH waiting for device-launch queue space takes an entry once one frees (R266) -/
  | launchQueueEntry (w : Nat) (sp : Nat)
  /-- QCAP: Reads a capability value and its known bit (R267) -/
  | qcap (d : BitVec 7) (a : BitVec 7)
  /-- SRD: Reads a special register into a scalar, pair or vector (R268) -/
  | srd (d : BitVec 7) (bs : BitVec 7)
  /-- TRAP: Raises SWTRAP (R269) -/
  | trap (n : BitVec 14)
  /-- TRAP_BIND: Raises BIND at a lazy-binding stub (R260) -/
  | trapBind (n : BitVec 14)
  /-- BKPT: Raises BKPT precisely (R270) -/
  | bkpt (n : BitVec 14)
  /-- VADD: Adds two 32-bit vectors per lane (R277) -/
  | vadd (d : BitVec 7) (a : BitVec 7) (b : BitVec 7) (bs : BitVec 1)
  /-- VSUB: Subtracts two 32-bit vectors per lane (R277) -/
  | vsub (d : BitVec 7) (a : BitVec 7) (b : BitVec 7) (bs : BitVec 1)
  /-- VMUL: Low 32 bits of a lane product (R277) -/
  | vmul (d : BitVec 7) (a : BitVec 7) (b : BitVec 7) (bs : BitVec 1)
  /-- VMULH: High 32 bits of the signed lane product (R277) -/
  | vmulh (d : BitVec 7) (a : BitVec 7) (b : BitVec 7) (bs : BitVec 1)
  /-- VMAD: Low bits of a times b plus the addend per lane (R277) -/
  | vmad (d : BitVec 7) (a : BitVec 7) (b : BitVec 7) (bs : BitVec 1)
  /-- VAND: Bitwise AND per lane (R277) -/
  | vand (d : BitVec 7) (a : BitVec 7) (b : BitVec 7) (bs : BitVec 1)
  /-- VOR: Bitwise OR per lane (R277) -/
  | vor (d : BitVec 7) (a : BitVec 7) (b : BitVec 7) (bs : BitVec 1)
  /-- VXOR: Bitwise XOR per lane (R277) -/
  | vxor (d : BitVec 7) (a : BitVec 7) (b : BitVec 7) (bs : BitVec 1)
  /-- VSHL: Shifts each lane left (R277) -/
  | vshl (d : BitVec 7) (a : BitVec 7) (b : BitVec 7) (bs : BitVec 1)
  /-- VSHR: Shifts each lane right logically (R277) -/
  | vshr (d : BitVec 7) (a : BitVec 7) (b : BitVec 7) (bs : BitVec 1)
  /-- VSRA: Shifts each lane right arithmetically (R277) -/
  | vsra (d : BitVec 7) (a : BitVec 7) (b : BitVec 7) (bs : BitVec 1)
  /-- VMIN: Signed minimum per lane (R277) -/
  | vmin (d : BitVec 7) (a : BitVec 7) (b : BitVec 7) (bs : BitVec 1)
  /-- VMAX: Signed maximum per lane (R277) -/
  | vmax (d : BitVec 7) (a : BitVec 7) (b : BitVec 7) (bs : BitVec 1)
  /-- VSEL: Selects a or b per lane by the old destination (R277) -/
  | vsel (d : BitVec 7) (a : BitVec 7) (b : BitVec 7) (bs : BitVec 1)
  /-- VBFX: Extracts a bit field per lane (R277) -/
  | vbfx (d : BitVec 7) (a : BitVec 7) (b : BitVec 7) (bs : BitVec 1)
  /-- VABS: Absolute value per lane (R278) -/
  | vabs (d : BitVec 7) (b : BitVec 7) (bs : BitVec 1)
  /-- VCLZ: Leading zeros per lane (R278) -/
  | vclz (d : BitVec 7) (b : BitVec 7) (bs : BitVec 1)
  /-- VPOPC: Population count per lane (R278) -/
  | vpopc (d : BitVec 7) (b : BitVec 7) (bs : BitVec 1)
  /-- VMOV: Copies a vector or a scalar into each active lane (R278) -/
  | vmov (d : BitVec 7) (b : BitVec 7) (bs : BitVec 1)
  /-- VBCST: Broadcasts the element of one lane to all active lanes (R280) -/
  | vbcst (d : BitVec 7) (a : BitVec 7) (b : BitVec 7)
  /-- VSET_EQ: Sets mask bits where lanes are equal (R278) -/
  | vsetEq (d : BitVec 7) (a : BitVec 7) (b : BitVec 7) (bs : BitVec 1)
  /-- VSET_NE: Sets mask bits where lanes differ (R278) -/
  | vsetNe (d : BitVec 7) (a : BitVec 7) (b : BitVec 7) (bs : BitVec 1)
  /-- VSET_LT: Sets mask bits where a is below b, signed (R278) -/
  | vsetLt (d : BitVec 7) (a : BitVec 7) (b : BitVec 7) (bs : BitVec 1)
  /-- VSET_LE: Sets mask bits where a is at most b, signed (R278) -/
  | vsetLe (d : BitVec 7) (a : BitVec 7) (b : BitVec 7) (bs : BitVec 1)
  /-- VSET_LT_U: Sets mask bits where a is below b, unsigned (R278) -/
  | vsetLtU (d : BitVec 7) (a : BitVec 7) (b : BitVec 7) (bs : BitVec 1)
  /-- VSET_LE_U: Sets mask bits where a is at most b, unsigned (R278) -/
  | vsetLeU (d : BitVec 7) (a : BitVec 7) (b : BitVec 7) (bs : BitVec 1)
  /-- VMULH_U: High 32 bits of the unsigned lane product (R278) -/
  | vmulhU (d : BitVec 7) (a : BitVec 7) (b : BitVec 7) (bs : BitVec 1)
  /-- VMIN_U: Unsigned minimum per lane (R278) -/
  | vminU (d : BitVec 7) (a : BitVec 7) (b : BitVec 7) (bs : BitVec 1)
  /-- VMAX_U: Unsigned maximum per lane (R278) -/
  | vmaxU (d : BitVec 7) (a : BitVec 7) (b : BitVec 7) (bs : BitVec 1)
  /-- VADD_D: Adds d pairs per lane (R277) -/
  | vaddD (d : BitVec 7) (a : BitVec 7) (b : BitVec 7) (bs : BitVec 1)
  /-- VSUB_D: Subtracts d pairs per lane (R277) -/
  | vsubD (d : BitVec 7) (a : BitVec 7) (b : BitVec 7) (bs : BitVec 1)
  /-- VMUL_D: Low 64 bits of a d-pair product (R277) -/
  | vmulD (d : BitVec 7) (a : BitVec 7) (b : BitVec 7) (bs : BitVec 1)
  /-- VMULH_D: High 64 bits of the signed d-pair product (R277) -/
  | vmulhD (d : BitVec 7) (a : BitVec 7) (b : BitVec 7) (bs : BitVec 1)
  /-- VMAD_D: Multiply-add on d pairs (R277) -/
  | vmadD (d : BitVec 7) (a : BitVec 7) (b : BitVec 7) (bs : BitVec 1)
  /-- VAND_D: Bitwise AND on d pairs (R277) -/
  | vandD (d : BitVec 7) (a : BitVec 7) (b : BitVec 7) (bs : BitVec 1)
  /-- VOR_D: Bitwise OR on d pairs (R277) -/
  | vorD (d : BitVec 7) (a : BitVec 7) (b : BitVec 7) (bs : BitVec 1)
  /-- VXOR_D: Bitwise XOR on d pairs (R277) -/
  | vxorD (d : BitVec 7) (a : BitVec 7) (b : BitVec 7) (bs : BitVec 1)
  /-- VSHL_D: Shifts d pairs left (R277) -/
  | vshlD (d : BitVec 7) (a : BitVec 7) (b : BitVec 7) (bs : BitVec 1)
  /-- VSHR_D: Shifts d pairs right logically (R277) -/
  | vshrD (d : BitVec 7) (a : BitVec 7) (b : BitVec 7) (bs : BitVec 1)
  /-- VSRA_D: Shifts d pairs right arithmetically (R277) -/
  | vsraD (d : BitVec 7) (a : BitVec 7) (b : BitVec 7) (bs : BitVec 1)
  /-- VMIN_D: Signed minimum on d pairs (R277) -/
  | vminD (d : BitVec 7) (a : BitVec 7) (b : BitVec 7) (bs : BitVec 1)
  /-- VMAX_D: Signed maximum on d pairs (R277) -/
  | vmaxD (d : BitVec 7) (a : BitVec 7) (b : BitVec 7) (bs : BitVec 1)
  /-- VSEL_D: Selects d pairs by the old destination (R277) -/
  | vselD (d : BitVec 7) (a : BitVec 7) (b : BitVec 7) (bs : BitVec 1)
  /-- VBFX_D: Extracts a bit field from d pairs (R277) -/
  | vbfxD (d : BitVec 7) (a : BitVec 7) (b : BitVec 7) (bs : BitVec 1)
  /-- VABS_D: Absolute value on d pairs (R278) -/
  | vabsD (d : BitVec 7) (b : BitVec 7) (bs : BitVec 1)
  /-- VCLZ_D: Leading zeros on d pairs (R278) -/
  | vclzD (d : BitVec 7) (b : BitVec 7) (bs : BitVec 1)
  /-- VPOPC_D: Population count on d pairs (R278) -/
  | vpopcD (d : BitVec 7) (b : BitVec 7) (bs : BitVec 1)
  /-- VMOV_D: Copies d pairs or a q pair to each lane (R278) -/
  | vmovD (d : BitVec 7) (b : BitVec 7) (bs : BitVec 1)
  /-- VBCST_D: Broadcasts one lane's d pair (R280) -/
  | vbcstD (d : BitVec 7) (a : BitVec 7) (b : BitVec 7)
  /-- VSET_EQ_D: Mask of equal d-pair lanes (R278) -/
  | vsetEqD (d : BitVec 7) (a : BitVec 7) (b : BitVec 7) (bs : BitVec 1)
  /-- VSET_NE_D: Mask of differing d-pair lanes (R278) -/
  | vsetNeD (d : BitVec 7) (a : BitVec 7) (b : BitVec 7) (bs : BitVec 1)
  /-- VSET_LT_D: Mask of signed less-than on d pairs (R278) -/
  | vsetLtD (d : BitVec 7) (a : BitVec 7) (b : BitVec 7) (bs : BitVec 1)
  /-- VSET_LE_D: Mask of signed less-or-equal on d pairs (R278) -/
  | vsetLeD (d : BitVec 7) (a : BitVec 7) (b : BitVec 7) (bs : BitVec 1)
  /-- VSET_LT_U_D: Mask of unsigned less-than on d pairs (R278) -/
  | vsetLtUD (d : BitVec 7) (a : BitVec 7) (b : BitVec 7) (bs : BitVec 1)
  /-- VSET_LE_U_D: Mask of unsigned less-or-equal on d pairs (R278) -/
  | vsetLeUD (d : BitVec 7) (a : BitVec 7) (b : BitVec 7) (bs : BitVec 1)
  /-- VMULH_U_D: High 64 bits of the unsigned d-pair product (R278) -/
  | vmulhUD (d : BitVec 7) (a : BitVec 7) (b : BitVec 7) (bs : BitVec 1)
  /-- VMIN_U_D: Unsigned minimum on d pairs (R278) -/
  | vminUD (d : BitVec 7) (a : BitVec 7) (b : BitVec 7) (bs : BitVec 1)
  /-- VMAX_U_D: Unsigned maximum on d pairs (R278) -/
  | vmaxUD (d : BitVec 7) (a : BitVec 7) (b : BitVec 7) (bs : BitVec 1)
  /-- VFADD: FP32 addition per lane, rounded once (R282) -/
  | vfadd (d : BitVec 7) (a : BitVec 7) (b : BitVec 7) (bs : BitVec 1)
  /-- VFSUB: FP32 subtraction per lane (R282) -/
  | vfsub (d : BitVec 7) (a : BitVec 7) (b : BitVec 7) (bs : BitVec 1)
  /-- VFMUL: FP32 multiplication per lane (R282) -/
  | vfmul (d : BitVec 7) (a : BitVec 7) (b : BitVec 7) (bs : BitVec 1)
  /-- VFMA: FP32 fused multiply-add per lane (R282) -/
  | vfma (d : BitVec 7) (a : BitVec 7) (b : BitVec 7) (bs : BitVec 1)
  /-- VFMIN: FP32 minimum per lane (R283) -/
  | vfmin (d : BitVec 7) (a : BitVec 7) (b : BitVec 7) (bs : BitVec 1)
  /-- VFMAX: FP32 maximum per lane (R283) -/
  | vfmax (d : BitVec 7) (a : BitVec 7) (b : BitVec 7) (bs : BitVec 1)
  /-- VFSET_EQ: Mask of FP32 equality (R283) -/
  | vfsetEq (d : BitVec 7) (a : BitVec 7) (b : BitVec 7) (bs : BitVec 1)
  /-- VFSET_LT: Mask of FP32 less-than (R283) -/
  | vfsetLt (d : BitVec 7) (a : BitVec 7) (b : BitVec 7) (bs : BitVec 1)
  /-- VFSET_LE: Mask of FP32 less-or-equal (R283) -/
  | vfsetLe (d : BitVec 7) (a : BitVec 7) (b : BitVec 7) (bs : BitVec 1)
  /-- VFSET_UN: Mask of unordered FP32 lanes (R283) -/
  | vfsetUn (d : BitVec 7) (a : BitVec 7) (b : BitVec 7) (bs : BitVec 1)
  /-- VFCLS: Writes the FP32 class word per lane (R284) -/
  | vfcls (d : BitVec 7) (b : BitVec 7) (bs : BitVec 1)
  /-- VRCP: Correctly rounded FP32 reciprocal (R153) -/
  | vrcp (d : BitVec 7) (b : BitVec 7) (bs : BitVec 1)
  /-- VRSQ: Correctly rounded FP32 reciprocal square root (R153) -/
  | vrsq (d : BitVec 7) (b : BitVec 7) (bs : BitVec 1)
  /-- VSQRT: Correctly rounded FP32 square root (R153) -/
  | vsqrt (d : BitVec 7) (b : BitVec 7) (bs : BitVec 1)
  /-- VEXP2: Correctly rounded FP32 base-2 exponential (R153) -/
  | vexp2 (d : BitVec 7) (b : BitVec 7) (bs : BitVec 1)
  /-- VLOG2: Correctly rounded FP32 base-2 logarithm (R153) -/
  | vlog2 (d : BitVec 7) (b : BitVec 7) (bs : BitVec 1)
  /-- VFADD_D: FP64 addition per lane (R282) -/
  | vfaddD (d : BitVec 7) (a : BitVec 7) (b : BitVec 7) (bs : BitVec 1)
  /-- VFSUB_D: FP64 subtraction per lane (R282) -/
  | vfsubD (d : BitVec 7) (a : BitVec 7) (b : BitVec 7) (bs : BitVec 1)
  /-- VFMUL_D: FP64 multiplication per lane (R282) -/
  | vfmulD (d : BitVec 7) (a : BitVec 7) (b : BitVec 7) (bs : BitVec 1)
  /-- VFMA_D: FP64 fused multiply-add per lane (R282) -/
  | vfmaD (d : BitVec 7) (a : BitVec 7) (b : BitVec 7) (bs : BitVec 1)
  /-- VFMIN_D: FP64 minimum per lane (R283) -/
  | vfminD (d : BitVec 7) (a : BitVec 7) (b : BitVec 7) (bs : BitVec 1)
  /-- VFMAX_D: FP64 maximum per lane (R283) -/
  | vfmaxD (d : BitVec 7) (a : BitVec 7) (b : BitVec 7) (bs : BitVec 1)
  /-- VFSET_EQ_D: Mask of FP64 equality (R283) -/
  | vfsetEqD (d : BitVec 7) (a : BitVec 7) (b : BitVec 7) (bs : BitVec 1)
  /-- VFSET_LT_D: Mask of FP64 less-than (R283) -/
  | vfsetLtD (d : BitVec 7) (a : BitVec 7) (b : BitVec 7) (bs : BitVec 1)
  /-- VFSET_LE_D: Mask of FP64 less-or-equal (R283) -/
  | vfsetLeD (d : BitVec 7) (a : BitVec 7) (b : BitVec 7) (bs : BitVec 1)
  /-- VFSET_UN_D: Mask of unordered FP64 lanes (R283) -/
  | vfsetUnD (d : BitVec 7) (a : BitVec 7) (b : BitVec 7) (bs : BitVec 1)
  /-- VFCLS_D: Writes the FP64 class word per lane (R284) -/
  | vfclsD (d : BitVec 7) (b : BitVec 7) (bs : BitVec 1)
  /-- VRCP_D: Correctly rounded FP64 reciprocal (R153) -/
  | vrcpD (d : BitVec 7) (b : BitVec 7) (bs : BitVec 1)
  /-- VRSQ_D: Correctly rounded FP64 reciprocal square root (R153) -/
  | vrsqD (d : BitVec 7) (b : BitVec 7) (bs : BitVec 1)
  /-- VSQRT_D: Correctly rounded FP64 square root (R153) -/
  | vsqrtD (d : BitVec 7) (b : BitVec 7) (bs : BitVec 1)
  /-- VEXP2_D: Correctly rounded FP64 base-2 exponential (R153) -/
  | vexp2D (d : BitVec 7) (b : BitVec 7) (bs : BitVec 1)
  /-- VLOG2_D: Correctly rounded FP64 base-2 logarithm (R153) -/
  | vlog2D (d : BitVec 7) (b : BitVec 7) (bs : BitVec 1)
  /-- VCVT: Converts each active lane between formats named by MOD8 (R287) -/
  | vcvt (d : BitVec 7) (a : BitVec 7) (t : BitVec 1) (im : BitVec 1) (bs : BitVec 1)
  /-- VQMX: Forms MX blocks of 32 lanes with a shared scale (R288) -/
  | vqmx (d : BitVec 7) (a : BitVec 7)
  /-- VDQMX: Decodes MX elements and scales to FP32 or BF16 (R289) -/
  | vdqmx (d : BitVec 7) (a : BitVec 7) (bs : BitVec 1)
  /-- VCBD: Decodes CB2 indices into eight registers of weights (R290) -/
  | vcbd (d : BitVec 7) (a : BitVec 7) (bs : BitVec 1)
  /-- VPERM: Gives each lane the element of the lane its index names (R293) -/
  | vperm (d : BitVec 7) (a : BitVec 7) (b : BitVec 7) (bs : BitVec 1)
  /-- VSHFL: Shuffles lanes within segments by up, down, xor or rotate (R294) -/
  | vshfl (d : BitVec 7) (a : BitVec 7) (b : BitVec 7) (bs : BitVec 1)
  /-- VRED: Reduces all lane positions in a fixed tree (R295) -/
  | vred (d : BitVec 7) (a : BitVec 7)
  /-- VSCAN: Computes a prefix in ascending lane order (R296) -/
  | vscan (d : BitVec 7) (a : BitVec 7)
  /-- VSORT: Sorts the keys of the active lanes with payloads (R298) -/
  | vsort (d : BitVec 7) (a : BitVec 7) (b : BitVec 7) (bs : BitVec 1)
  /-- VTOPK: Writes the top k keys and their source lanes (R299) -/
  | vtopk (d : BitVec 7) (a : BitVec 7) (b : BitVec 7)
  /-- VRAND: Counter-based random words per lane, advancing the counters (R300) -/
  | vrand (d : BitVec 7) (a : BitVec 7) (b : BitVec 7)
  /-- GORI2: Exact 2-D orientation sign (R156) -/
  | gori2 (d : BitVec 7) (a : BitVec 7) (b : BitVec 7) (bs : BitVec 1)
  /-- GORI3: Exact 3-D orientation sign (R156) -/
  | gori3 (d : BitVec 7) (a : BitVec 7) (b : BitVec 7) (bs : BitVec 1)
  /-- GINC: Exact in-circle sign (R156) -/
  | ginc (d : BitVec 7) (a : BitVec 7) (b : BitVec 7) (bs : BitVec 1)
  /-- GINS: Exact in-sphere sign (R156) -/
  | gins (d : BitVec 7) (a : BitVec 7) (b : BitVec 7) (bs : BitVec 1)
  /-- GSEGX: Exact segment-intersection test (R160) -/
  | gsegx (d : BitVec 7) (a : BitVec 7) (b : BitVec 7) (bs : BitVec 1)
  /-- VADD_IMM: Adds an immediate per lane (R281) -/
  | vaddImm (d : BitVec 7) (a : BitVec 7) (im : BitVec 12)
  /-- VAND_IMM: ANDs each lane with an immediate (R281) -/
  | vandImm (d : BitVec 7) (a : BitVec 7) (im : BitVec 12)
  /-- VSHL_IMM: Shifts each lane left by an immediate (R281) -/
  | vshlImm (d : BitVec 7) (a : BitVec 7) (n : BitVec 5)
  /-- VSHR_IMM: Shifts each lane right logically by an immediate (R281) -/
  | vshrImm (d : BitVec 7) (a : BitVec 7) (n : BitVec 5)
  /-- VSRA_IMM: Shifts each lane right arithmetically by an immediate (R281) -/
  | vsraImm (d : BitVec 7) (a : BitVec 7) (n : BitVec 5)
  /-- VMOV_IMM: Writes an immediate to each active lane (R281) -/
  | vmovImm (d : BitVec 7) (im : BitVec 12)
  /-- LD_B: Loads one byte per lane, zero-extended (R309) -/
  | ldB (d : BitVec 7) (t : BitVec 3) (vo : BitVec 7) (im : BitVec 5)
  /-- LD_SB: Loads one byte per lane, sign-extended (R309) -/
  | ldSb (d : BitVec 7) (t : BitVec 3) (vo : BitVec 7) (im : BitVec 5)
  /-- LD_H: Loads two bytes per lane, zero-extended (R309) -/
  | ldH (d : BitVec 7) (t : BitVec 3) (vo : BitVec 7) (im : BitVec 5)
  /-- LD_SH: Loads two bytes per lane, sign-extended (R309) -/
  | ldSh (d : BitVec 7) (t : BitVec 3) (vo : BitVec 7) (im : BitVec 5)
  /-- LD_W: Loads a word per lane from global memory (R309) -/
  | ldW (d : BitVec 7) (t : BitVec 3) (vo : BitVec 7) (im : BitVec 5)
  /-- LD_D: Loads eight bytes per lane into a d pair (R309) -/
  | ldD (d : BitVec 7) (t : BitVec 3) (vo : BitVec 7) (im : BitVec 5)
  /-- LD_Q: Loads sixteen bytes per lane into four registers (R309) -/
  | ldQ (d : BitVec 7) (t : BitVec 3) (vo : BitVec 7) (im : BitVec 5)
  /-- LD_PRV_B: Loads a private byte, zero-extended (R309) -/
  | ldPrvB (d : BitVec 7) (vo : BitVec 7) (im : BitVec 5)
  /-- LD_PRV_SB: Loads a private byte, sign-extended (R309) -/
  | ldPrvSb (d : BitVec 7) (vo : BitVec 7) (im : BitVec 5)
  /-- LD_PRV_H: Loads a private half-word, zero-extended (R309) -/
  | ldPrvH (d : BitVec 7) (vo : BitVec 7) (im : BitVec 5)
  /-- LD_PRV_SH: Loads a private half-word, sign-extended (R309) -/
  | ldPrvSh (d : BitVec 7) (vo : BitVec 7) (im : BitVec 5)
  /-- LD_PRV_W: Loads a private word (R309) -/
  | ldPrvW (d : BitVec 7) (vo : BitVec 7) (im : BitVec 5)
  /-- LD_PRV_D: Loads eight private bytes into a d pair (R309) -/
  | ldPrvD (d : BitVec 7) (vo : BitVec 7) (im : BitVec 5)
  /-- ST_B: Stores one byte per lane (R309) -/
  | stB (d : BitVec 7) (t : BitVec 3) (vo : BitVec 7) (im : BitVec 5)
  /-- ST_H: Stores two bytes per lane (R309) -/
  | stH (d : BitVec 7) (t : BitVec 3) (vo : BitVec 7) (im : BitVec 5)
  /-- ST_W: Stores a word per lane to global memory (R309) -/
  | stW (d : BitVec 7) (t : BitVec 3) (vo : BitVec 7) (im : BitVec 5)
  /-- ST_D: Stores eight bytes per lane from a d pair (R309) -/
  | stD (d : BitVec 7) (t : BitVec 3) (vo : BitVec 7) (im : BitVec 5)
  /-- ST_Q: Stores sixteen bytes per lane (R309) -/
  | stQ (d : BitVec 7) (t : BitVec 3) (vo : BitVec 7) (im : BitVec 5)
  /-- ST_PRV_B: Stores a private byte (R309) -/
  | stPrvB (d : BitVec 7) (vo : BitVec 7) (im : BitVec 5)
  /-- ST_PRV_H: Stores a private half-word (R309) -/
  | stPrvH (d : BitVec 7) (vo : BitVec 7) (im : BitVec 5)
  /-- ST_PRV_W: Stores a private word (R309) -/
  | stPrvW (d : BitVec 7) (vo : BitVec 7) (im : BitVec 5)
  /-- ST_PRV_D: Stores eight private bytes (R309) -/
  | stPrvD (d : BitVec 7) (vo : BitVec 7) (im : BitVec 5)
  /-- LDL: Loads from a local buffer of the own or a cluster workgroup (R311) -/
  | ldl (u : BitVec 2) (z : BitVec 2) (d : BitVec 7) (vo : BitVec 7) (im : BitVec 5)
  /-- STL: Stores to an A- or C-buffer of the own or a cluster workgroup (R311) -/
  | stl (u : BitVec 2) (z : BitVec 2) (d : BitVec 7) (vo : BitVec 7) (im : BitVec 5)
  /-- ATOM_ADD: Returning atomic 32-bit add at the home (R312) -/
  | atomAdd (d : BitVec 7) (t : BitVec 3) (vo : BitVec 7) (im : BitVec 5)
  /-- ATOM_AND: Returning atomic AND (R312) -/
  | atomAnd (d : BitVec 7) (t : BitVec 3) (vo : BitVec 7) (im : BitVec 5)
  /-- ATOM_OR: Returning atomic OR (R312) -/
  | atomOr (d : BitVec 7) (t : BitVec 3) (vo : BitVec 7) (im : BitVec 5)
  /-- ATOM_XOR: Returning atomic XOR (R312) -/
  | atomXor (d : BitVec 7) (t : BitVec 3) (vo : BitVec 7) (im : BitVec 5)
  /-- ATOM_MIN: Returning atomic signed minimum (R312) -/
  | atomMin (d : BitVec 7) (t : BitVec 3) (vo : BitVec 7) (im : BitVec 5)
  /-- ATOM_MAX: Returning atomic signed maximum (R312) -/
  | atomMax (d : BitVec 7) (t : BitVec 3) (vo : BitVec 7) (im : BitVec 5)
  /-- ATOM_MIN_U: Returning atomic unsigned minimum (R312) -/
  | atomMinU (d : BitVec 7) (t : BitVec 3) (vo : BitVec 7) (im : BitVec 5)
  /-- ATOM_MAX_U: Returning atomic unsigned maximum (R312) -/
  | atomMaxU (d : BitVec 7) (t : BitVec 3) (vo : BitVec 7) (im : BitVec 5)
  /-- ATOM_EXCH: Returning atomic exchange (R312) -/
  | atomExch (d : BitVec 7) (t : BitVec 3) (vo : BitVec 7) (im : BitVec 5)
  /-- ATOM_ADD_D: Returning atomic 64-bit add (R312) -/
  | atomAddD (d : BitVec 7) (t : BitVec 3) (vo : BitVec 7) (im : BitVec 5)
  /-- ATOM_EXCH_D: Returning atomic 64-bit exchange (R312) -/
  | atomExchD (d : BitVec 7) (t : BitVec 3) (vo : BitVec 7) (im : BitVec 5)
  /-- ATOM_FADD: Returning atomic FP32 add (R312) -/
  | atomFadd (d : BitVec 7) (t : BitVec 3) (vo : BitVec 7) (im : BitVec 5)
  /-- ATOM_ADD_POSTED: Posted atomic 32-bit add (R312) -/
  | atomAddPosted (d : BitVec 7) (t : BitVec 3) (vo : BitVec 7) (im : BitVec 5)
  /-- ATOM_AND_POSTED: Posted atomic AND (R312) -/
  | atomAndPosted (d : BitVec 7) (t : BitVec 3) (vo : BitVec 7) (im : BitVec 5)
  /-- ATOM_OR_POSTED: Posted atomic OR (R312) -/
  | atomOrPosted (d : BitVec 7) (t : BitVec 3) (vo : BitVec 7) (im : BitVec 5)
  /-- ATOM_XOR_POSTED: Posted atomic XOR (R312) -/
  | atomXorPosted (d : BitVec 7) (t : BitVec 3) (vo : BitVec 7) (im : BitVec 5)
  /-- ATOM_MIN_POSTED: Posted atomic signed minimum (R312) -/
  | atomMinPosted (d : BitVec 7) (t : BitVec 3) (vo : BitVec 7) (im : BitVec 5)
  /-- ATOM_MAX_POSTED: Posted atomic signed maximum (R312) -/
  | atomMaxPosted (d : BitVec 7) (t : BitVec 3) (vo : BitVec 7) (im : BitVec 5)
  /-- ATOM_MIN_U_POSTED: Posted atomic unsigned minimum (R312) -/
  | atomMinUPosted (d : BitVec 7) (t : BitVec 3) (vo : BitVec 7) (im : BitVec 5)
  /-- ATOM_MAX_U_POSTED: Posted atomic unsigned maximum (R312) -/
  | atomMaxUPosted (d : BitVec 7) (t : BitVec 3) (vo : BitVec 7) (im : BitVec 5)
  /-- ATOM_EXCH_POSTED: Posted atomic exchange (R312) -/
  | atomExchPosted (d : BitVec 7) (t : BitVec 3) (vo : BitVec 7) (im : BitVec 5)
  /-- ATOM_ADD_D_POSTED: Posted atomic 64-bit add (R312) -/
  | atomAddDPosted (d : BitVec 7) (t : BitVec 3) (vo : BitVec 7) (im : BitVec 5)
  /-- ATOM_EXCH_D_POSTED: Posted atomic 64-bit exchange (R312) -/
  | atomExchDPosted (d : BitVec 7) (t : BitVec 3) (vo : BitVec 7) (im : BitVec 5)
  /-- ATOM_FADD_POSTED: Posted atomic FP32 add (R312) -/
  | atomFaddPosted (d : BitVec 7) (t : BitVec 3) (vo : BitVec 7) (im : BitVec 5)
  /-- CAS_W: Compare-and-swap of a word, returning the old value (R313) -/
  | casW (d : BitVec 7) (t : BitVec 3) (vo : BitVec 7) (im : BitVec 5)
  /-- CAS_D: Compare-and-swap of eight bytes (R313) -/
  | casD (d : BitVec 7) (t : BitVec 3) (vo : BitVec 7) (im : BitVec 5)
  /-- CAS_Q: Compare-and-swap of sixteen bytes (R313) -/
  | casQ (d : BitVec 7) (t : BitVec 3) (vo : BitVec 7) (im : BitVec 5)
  /-- FENCE: Acquire, release or acq_rel fence at a scope (R318) -/
  | fence (k : BitVec 7) (bs : BitVec 7)
  /-- CWB: Writes back dirty L2 lines of a range to home memory (R319) -/
  | cwb (a : BitVec 7) (b : BitVec 7)
  /-- CINV_D: Drops the core's L1 copies of a global range (R319) -/
  | cinvD (a : BitVec 7) (b : BitVec 7)
  /-- CINV_I: Drops the core's instruction-cache copies of a range (R319) -/
  | cinvI (a : BitVec 7) (b : BitVec 7)
  /-- PREF_L2: Requests a range into the die's L2 (R319) -/
  | prefL2 (a : BitVec 7) (b : BitVec 7)
  /-- PREF_L1: Requests a range into the L2 and the core's L1 (R319) -/
  | prefL1 (a : BitVec 7) (b : BitVec 7)
  /-- XLATE: Translates a uniform base into a translation register (R320) -/
  | xlate (t : BitVec 3) (a : BitVec 7) (b : BitVec 7)
  /-- XDROP: Makes a translation register invalid (R320) -/
  | xdrop (t : BitVec 3)
  /-- SEMS: Adds to a semaphore atomically as a device-scope release (R321) -/
  | sems (a : BitVec 7) (b : BitVec 7)
  /-- SEMW: Parks the split until a semaphore reaches a threshold (R321) -/
  | semw (a : BitVec 7) (b : BitVec 7)
  /-- SEMW_SATISFIED: A parked SEMW continues as an acquire once the semaphore reaches its threshold (R321) -/
  | semwSatisfied (w : Nat) (sp : Nat)
  /-- MIGRATE: Moves a single-warp workgroup to the home die of an address (R64) -/
  | migrate (a : BitVec 7)
  /-- MIGRATE_SHIP: Once counters are zero and a landing position is free, the warp is shipped and resumes (R64) -/
  | migrateShip (w : Nat)
  /-- LDT_W: Tensed load of a word with a not-before time (R315) -/
  | ldtW (d : BitVec 7) (t : BitVec 3) (vo : BitVec 7) (im : BitVec 5)
  /-- LDT_D: Tensed load of eight bytes (R315) -/
  | ldtD (d : BitVec 7) (t : BitVec 3) (vo : BitVec 7) (im : BitVec 5)
  /-- LDT_Q: Tensed load of sixteen bytes (R315) -/
  | ldtQ (d : BitVec 7) (t : BitVec 3) (vo : BitVec 7) (im : BitVec 5)
  /-- STT_W: Tensed store of a word with a visible-at time (R315) -/
  | sttW (d : BitVec 7) (t : BitVec 3) (vo : BitVec 7) (im : BitVec 5)
  /-- STT_D: Tensed store of eight bytes (R315) -/
  | sttD (d : BitVec 7) (t : BitVec 3) (vo : BitVec 7) (im : BitVec 5)
  /-- STT_Q: Tensed store of sixteen bytes (R315) -/
  | sttQ (d : BitVec 7) (t : BitVec 3) (vo : BitVec 7) (im : BitVec 5)
  /-- TCOPY: Copies strided global rows into the A- or W-buffer (R323) -/
  | tcopy (d : BitVec 7) (t : BitVec 3) (im : BitVec 5)
  /-- TCOPY_GATH: Gathers indexed global rows into a local buffer (R324) -/
  | tcopyGath (d : BitVec 7) (t : BitVec 3) (vo : BitVec 7) (im : BitVec 5)
  /-- TCOPY_SCAT: Scatters A-buffer rows to indexed global rows (R324) -/
  | tcopyScat (d : BitVec 7) (t : BitVec 3) (vo : BitVec 7) (im : BitVec 5)
  /-- SEAL: Validates a record and writes a handle and a status (R338) -/
  | seal (h : BitVec 4) (q : BitVec 4) (bs : BitVec 4)
  /-- HFREE: Makes a handle EMPTY (R339) -/
  | hfree (h : BitVec 4)
  /-- MMA: Adds one matrix step to the warp's open set (R342) -/
  | mma (h : BitVec 4) (v : BitVec 4) (c : BitVec 1) (r : BitVec 1)
  /-- MLOOP: Adds n matrix steps with advancing offsets as one operation (R346) -/
  | mloop (h : BitVec 4) (bs : BitVec 4) (c : BitVec 1)
  /-- MRDY: A joint-group member offers its rows to the first member's MMA (R345) -/
  | mrdy (v : BitVec 4)
  /-- JOINT_ISSUE_PAIRING: An MMA pairs with each member's oldest MRDY and captures the rows (R345) -/
  | jointIssuePairing (w : Nat)
  /-- MFENCE: Closes the open set as a numbered batch (R348) -/
  | mfence (bs : BitVec 4)
  /-- MWAIT: Waits for a batch and ORs its flags into FSTAT (R349) -/
  | mwait (bs : BitVec 4) (n : BitVec 8)
  /-- BATCH_COMPLETE: Every operation of a batch has written C and gathered its flags (R347) -/
  | batchComplete (w : Nat)
  /-- SUFX: Applies scale, bias, activation and format conversion to a C tile and writes rows (R352) -/
  | sufx (h : BitVec 4)
  /-- ATTN: Runs attention over listed pages and adds their mass (R355) -/
  | attn (h : BitVec 4) (bs : BitVec 4)
  /-- SELPG: Selects the best pages by summary bounds and writes the list (R356) -/
  | selpg (h : BitVec 4) (bs : BitVec 4)
  /-- MASSR: Reads, and optionally clears, a slot word's mass and state (R357) -/
  | massr (q : BitVec 4) (bs : BitVec 4) (r : BitVec 4) (c : BitVec 1)
  /-- DCLN: Requests a declension sweep of a record, optionally signalling a semaphore (R358) -/
  | dcln (q : BitVec 4) (bs : BitVec 4) (e : BitVec 1)
  /-- SWEEP_REQUEST: A DCLN request reaches a die's declension engine and starts or merges a sweep (R193) -/
  | sweepRequest (n : Nat) (die : Nat)
  /-- TIER: Requests a tier move of one slot and writes a status (R359) -/
  | tier (q : BitVec 4) (bs : BitVec 4) (c : BitVec 4) (n : BitVec 1)
  /-- CTRC: Contracts a chunk of tokens and writes outputs and an expansion map (R362) -/
  | ctrc (h : BitVec 4) (bs : BitVec 4)
  /-- EXPD: Expands rows through a valid expansion map (R363) -/
  | expd (h : BitVec 4) (q : BitVec 4) (r : BitVec 4) (t : BitVec 9)
  /-- SQGROW: Doubles a record's slot array and starts the forwarding copy (R360) -/
  | sqgrow (a : BitVec 4) (b : BitVec 4) (c : BitVec 4)
  /-- SQGROW_SLOT_COPY: The copy engine copies one old slot and its summary and forwards it by CAS (R174) -/
  | sqgrowSlotCopy (n : Nat)
  /-- SQGROW_COMPLETE: After the last slot FWD clears and the semaphore is signalled once earlier instructions complete (R174) -/
  | sqgrowComplete (n : Nat)
  /-- TLBINV: Sends a translation invalidation to all dies after a release (R430) -/
  | tlbinv (d : BitVec 7) (a : BitVec 7) (b : BitVec 7)
  /-- TLBINV_PERFORM: A die drops matching translations and marks matching t registers stale (R430) -/
  | tlbinvPerform (n : Nat) (die : Nat)
  /-- TLBACK: Waits until earlier invalidations are performed and their users drained (R431) -/
  | tlback
  /-- TLBACK_COMPLETE: A waiting TLBACK completes when every drain it waits for has ended (R431) -/
  | tlbackComplete (w : Nat) (sp : Nat)
  /-- CTXSV: Saves a halted workgroup to a save block and releases its core (R441) -/
  | ctxsv (d : BitVec 7) (a : BitVec 7) (b : BitVec 7)
  /-- CTXLD: Checks a save image and queues it for admission (R442) -/
  | ctxld (d : BitVec 7) (a : BitVec 7)
  /-- TRET: Resumes a halted workgroup from its trap-area entry (R435) -/
  | tret (d : BitVec 7) (a : BitVec 7)
  /-- SRR: Reads a system register (R416) -/
  | srr (d : BitVec 7) (a : BitVec 7)
  /-- SRW: Writes a system register after a device-scope release (R416) -/
  | srw (a : BitVec 7) (b : BitVec 7)
  /-- PREEMPT_REQ: Sets REQ and HOLD of a context slot on all dies (R437) -/
  | preemptReq (a : BitVec 7)
  /-- PREEMPT_WAIT: Requests pre-emption and waits until the slot has no resident workgroup (R437) -/
  | preemptWait (d : BitVec 7) (a : BitVec 7)
  /-- PREEMPT_CLR: Clears REQ and HOLD of a slot (R437) -/
  | preemptClr (a : BitVec 7)
  /-- FLTQ_POP: Claims the oldest unclaimed fault record (R427) -/
  | fltqPop (d : BitVec 7)
  /-- FLTQ_RPL: Resolves a claimed fault so the agent replays (R427) -/
  | fltqRpl (d : BitVec 7) (a : BitVec 7)
  /-- FLTQ_ACC: Resolves a claimed fault as unserviceable (R427) -/
  | fltqAcc (d : BitVec 7) (a : BitVec 7)
  /-- FLTQ_TPOP: Claims the oldest trap notice (R427) -/
  | fltqTpop (d : BitVec 7)
  /-- CLAIM_RESUME: A parked FLTQ.POP or .TPOP takes a record or notice once one is queued (R427) -/
  | claimResume (w : Nat) (sp : Nat)
  /-- HIMM: Supplies the high bits of the next instruction's immediate (R216) -/
  | himm (im : BitVec 23)
  /-- HGRD: Supplies a guard mask for the next instruction (R217) -/
  | hgrd (n : BitVec 1) (k : BitVec 4)
  /-- HSTL: Delays the hinted instruction by an advisory stall count (R396) -/
  | hstl (bs : BitVec 12)
  /-- HMOD: Supplies trap enables, rounding, scope, order and a modifier byte (R219) -/
  | hmod (m : BitVec 8) (vo : BitVec 2) (bs : BitVec 3) (r : BitVec 2) (v : BitVec 1) (t : BitVec 5)
  /-- HFE: Supplies empty-trap bits for the sources (R220) -/
  | hfe (t : BitVec 5)
  /-- HFIL: Supplies the fill value for cross-lane reads (R221) -/
  | hfil (f : BitVec 1) (v : BitVec 22)
  /-- HADD: Supplies a separate addend register (R222) -/
  | hadd (b : BitVec 1) (a : BitVec 7)
  /-- CPY: Stream instruction copying LEN bytes (R329) -/
  | cpy (na : BitVec 1) (dst : BitVec 64) (src : BitVec 64) (len : BitVec 32)
  /-- CPY2: Stream instruction copying strided rows (R329) -/
  | cpy2 (na : BitVec 1) (dst : BitVec 64) (src : BitVec 64) (rowb : BitVec 32) (rows : BitVec 32) (dstr : BitVec 32) (sstr : BitVec 32)
  /-- CGATH: Stream instruction gathering indexed rows (R329) -/
  | cgath (rb : BitVec 16) (iw : BitVec 1) (na : BitVec 1) (dst : BitVec 64) (src : BitVec 64) (idx : BitVec 64) (count : BitVec 32)
  /-- CSCAT: Stream instruction scattering rows to indexed places (R329) -/
  | cscat (rb : BitVec 16) (iw : BitVec 1) (na : BitVec 1) (dst : BitVec 64) (src : BitVec 64) (idx : BitVec 64) (count : BitVec 32)
  /-- CFILL: Stream instruction repeating a pattern over a range (R329) -/
  | cfill (psz : BitVec 2) (dst : BitVec 64) (pat : BitVec 64) (len : BitVec 32)
  /-- CCONV: Stream instruction converting elements between formats (R329) -/
  | cconv (sf : BitVec 4) (tf : BitVec 4) (rm : BitVec 2) (sat : BitVec 1) (dst : BitVec 64) (src : BitVec 64) (count : BitVec 32)
  /-- CSEMS: Stream instruction adding to or setting a semaphore as a release (R329) -/
  | csems (set : BitVec 1) (sem : BitVec 64) (value : BitVec 64)
  /-- CSEMW: Stream instruction waiting for a semaphore threshold (R329) -/
  | csemw (sem : BitVec 64) (threshold : BitVec 64)
  /-- CSEMW_SATISFIED: A waiting CSEMW continues as an acquire once the semaphore reaches its threshold (R329) -/
  | csemwSatisfied (n : Nat)
  /-- CLOOP: Stream loop instruction advancing XB and branching back (R329) -/
  | cloop (back : BitVec 16) (count : BitVec 32)
  /-- CJMP: Stream jump to a plain address (R329) -/
  | cjmp (target : BitVec 64)
  /-- CHALT: Stops the stream with DONE (R329) -/
  | chalt
  /-- SPLIT_PROMOTION: A split continuously ready for 4,028 slot cycles is promoted (R42) -/
  | splitPromotion (w : Nat) (sp : Nat)
  /-- MULTICYCLE_RESULT: A multi-cycle result is written and its destination becomes full (R93) -/
  | multicycleResult (n : Nat)
  /-- LOAD_COMPLETE: Every lane's load data is written and GLD is lowered (R90) -/
  | loadComplete (n : Nat)
  /-- STORE_PERFORMED: A store or posted write is performed at its home or aborted and GST is lowered (R90) -/
  | storePerformed (n : Nat)
  /-- ATOMIC_PERFORMED: An atomic is performed at the location's home in home order (R109) -/
  | atomicPerformed (n : Nat)
  /-- REMOTE_LOCAL_COMPLETE: A cluster-remote local access completes at the target core and LRM is lowered (R311) -/
  | remoteLocalComplete (n : Nat)
  /-- TCOPY_ROW_LANDED: A tile-copy row lands and TCP is lowered in row order (R324) -/
  | tcopyRowLanded (n : Nat)
  /-- WRITE_APPLY: A die applies a write under the vector-clock rule, making it visible there (R105) -/
  | writeApply (die : Nat) (n : Nat)
  /-- PAGE_WALK: A page-table walk completes with a translation or a fault (R423) -/
  | pageWalk (die : Nat) (ctx : Nat) (va : Nat)
  /-- FAULT_HELD_RELEASE: A fault held for ring space is written when an entry frees (R427) -/
  | faultHeldRelease (die : Nat)
  /-- FAULT_REPLAY: A serviced fault's instruction replays for its unfinished lanes (R66) -/
  | faultReplay (w : Nat)
  /-- SKID_STOP: A sibling warp stops at an instruction boundary within the skid bound (R69) -/
  | skidStop (w : Nat) (cyc : Nat)
  /-- TRAP_DELIVERY: A halted workgroup's records are written to a free trap-area entry (R434) -/
  | trapDelivery (g : Nat)
  /-- FORCED_SAVE: PDLY cycles after the request a warp that has not yielded is forced to save (R75) -/
  | forcedSave (w : Nat)
  /-- WATCHDOG: A handler still masked 65,536 cycles after the deadline raises a watchdog machine check (R77) -/
  | watchdog (g : Nat)
  /-- CONTEXT_SAVE: A stopped workgroup is written to a save block and pushed onto SAVED (R438) -/
  | contextSave (g : Nat)
  /-- STT_ARRIVAL: A tensed store reaches its home and is held or found late (R130) -/
  | sttArrival (n : Nat) (die : Nat)
  /-- STT_VISIBLE: A held tensed store becomes visible when home time reaches T (R130) -/
  | sttVisible (n : Nat) (die : Nat)
  /-- TENSED_STORE_ADMIT: A tensed store waiting for hold space is taken when a held store becomes visible (R134) -/
  | tensedStoreAdmit (n : Nat) (die : Nat)
  /-- LDT_ARRIVAL: A tensed load reaches its home and waits for its not-before time (R132) -/
  | ldtArrival (n : Nat) (die : Nat)
  /-- LDT_PERFORMED: A tensed load is performed at home time N (R132) -/
  | ldtPerformed (n : Nat) (die : Nat)
  /-- LATE_NOTICE: A late notice reaches the issuer and records a pending LATE (R376) -/
  | lateNotice (n : Nat)
  /-- OUTBOUND_ACCESS_ABORT: An outbound access aborts on an abort completion or after 4 ms without completion (R124) -/
  | outboundAccessAbort (n : Nat)
  /-- INBOUND_ACCESS_TIMEOUT: An inbound access not completed within 2 ms is logged and aborted (R124) -/
  | inboundAccessTimeout (n : Nat)
  /-- SYNC_EXCHANGE: Each millisecond a die sends a SYNC flit to each counted peer (R467) -/
  | syncExchange (die : Nat) (peer : Nat)
  /-- SYNC_RECEIVE: A peer stamps an arriving SYNC flit and replies (R467) -/
  | syncReceive (die : Nat) (peer : Nat)
  /-- SYNC_REPLY: The originator stamps the reply and estimates its offset (R467) -/
  | syncReply (die : Nat) (peer : Nat)
  /-- EXCHANGE_MISSED: An exchange without a reply within 100 µs is missed (R467) -/
  | exchangeMissed (die : Nat) (peer : Nat)
  /-- FLIT_REPLAY: A die-link flit that fails its check is replayed (R466) -/
  | flitReplay (die : Nat) (peer : Nat)
  /-- SCHEDULE_INSTALL: A committed schedule takes effect at the next frame boundary (R465) -/
  | scheduleInstall (die : Nat) (peer : Nat)
  /-- DECLENSION_INTERVAL: The engine interval elapses and starts sweeps of every listed record (R193) -/
  | declensionInterval (die : Nat) (ctx : Nat)
  /-- RECORD_SWEEP: A sweep decays, ages and starts actions for the slots of one record (R194) -/
  | recordSweep (n : Nat)
  /-- FRAME_SWAP: An action's swap atomic installs the new frame or abandons it (R199) -/
  | frameSwap (n : Nat)
  /-- READER_EPOCH_ADVANCE: After applying a swap a die raises its reader epoch (R200) -/
  | readerEpochAdvance (die : Nat)
  /-- OLD_FRAME_FREE: Once readers have drained on all dies the old frame returns to its free list (R200) -/
  | oldFrameFree (n : Nat)
  /-- DISPATCH_STEP: The dispatcher admits the next workgroups of the first eligible grid (R457) -/
  | dispatchStep (die : Nat)
  /-- WORKGROUP_RETIRE: A workgroup retires once its warps have exited and its children retired (R59) -/
  | workgroupRetire (g : Nat)
  /-- GRID_COMPLETE: A grid completes and its DONE semaphore receives +1 (R461) -/
  | gridComplete (g : Nat)
  /-- GRID_PROMOTION: A grid on the pending list for PROMO ns is raised to priority 7 (R457) -/
  | gridPromotion (g : Nat)
  /-- CORE_GATE: A core with no resident warp for GATE µs is gated (R477) -/
  | coreGate (c : Nat)
  /-- HBM_SELF_REFRESH: An HBM channel enters self-refresh after 10 µs without access (R477) -/
  | hbmSelfRefresh (stack : Nat) (ch : Nat)
  /-- LAUNCH_RECORD: A host launch record is read and its grid enters the pending list (R453) -/
  | launchRecord (q : Nat)
  /-- STREAM_START_RECORD: A stream start record starts a free stream on a copy engine (R454) -/
  | streamStartRecord (q : Nat)
  /-- WAIT_RECORD: A wait record is taken and its semaphore polled (R455) -/
  | waitRecord (q : Nat)
  /-- WAIT_SATISFIED: A wait record is consumed once its semaphore reaches the threshold (R455) -/
  | waitSatisfied (q : Nat)
  /-- SIGNAL_RECORD: A signal record is taken and waits for earlier launches and streams (R455) -/
  | signalRecord (q : Nat)
  /-- SIGNAL_PERFORM: A signal record adds or stores its value as a system-scope release (R455) -/
  | signalPerform (q : Nat)
  /-- NOP_RECORD: A NOP record is consumed at once (R452) -/
  | nopRecord (q : Nat)
  /-- MRD: An OHL memory read, answered by a CPL (R447) -/
  | mrd (port : Nat) (tag : Nat) (addr : Nat) (len : Nat)
  /-- MWR: An OHL posted memory write (R447) -/
  | mwr (port : Nat) (addr : Nat) (data : List (BitVec 8))
  /-- CPL: An OHL completion of an MRD or RRD (R447) -/
  | cpl (port : Nat) (tag : Nat) (abort : Bool) (data : List (BitVec 8))
  /-- TAIL: An OHL message advancing a host queue's TAIL (R451) -/
  | tail (port : Nat) (arg : BitVec 64)
  /-- QCTL_RESUME: Rereads the queue descriptor, clears ERR and retries the record at HEAD (R456) -/
  | qctlResume (port : Nat) (arg : BitVec 64)
  /-- QCTL_STOP: Stops a queue after the record in progress (R456) -/
  | qctlStop (port : Nat) (arg : BitVec 64)
  /-- RRD: A host read of a system register, answered by a CPL (R447) -/
  | rrd (port : Nat) (tag : Nat) (arg : BitVec 64)
  /-- RWR: A host write of a system register with a system-scope release (R447) -/
  | rwr (port : Nat) (arg : BitVec 64) (value : BitVec 64)
  /-- BOOT: A block of the boot image lands in F0's L2 (R474) -/
  | boot (offset : Nat) (data : List (BitVec 8))
  /-- BOOTEND: Ends the boot image, which F0 checks (R474) -/
  | bootend
  /-- POWER_ON_RESET: Power-on reset puts the module in its reset state (R473) -/
  | powerOnReset
  /-- CXL_VIRAL: A viral indication sets VIRAL and takes the port offline (R469) -/
  | cxlViral (port : Nat)
  /-- ENUMERATE: Trains, enumerates and programs an expander (R471) -/
  | enumerate (port : Nat) (base : Nat) (size : Nat) (lanes : Nat)
  /-- ONLINE: Puts an enumerated expander in service (R471) -/
  | online (port : Nat)
  /-- EVACUATE: Starts evacuation of an in-service expander (R471) -/
  | evacuate (port : Nat)
  /-- OFFLINE: Takes an expander out of service (R471) -/
  | offline (port : Nat)
  /-- TEST: Runs a training test on a drained HBM channel (R485) -/
  | test (stack : Nat) (ch : Nat) (value : BitVec 64) (fail : BitVec 64)
  /-- APPLY: Loads a channel's live delays from the delay table (R485) -/
  | apply (stack : Nat) (ch : Nat)
  /-- REPAIR: Remaps logical lanes onto spare lanes (R485) -/
  | repair (stack : Nat) (ch : Nat) (value : BitVec 64)
  /-- CHANNEL_RELEASE: A channel operation ends, the channel is released and held accesses proceed (R485) -/
  | channelRelease (stack : Nat) (ch : Nat)
  /-- COMMIT: Latches die-link schedule entries and OWNER for install (R465) -/
  | commit (die : Nat) (peer : Nat)
  /-- MCMD: Queues a physical page move on the migration engine (R472) -/
  | mcmd (die : Nat)
  /-- PAGE_MOVE: The migration engine completes a page move and signals MSEM (R472) -/
  | pageMove (die : Nat)
  /-- DRAIN: Starts the replacement of a logical core (R491) -/
  | drain (die : Nat) (value : BitVec 64)
  /-- CORE_EMPTY: A drained core holds no warp and a spare takes its index for self-test (R491) -/
  | coreEmpty (die : Nat)
  /-- SELF_TEST_DONE: A spare's self-tests end and it enters service or is retired (R491) -/
  | selfTestDone (die : Nat) (pass : Bool)
  /-- FREEZE: Makes the grid named by GSEL ineligible for admission (R495) -/
  | freeze (die : Nat)
  /-- THAW: Undoes FREEZE (R495) -/
  | thaw (die : Nat)
  /-- DROP: Removes a frozen grid's unadmitted workgroups (R495) -/
  | drop (die : Nat)
  /-- ELSTAT_RETIRE: A write to ELSTAT retires the oldest error-log entries (R444) -/
  | elstatRetire (die : Nat) (count : Nat)
  /-- CTX_WORD0_WRITE: A write of a slot's word 0, ignored when it would clear VALID of a live slot (R419) -/
  | ctxWord0Write (ctx : Nat) (value : BitVec 64)
  /-- CBMAG_WRITE: A write of a CBMAG entry of a context slot (R142) -/
  | cbmagWrite (ctx : Nat) (index : Nat) (value : BitVec 64)
  /-- FAULT_QUEUE_ENABLE: A valid FQLOG2 starts the fault ring and writes held faults (R428) -/
  | faultQueueEnable (die : Nat) (value : BitVec 64)
  /-- TRAP_RING_ENABLE: A valid TQLOG2 starts the trap-notice ring and writes held notices (R428) -/
  | trapRingEnable (die : Nat) (value : BitVec 64)
  /-- REG_WRITE: A write to a system register that has no behaviour of its own (R416) -/
  | regWrite (addr : BitVec 64) (value : BitVec 64)
  /-- DTIME_EN_WRITE: A write of DTIME.EN starts or stops a die's time exchanges, and clearing it takes a LOCKED die to ACQUIRE (R128) -/
  | dtimeEnWrite (die : Nat) (value : BitVec 64)
  /-- LINK_CONTROL_FLIT: A peer's EN arrives in link-control flits, so the die starts or stops counting that peer and restarts its runs (R128) -/
  | linkControlFlit (die : Nat) (peer : Nat)
  /-- DIE_POWER_LIMIT: Each die averages its power over 1 ms, updates PWR and lowers slot clocks to stay at or below PLIM (R478) -/
  | diePowerLimit (die : Nat) (watts : Nat)
  /-- MATRIX_SELF_TEST: A core passes its FP6 or FP4 matrix self-test during bring-up, which raises MMA_FMT_CORE, MMA_FMT and SERVICE bits (R475) -/
  | matrixSelfTest (c : Nat) (path : Nat)
  /-- CLUSTER_RELEASE: Firmware releases a cluster into service, raising CORES and CLOCK_MHZ (R475) -/
  | clusterRelease (die : Nat) (cl : Nat)
  /-- ENGINE_INSTRUCTION_DONE: ATTN or EXPD finishes all reads and computation, issues its writes, and its split becomes ready again (R335) -/
  | engineInstructionDone (w : Nat) (sp : Nat)
  /-- TRMODE_WRITE: A write of an HBM channel's TRMODE enters or leaves trial mode, changing SERVICE.LIVE and whether TEST and APPLY are accepted (R484) -/
  | trmodeWrite (stack : Nat) (ch : Nat) (value : BitVec 64)
deriving DecidableEq, Repr

end Sys2Proof
end

