-- ==== Sys2Proof/WellFormed.lean ====
section
/-! DEFINITION. The static checks on the fields of an instruction (R212 to R215, R229, R232): those that depend neither on
the launch nor on the hints of the group. -/

namespace Sys2Proof

/-- The field names an even register (R212). -/
def even {n : Nat} (x : BitVec n) : Bool := x.toNat % 2 == 0
/-- The field is a multiple of k (R212). -/
def mult {n : Nat} (k : Nat) (x : BitVec n) : Bool := x.toNat % k == 0
/-- A 7-bit field that names a k register (R212). -/
def kreg (x : BitVec 7) : Bool := decide (x.toNat < 16)
/-- A 7-bit field that names a destination k register (R212). -/
def kdst (x : BitVec 7) : Bool := decide (x.toNat < 16) && x != 0
/-- The data group of an LDL or STL by its size code (R228, R305). -/
def group (z : BitVec 2) (d : BitVec 7) : Bool := if z == 1 then mult 2 d else if z == 2 then mult 4 d else true
/-- A stream operand with its reserved bits clear that is global (R327). -/
def globalOp (x : BitVec 64) : Bool := x.extractLsb' 57 3 == 0 && x.extractLsb' 61 3 == 0
/-- A destination operand: global, or local with no REL and an offset below 2^18 (R327). -/
def dstOp (x : BitVec 64) : Bool :=
  globalOp x || (x.extractLsb' 57 4 == 0 && x.extractLsb' 63 1 == 0 && x.extractLsb' 61 2 != 3 && x.extractLsb' 18 39 == 0)
/-- A format code that CCONV takes (R328). -/
def convCode (x : BitVec 4) : Bool := [0, 1, 2, 3, 6, 8, 9].contains x.toNat

/-- What kind of row a constructor stands for. -/
inductive Kind where
  /-- an instruction word of the core (R209) -/
  | core
  /-- a stream instruction (R230) -/
  | stream
  /-- another step of the module -/
  | event
deriving DecidableEq, Repr

/-- The kind of each constructor. -/
def Instr.rowKind : Instr → Kind
  | .sadd _ _ _ => .core
  | .ssub _ _ _ => .core
  | .smul _ _ _ => .core
  | .smulh _ _ _ => .core
  | .smulhU _ _ _ => .core
  | .sdiv _ _ _ => .core
  | .sdivU _ _ _ => .core
  | .sand _ _ _ => .core
  | .sor _ _ _ => .core
  | .sxor _ _ _ => .core
  | .sandn _ _ _ => .core
  | .sshl _ _ _ => .core
  | .sshr _ _ _ => .core
  | .ssra _ _ _ => .core
  | .smin _ _ _ => .core
  | .sminU _ _ _ => .core
  | .smax _ _ _ => .core
  | .smaxU _ _ _ => .core
  | .ssetEq _ _ _ => .core
  | .ssetNe _ _ _ => .core
  | .ssetLt _ _ _ => .core
  | .ssetLe _ _ _ => .core
  | .ssetLtU _ _ _ => .core
  | .ssetLeU _ _ _ => .core
  | .ssel _ _ _ => .core
  | .smov _ _ => .core
  | .sclz _ _ => .core
  | .spopc _ _ => .core
  | .sbfx _ _ _ => .core
  | .sbfi _ _ _ => .core
  | .saddQ _ _ _ => .core
  | .ssubQ _ _ _ => .core
  | .smulQ _ _ _ => .core
  | .smulhQ _ _ _ => .core
  | .smulhUQ _ _ _ => .core
  | .sdivQ _ _ _ => .core
  | .sdivUQ _ _ _ => .core
  | .sandQ _ _ _ => .core
  | .sorQ _ _ _ => .core
  | .sxorQ _ _ _ => .core
  | .sandnQ _ _ _ => .core
  | .sshlQ _ _ _ => .core
  | .sshrQ _ _ _ => .core
  | .ssraQ _ _ _ => .core
  | .sminQ _ _ _ => .core
  | .sminUQ _ _ _ => .core
  | .smaxQ _ _ _ => .core
  | .smaxUQ _ _ _ => .core
  | .ssetEqQ _ _ _ => .core
  | .ssetNeQ _ _ _ => .core
  | .ssetLtQ _ _ _ => .core
  | .ssetLeQ _ _ _ => .core
  | .ssetLtUQ _ _ _ => .core
  | .ssetLeUQ _ _ _ => .core
  | .sselQ _ _ _ => .core
  | .smovQ _ _ => .core
  | .sclzQ _ _ => .core
  | .spopcQ _ _ => .core
  | .sbfxQ _ _ _ => .core
  | .sbfiQ _ _ _ => .core
  | .simm _ _ => .core
  | .saddImm _ _ _ => .core
  | .sandImm _ _ _ => .core
  | .sorImm _ _ _ => .core
  | .sxorImm _ _ _ => .core
  | .sshlImm _ _ _ => .core
  | .sshrImm _ _ _ => .core
  | .ssraImm _ _ _ => .core
  | .kand _ _ _ => .core
  | .kor _ _ _ => .core
  | .kxor _ _ _ => .core
  | .kandn _ _ _ => .core
  | .kmov _ _ => .core
  | .kmovFromQ _ _ => .core
  | .kmovToQ _ _ => .core
  | .kpopc _ _ => .core
  | .kfirst _ _ => .core
  | .br _ _ _ => .core
  | .brd _ _ _ => .core
  | .call _ => .core
  | .loop _ _ => .core
  | .join _ => .core
  | .calli _ => .core
  | .ret => .core
  | .jmpi _ => .core
  | .lexit => .core
  | .exit => .core
  | .yield => .core
  | .nop => .core
  | .waitc _ _ => .core
  | .bar _ => .core
  | .launch _ _ => .core
  | .launchQueueEntry _ _ => .event
  | .qcap _ _ => .core
  | .srd _ _ => .core
  | .trap _ => .core
  | .trapBind _ => .core
  | .bkpt _ => .core
  | .vadd _ _ _ _ => .core
  | .vsub _ _ _ _ => .core
  | .vmul _ _ _ _ => .core
  | .vmulh _ _ _ _ => .core
  | .vmad _ _ _ _ => .core
  | .vand _ _ _ _ => .core
  | .vor _ _ _ _ => .core
  | .vxor _ _ _ _ => .core
  | .vshl _ _ _ _ => .core
  | .vshr _ _ _ _ => .core
  | .vsra _ _ _ _ => .core
  | .vmin _ _ _ _ => .core
  | .vmax _ _ _ _ => .core
  | .vsel _ _ _ _ => .core
  | .vbfx _ _ _ _ => .core
  | .vabs _ _ _ => .core
  | .vclz _ _ _ => .core
  | .vpopc _ _ _ => .core
  | .vmov _ _ _ => .core
  | .vbcst _ _ _ => .core
  | .vsetEq _ _ _ _ => .core
  | .vsetNe _ _ _ _ => .core
  | .vsetLt _ _ _ _ => .core
  | .vsetLe _ _ _ _ => .core
  | .vsetLtU _ _ _ _ => .core
  | .vsetLeU _ _ _ _ => .core
  | .vmulhU _ _ _ _ => .core
  | .vminU _ _ _ _ => .core
  | .vmaxU _ _ _ _ => .core
  | .vaddD _ _ _ _ => .core
  | .vsubD _ _ _ _ => .core
  | .vmulD _ _ _ _ => .core
  | .vmulhD _ _ _ _ => .core
  | .vmadD _ _ _ _ => .core
  | .vandD _ _ _ _ => .core
  | .vorD _ _ _ _ => .core
  | .vxorD _ _ _ _ => .core
  | .vshlD _ _ _ _ => .core
  | .vshrD _ _ _ _ => .core
  | .vsraD _ _ _ _ => .core
  | .vminD _ _ _ _ => .core
  | .vmaxD _ _ _ _ => .core
  | .vselD _ _ _ _ => .core
  | .vbfxD _ _ _ _ => .core
  | .vabsD _ _ _ => .core
  | .vclzD _ _ _ => .core
  | .vpopcD _ _ _ => .core
  | .vmovD _ _ _ => .core
  | .vbcstD _ _ _ => .core
  | .vsetEqD _ _ _ _ => .core
  | .vsetNeD _ _ _ _ => .core
  | .vsetLtD _ _ _ _ => .core
  | .vsetLeD _ _ _ _ => .core
  | .vsetLtUD _ _ _ _ => .core
  | .vsetLeUD _ _ _ _ => .core
  | .vmulhUD _ _ _ _ => .core
  | .vminUD _ _ _ _ => .core
  | .vmaxUD _ _ _ _ => .core
  | .vfadd _ _ _ _ => .core
  | .vfsub _ _ _ _ => .core
  | .vfmul _ _ _ _ => .core
  | .vfma _ _ _ _ => .core
  | .vfmin _ _ _ _ => .core
  | .vfmax _ _ _ _ => .core
  | .vfsetEq _ _ _ _ => .core
  | .vfsetLt _ _ _ _ => .core
  | .vfsetLe _ _ _ _ => .core
  | .vfsetUn _ _ _ _ => .core
  | .vfcls _ _ _ => .core
  | .vrcp _ _ _ => .core
  | .vrsq _ _ _ => .core
  | .vsqrt _ _ _ => .core
  | .vexp2 _ _ _ => .core
  | .vlog2 _ _ _ => .core
  | .vfaddD _ _ _ _ => .core
  | .vfsubD _ _ _ _ => .core
  | .vfmulD _ _ _ _ => .core
  | .vfmaD _ _ _ _ => .core
  | .vfminD _ _ _ _ => .core
  | .vfmaxD _ _ _ _ => .core
  | .vfsetEqD _ _ _ _ => .core
  | .vfsetLtD _ _ _ _ => .core
  | .vfsetLeD _ _ _ _ => .core
  | .vfsetUnD _ _ _ _ => .core
  | .vfclsD _ _ _ => .core
  | .vrcpD _ _ _ => .core
  | .vrsqD _ _ _ => .core
  | .vsqrtD _ _ _ => .core
  | .vexp2D _ _ _ => .core
  | .vlog2D _ _ _ => .core
  | .vcvt _ _ _ _ _ => .core
  | .vqmx _ _ => .core
  | .vdqmx _ _ _ => .core
  | .vcbd _ _ _ => .core
  | .vperm _ _ _ _ => .core
  | .vshfl _ _ _ _ => .core
  | .vred _ _ => .core
  | .vscan _ _ => .core
  | .vsort _ _ _ _ => .core
  | .vtopk _ _ _ => .core
  | .vrand _ _ _ => .core
  | .gori2 _ _ _ _ => .core
  | .gori3 _ _ _ _ => .core
  | .ginc _ _ _ _ => .core
  | .gins _ _ _ _ => .core
  | .gsegx _ _ _ _ => .core
  | .vaddImm _ _ _ => .core
  | .vandImm _ _ _ => .core
  | .vshlImm _ _ _ => .core
  | .vshrImm _ _ _ => .core
  | .vsraImm _ _ _ => .core
  | .vmovImm _ _ => .core
  | .ldB _ _ _ _ => .core
  | .ldSb _ _ _ _ => .core
  | .ldH _ _ _ _ => .core
  | .ldSh _ _ _ _ => .core
  | .ldW _ _ _ _ => .core
  | .ldD _ _ _ _ => .core
  | .ldQ _ _ _ _ => .core
  | .ldPrvB _ _ _ => .core
  | .ldPrvSb _ _ _ => .core
  | .ldPrvH _ _ _ => .core
  | .ldPrvSh _ _ _ => .core
  | .ldPrvW _ _ _ => .core
  | .ldPrvD _ _ _ => .core
  | .stB _ _ _ _ => .core
  | .stH _ _ _ _ => .core
  | .stW _ _ _ _ => .core
  | .stD _ _ _ _ => .core
  | .stQ _ _ _ _ => .core
  | .stPrvB _ _ _ => .core
  | .stPrvH _ _ _ => .core
  | .stPrvW _ _ _ => .core
  | .stPrvD _ _ _ => .core
  | .ldl _ _ _ _ _ => .core
  | .stl _ _ _ _ _ => .core
  | .atomAdd _ _ _ _ => .core
  | .atomAnd _ _ _ _ => .core
  | .atomOr _ _ _ _ => .core
  | .atomXor _ _ _ _ => .core
  | .atomMin _ _ _ _ => .core
  | .atomMax _ _ _ _ => .core
  | .atomMinU _ _ _ _ => .core
  | .atomMaxU _ _ _ _ => .core
  | .atomExch _ _ _ _ => .core
  | .atomAddD _ _ _ _ => .core
  | .atomExchD _ _ _ _ => .core
  | .atomFadd _ _ _ _ => .core
  | .atomAddPosted _ _ _ _ => .core
  | .atomAndPosted _ _ _ _ => .core
  | .atomOrPosted _ _ _ _ => .core
  | .atomXorPosted _ _ _ _ => .core
  | .atomMinPosted _ _ _ _ => .core
  | .atomMaxPosted _ _ _ _ => .core
  | .atomMinUPosted _ _ _ _ => .core
  | .atomMaxUPosted _ _ _ _ => .core
  | .atomExchPosted _ _ _ _ => .core
  | .atomAddDPosted _ _ _ _ => .core
  | .atomExchDPosted _ _ _ _ => .core
  | .atomFaddPosted _ _ _ _ => .core
  | .casW _ _ _ _ => .core
  | .casD _ _ _ _ => .core
  | .casQ _ _ _ _ => .core
  | .fence _ _ => .core
  | .cwb _ _ => .core
  | .cinvD _ _ => .core
  | .cinvI _ _ => .core
  | .prefL2 _ _ => .core
  | .prefL1 _ _ => .core
  | .xlate _ _ _ => .core
  | .xdrop _ => .core
  | .sems _ _ => .core
  | .semw _ _ => .core
  | .semwSatisfied _ _ => .event
  | .migrate _ => .core
  | .migrateShip _ => .event
  | .ldtW _ _ _ _ => .core
  | .ldtD _ _ _ _ => .core
  | .ldtQ _ _ _ _ => .core
  | .sttW _ _ _ _ => .core
  | .sttD _ _ _ _ => .core
  | .sttQ _ _ _ _ => .core
  | .tcopy _ _ _ => .core
  | .tcopyGath _ _ _ _ => .core
  | .tcopyScat _ _ _ _ => .core
  | .seal _ _ _ => .core
  | .hfree _ => .core
  | .mma _ _ _ _ => .core
  | .mloop _ _ _ => .core
  | .mrdy _ => .core
  | .jointIssuePairing _ => .event
  | .mfence _ => .core
  | .mwait _ _ => .core
  | .batchComplete _ => .event
  | .sufx _ => .core
  | .attn _ _ => .core
  | .selpg _ _ => .core
  | .massr _ _ _ _ => .core
  | .dcln _ _ _ => .core
  | .sweepRequest _ _ => .event
  | .tier _ _ _ _ => .core
  | .ctrc _ _ => .core
  | .expd _ _ _ _ => .core
  | .sqgrow _ _ _ => .core
  | .sqgrowSlotCopy _ => .event
  | .sqgrowComplete _ => .event
  | .tlbinv _ _ _ => .core
  | .tlbinvPerform _ _ => .event
  | .tlback => .core
  | .tlbackComplete _ _ => .event
  | .ctxsv _ _ _ => .core
  | .ctxld _ _ => .core
  | .tret _ _ => .core
  | .srr _ _ => .core
  | .srw _ _ => .core
  | .preemptReq _ => .core
  | .preemptWait _ _ => .core
  | .preemptClr _ => .core
  | .fltqPop _ => .core
  | .fltqRpl _ _ => .core
  | .fltqAcc _ _ => .core
  | .fltqTpop _ => .core
  | .claimResume _ _ => .event
  | .himm _ => .core
  | .hgrd _ _ => .core
  | .hstl _ => .core
  | .hmod _ _ _ _ _ _ => .core
  | .hfe _ => .core
  | .hfil _ _ => .core
  | .hadd _ _ => .core
  | .cpy _ _ _ _ => .stream
  | .cpy2 _ _ _ _ _ _ _ => .stream
  | .cgath _ _ _ _ _ _ _ => .stream
  | .cscat _ _ _ _ _ _ _ => .stream
  | .cfill _ _ _ _ => .stream
  | .cconv _ _ _ _ _ _ _ => .stream
  | .csems _ _ _ => .stream
  | .csemw _ _ => .stream
  | .csemwSatisfied _ => .event
  | .cloop _ _ => .stream
  | .cjmp _ => .stream
  | .chalt => .stream
  | .splitPromotion _ _ => .event
  | .multicycleResult _ => .event
  | .loadComplete _ => .event
  | .storePerformed _ => .event
  | .atomicPerformed _ => .event
  | .remoteLocalComplete _ => .event
  | .tcopyRowLanded _ => .event
  | .writeApply _ _ => .event
  | .pageWalk _ _ _ => .event
  | .faultHeldRelease _ => .event
  | .faultReplay _ => .event
  | .skidStop _ _ => .event
  | .trapDelivery _ => .event
  | .forcedSave _ => .event
  | .watchdog _ => .event
  | .contextSave _ => .event
  | .sttArrival _ _ => .event
  | .sttVisible _ _ => .event
  | .tensedStoreAdmit _ _ => .event
  | .ldtArrival _ _ => .event
  | .ldtPerformed _ _ => .event
  | .lateNotice _ => .event
  | .outboundAccessAbort _ => .event
  | .inboundAccessTimeout _ => .event
  | .syncExchange _ _ => .event
  | .syncReceive _ _ => .event
  | .syncReply _ _ => .event
  | .exchangeMissed _ _ => .event
  | .flitReplay _ _ => .event
  | .scheduleInstall _ _ => .event
  | .declensionInterval _ _ => .event
  | .recordSweep _ => .event
  | .frameSwap _ => .event
  | .readerEpochAdvance _ => .event
  | .oldFrameFree _ => .event
  | .dispatchStep _ => .event
  | .workgroupRetire _ => .event
  | .gridComplete _ => .event
  | .gridPromotion _ => .event
  | .coreGate _ => .event
  | .hbmSelfRefresh _ _ => .event
  | .launchRecord _ => .event
  | .streamStartRecord _ => .event
  | .waitRecord _ => .event
  | .waitSatisfied _ => .event
  | .signalRecord _ => .event
  | .signalPerform _ => .event
  | .nopRecord _ => .event
  | .mrd _ _ _ _ => .event
  | .mwr _ _ _ => .event
  | .cpl _ _ _ _ => .event
  | .tail _ _ => .event
  | .qctlResume _ _ => .event
  | .qctlStop _ _ => .event
  | .rrd _ _ _ => .event
  | .rwr _ _ _ => .event
  | .boot _ _ => .event
  | .bootend => .event
  | .powerOnReset => .event
  | .cxlViral _ => .event
  | .enumerate _ _ _ _ => .event
  | .online _ => .event
  | .evacuate _ => .event
  | .offline _ => .event
  | .test _ _ _ _ => .event
  | .apply _ _ => .event
  | .repair _ _ _ => .event
  | .channelRelease _ _ => .event
  | .commit _ _ => .event
  | .mcmd _ => .event
  | .pageMove _ => .event
  | .drain _ _ => .event
  | .coreEmpty _ => .event
  | .selfTestDone _ _ => .event
  | .freeze _ => .event
  | .thaw _ => .event
  | .drop _ => .event
  | .elstatRetire _ _ => .event
  | .ctxWord0Write _ _ => .event
  | .cbmagWrite _ _ _ => .event
  | .faultQueueEnable _ _ => .event
  | .trapRingEnable _ _ => .event
  | .regWrite _ _ => .event
  | .dtimeEnWrite _ _ => .event
  | .linkControlFlit _ _ => .event
  | .diePowerLimit _ _ => .event
  | .matrixSelfTest _ _ => .event
  | .clusterRelease _ _ => .event
  | .engineInstructionDone _ _ => .event
  | .trmodeWrite _ _ _ => .event

/-- The static checks of each constructor. Steps that are no instruction word have none. -/
def Instr.wf : Instr → Bool
  | .sadd _ _ _ => true
  | .ssub _ _ _ => true
  | .smul _ _ _ => true
  | .smulh _ _ _ => true
  | .smulhU _ _ _ => true
  | .sdiv _ _ _ => true
  | .sdivU _ _ _ => true
  | .sand _ _ _ => true
  | .sor _ _ _ => true
  | .sxor _ _ _ => true
  | .sandn _ _ _ => true
  | .sshl _ _ _ => true
  | .sshr _ _ _ => true
  | .ssra _ _ _ => true
  | .smin _ _ _ => true
  | .sminU _ _ _ => true
  | .smax _ _ _ => true
  | .smaxU _ _ _ => true
  | .ssetEq _ _ _ => true
  | .ssetNe _ _ _ => true
  | .ssetLt _ _ _ => true
  | .ssetLe _ _ _ => true
  | .ssetLtU _ _ _ => true
  | .ssetLeU _ _ _ => true
  | .ssel _ _ _ => true
  | .smov _ _ => true
  | .sclz _ _ => true
  | .spopc _ _ => true
  | .sbfx _ _ _ => true
  | .sbfi _ _ _ => true
  | .saddQ d a b => even d && even a && even b
  | .ssubQ d a b => even d && even a && even b
  | .smulQ d a b => even d && even a && even b
  | .smulhQ d a b => even d && even a && even b
  | .smulhUQ d a b => even d && even a && even b
  | .sdivQ d a b => even d && even a && even b
  | .sdivUQ d a b => even d && even a && even b
  | .sandQ d a b => even d && even a && even b
  | .sorQ d a b => even d && even a && even b
  | .sxorQ d a b => even d && even a && even b
  | .sandnQ d a b => even d && even a && even b
  | .sshlQ d a b => even d && even a && even b
  | .sshrQ d a b => even d && even a && even b
  | .ssraQ d a b => even d && even a && even b
  | .sminQ d a b => even d && even a && even b
  | .sminUQ d a b => even d && even a && even b
  | .smaxQ d a b => even d && even a && even b
  | .smaxUQ d a b => even d && even a && even b
  | .ssetEqQ d a b => even d && even a && even b
  | .ssetNeQ d a b => even d && even a && even b
  | .ssetLtQ d a b => even d && even a && even b
  | .ssetLeQ d a b => even d && even a && even b
  | .ssetLtUQ d a b => even d && even a && even b
  | .ssetLeUQ d a b => even d && even a && even b
  | .sselQ d a b => even d && even a && even b
  | .smovQ d b => even d && even b
  | .sclzQ d b => even d && even b
  | .spopcQ d b => even d && even b
  | .sbfxQ d a b => even d && even a && even b
  | .sbfiQ d a b => even d && even a && even b
  | .simm _ _ => true
  | .saddImm _ _ _ => true
  | .sandImm _ _ _ => true
  | .sorImm _ _ _ => true
  | .sxorImm _ _ _ => true
  | .sshlImm _ _ _ => true
  | .sshrImm _ _ _ => true
  | .ssraImm _ _ _ => true
  | .kand d a b => kdst d && kreg a && kreg b
  | .kor d a b => kdst d && kreg a && kreg b
  | .kxor d a b => kdst d && kreg a && kreg b
  | .kandn d a b => kdst d && kreg a && kreg b
  | .kmov d a => kdst d && kreg a
  | .kmovFromQ d a => kdst d && even a
  | .kmovToQ d a => even d && kreg a
  | .kpopc _ a => kreg a
  | .kfirst _ a => kreg a
  | .br c k _ => decide (c.toNat ≤ 8) && (c != 0 || k == 0)
  | .brd r _ _ => r != 0
  | .call _ => true
  | .loop _ _ => true
  | .join a => kreg a
  | .calli a => even a
  | .ret => true
  | .jmpi a => even a
  | .lexit => true
  | .exit => true
  | .yield => true
  | .nop => true
  | .waitc _ p => decide (p.toNat ≤ 4)
  | .bar bs => bs == 2 || bs == 3 || bs == 5
  | .launch _ a => even a
  | .launchQueueEntry _ _ => true
  | .qcap d _ => even d
  | .srd d bs => decide (bs.toNat ≤ 19) && ((bs != 16 && bs != 17) || even d)
  | .trap _ => true
  | .trapBind _ => true
  | .bkpt _ => true
  | .vadd _ _ _ _ => true
  | .vsub _ _ _ _ => true
  | .vmul _ _ _ _ => true
  | .vmulh _ _ _ _ => true
  | .vmad _ _ _ _ => true
  | .vand _ _ _ _ => true
  | .vor _ _ _ _ => true
  | .vxor _ _ _ _ => true
  | .vshl _ _ _ _ => true
  | .vshr _ _ _ _ => true
  | .vsra _ _ _ _ => true
  | .vmin _ _ _ _ => true
  | .vmax _ _ _ _ => true
  | .vsel _ _ _ _ => true
  | .vbfx _ _ _ _ => true
  | .vabs _ _ _ => true
  | .vclz _ _ _ => true
  | .vpopc _ _ _ => true
  | .vmov _ _ _ => true
  | .vbcst _ _ _ => true
  | .vsetEq d _ _ _ => kdst d
  | .vsetNe d _ _ _ => kdst d
  | .vsetLt d _ _ _ => kdst d
  | .vsetLe d _ _ _ => kdst d
  | .vsetLtU d _ _ _ => kdst d
  | .vsetLeU d _ _ _ => kdst d
  | .vmulhU _ _ _ _ => true
  | .vminU _ _ _ _ => true
  | .vmaxU _ _ _ _ => true
  | .vaddD d a b _ => even d && even a && even b
  | .vsubD d a b _ => even d && even a && even b
  | .vmulD d a b _ => even d && even a && even b
  | .vmulhD d a b _ => even d && even a && even b
  | .vmadD d a b _ => even d && even a && even b
  | .vandD d a b _ => even d && even a && even b
  | .vorD d a b _ => even d && even a && even b
  | .vxorD d a b _ => even d && even a && even b
  | .vshlD d a b _ => even d && even a && even b
  | .vshrD d a b _ => even d && even a && even b
  | .vsraD d a b _ => even d && even a && even b
  | .vminD d a b _ => even d && even a && even b
  | .vmaxD d a b _ => even d && even a && even b
  | .vselD d a b _ => even d && even a && even b
  | .vbfxD d a b _ => even d && even a && even b
  | .vabsD d b _ => even d && even b
  | .vclzD d b _ => even d && even b
  | .vpopcD d b _ => even d && even b
  | .vmovD d b _ => even d && even b
  | .vbcstD d a b => even d && even a && even b
  | .vsetEqD d a b _ => kdst d && even a && even b
  | .vsetNeD d a b _ => kdst d && even a && even b
  | .vsetLtD d a b _ => kdst d && even a && even b
  | .vsetLeD d a b _ => kdst d && even a && even b
  | .vsetLtUD d a b _ => kdst d && even a && even b
  | .vsetLeUD d a b _ => kdst d && even a && even b
  | .vmulhUD d a b _ => even d && even a && even b
  | .vminUD d a b _ => even d && even a && even b
  | .vmaxUD d a b _ => even d && even a && even b
  | .vfadd _ _ _ _ => true
  | .vfsub _ _ _ _ => true
  | .vfmul _ _ _ _ => true
  | .vfma _ _ _ _ => true
  | .vfmin _ _ _ _ => true
  | .vfmax _ _ _ _ => true
  | .vfsetEq d _ _ _ => kdst d
  | .vfsetLt d _ _ _ => kdst d
  | .vfsetLe d _ _ _ => kdst d
  | .vfsetUn d _ _ _ => kdst d
  | .vfcls _ _ _ => true
  | .vrcp _ _ _ => true
  | .vrsq _ _ _ => true
  | .vsqrt _ _ _ => true
  | .vexp2 _ _ _ => true
  | .vlog2 _ _ _ => true
  | .vfaddD d a b _ => even d && even a && even b
  | .vfsubD d a b _ => even d && even a && even b
  | .vfmulD d a b _ => even d && even a && even b
  | .vfmaD d a b _ => even d && even a && even b
  | .vfminD d a b _ => even d && even a && even b
  | .vfmaxD d a b _ => even d && even a && even b
  | .vfsetEqD d a b _ => kdst d && even a && even b
  | .vfsetLtD d a b _ => kdst d && even a && even b
  | .vfsetLeD d a b _ => kdst d && even a && even b
  | .vfsetUnD d a b _ => kdst d && even a && even b
  | .vfclsD d b _ => even d && even b
  | .vrcpD d b _ => even d && even b
  | .vrsqD d b _ => even d && even b
  | .vsqrtD d b _ => even d && even b
  | .vexp2D d b _ => even d && even b
  | .vlog2D d b _ => even d && even b
  | .vcvt _ _ _ _ _ => true
  | .vqmx _ _ => true
  | .vdqmx _ _ _ => true
  | .vcbd d _ _ => mult 8 d
  | .vperm _ _ _ _ => true
  | .vshfl _ _ _ _ => true
  | .vred _ _ => true
  | .vscan _ _ => true
  | .vsort d _ b bs => even d && (bs == 0 || b == 0)
  | .vtopk d _ _ => even d
  | .vrand _ _ b => even b
  | .gori2 _ a b bs => even a && (if bs == 0 then b == 0 else even b)
  | .gori3 _ a b bs => even a && (if bs == 0 then b == 0 else even b)
  | .ginc _ a b bs => even a && (if bs == 0 then b == 0 else even b)
  | .gins _ a b bs => even a && (if bs == 0 then b == 0 else even b)
  | .gsegx _ a b bs => even a && (if bs == 0 then b == 0 else even b)
  | .vaddImm _ _ _ => true
  | .vandImm _ _ _ => true
  | .vshlImm _ _ _ => true
  | .vshrImm _ _ _ => true
  | .vsraImm _ _ _ => true
  | .vmovImm _ _ => true
  | .ldB _ _ _ _ => true
  | .ldSb _ _ _ _ => true
  | .ldH _ _ _ _ => true
  | .ldSh _ _ _ _ => true
  | .ldW _ _ _ _ => true
  | .ldD d _ _ _ => even d
  | .ldQ d _ _ _ => mult 4 d
  | .ldPrvB _ _ _ => true
  | .ldPrvSb _ _ _ => true
  | .ldPrvH _ _ _ => true
  | .ldPrvSh _ _ _ => true
  | .ldPrvW _ _ _ => true
  | .ldPrvD d _ _ => even d
  | .stB _ _ _ _ => true
  | .stH _ _ _ _ => true
  | .stW _ _ _ _ => true
  | .stD d _ _ _ => even d
  | .stQ d _ _ _ => mult 4 d
  | .stPrvB _ _ _ => true
  | .stPrvH _ _ _ => true
  | .stPrvW _ _ _ => true
  | .stPrvD d _ _ => even d
  | .ldl u z d _ _ => u != 3 && group z d
  | .stl u z d _ _ => (u == 0 || u == 2) && group z d
  | .atomAdd _ _ _ _ => true
  | .atomAnd _ _ _ _ => true
  | .atomOr _ _ _ _ => true
  | .atomXor _ _ _ _ => true
  | .atomMin _ _ _ _ => true
  | .atomMax _ _ _ _ => true
  | .atomMinU _ _ _ _ => true
  | .atomMaxU _ _ _ _ => true
  | .atomExch _ _ _ _ => true
  | .atomAddD d _ _ _ => even d
  | .atomExchD d _ _ _ => even d
  | .atomFadd _ _ _ _ => true
  | .atomAddPosted _ _ _ _ => true
  | .atomAndPosted _ _ _ _ => true
  | .atomOrPosted _ _ _ _ => true
  | .atomXorPosted _ _ _ _ => true
  | .atomMinPosted _ _ _ _ => true
  | .atomMaxPosted _ _ _ _ => true
  | .atomMinUPosted _ _ _ _ => true
  | .atomMaxUPosted _ _ _ _ => true
  | .atomExchPosted _ _ _ _ => true
  | .atomAddDPosted d _ _ _ => even d
  | .atomExchDPosted d _ _ _ => even d
  | .atomFaddPosted _ _ _ _ => true
  | .casW d _ _ _ => even d
  | .casD d _ _ _ => mult 4 d
  | .casQ d _ _ _ => mult 8 d
  | .fence k bs => k != 0 && decide (k.toNat ≤ 3) && decide (bs.toNat ≤ 6)
  | .cwb a _ => even a
  | .cinvD a _ => even a
  | .cinvI a _ => even a
  | .prefL2 a _ => even a
  | .prefL1 a _ => even a
  | .xlate _ a _ => even a
  | .xdrop _ => true
  | .sems a _ => even a
  | .semw a b => even a && even b
  | .semwSatisfied _ _ => true
  | .migrate a => even a
  | .migrateShip _ => true
  | .ldtW _ _ _ _ => true
  | .ldtD d _ _ _ => even d
  | .ldtQ d _ _ _ => mult 4 d
  | .sttW _ _ _ _ => true
  | .sttD d _ _ _ => even d
  | .sttQ d _ _ _ => mult 4 d
  | .tcopy d _ _ => mult 4 d
  | .tcopyGath d _ _ _ => mult 4 d
  | .tcopyScat d _ _ _ => mult 4 d
  | .seal _ q _ => even q
  | .hfree _ => true
  | .mma _ v _ _ => even v
  | .mloop _ _ _ => true
  | .mrdy v => even v
  | .jointIssuePairing _ => true
  | .mfence _ => true
  | .mwait _ _ => true
  | .batchComplete _ => true
  | .sufx _ => true
  | .attn _ _ => true
  | .selpg _ _ => true
  | .massr q _ r _ => even q && even r
  | .dcln q bs e => even q && (if e == 0 then bs == 0 else even bs)
  | .sweepRequest _ _ => true
  | .tier q _ _ _ => even q
  | .ctrc _ _ => true
  | .expd _ q r _ => even q && even r
  | .sqgrow a b c => even a && even b && even c
  | .sqgrowSlotCopy _ => true
  | .sqgrowComplete _ => true
  | .tlbinv _ a b => even a && even b
  | .tlbinvPerform _ _ => true
  | .tlback => true
  | .tlbackComplete _ _ => true
  | .ctxsv _ a b => even a && even b
  | .ctxld _ a => even a
  | .tret _ a => even a
  | .srr d a => even d && even a
  | .srw a b => even a && even b
  | .preemptReq _ => true
  | .preemptWait _ _ => true
  | .preemptClr _ => true
  | .fltqPop d => mult 32 d
  | .fltqRpl _ _ => true
  | .fltqAcc _ _ => true
  | .fltqTpop d => mult 4 d
  | .claimResume _ _ => true
  | .himm _ => true
  | .hgrd _ _ => true
  | .hstl _ => true
  | .hmod _ vo bs r v _ => (v == 1 || r == 0) && (vo != 0 || bs == 0) && bs != 7
  | .hfe _ => true
  | .hfil f v => f == 0 || v.extractLsb' 16 6 == 0
  | .hadd _ _ => true
  | .cpy _ dst src _ => dstOp dst && globalOp src
  | .cpy2 _ dst src _ _ _ _ => dstOp dst && globalOp src
  | .cgath rb _ _ dst src idx _ => rb != 0 && dstOp dst && globalOp src && globalOp idx
  | .cscat rb _ _ dst src idx _ => rb != 0 && dstOp dst && globalOp src && globalOp idx
  | .cfill _ dst _ _ => dstOp dst
  | .cconv sf tf _ _ dst src _ => convCode sf && convCode tf && dstOp dst && globalOp src
  | .csems _ sem _ => globalOp sem
  | .csemw sem _ => globalOp sem
  | .csemwSatisfied _ => true
  | .cloop back _ => back != 0
  | .cjmp target => target.extractLsb' 57 7 == 0
  | .chalt => true
  | .splitPromotion _ _ => true
  | .multicycleResult _ => true
  | .loadComplete _ => true
  | .storePerformed _ => true
  | .atomicPerformed _ => true
  | .remoteLocalComplete _ => true
  | .tcopyRowLanded _ => true
  | .writeApply _ _ => true
  | .pageWalk _ _ _ => true
  | .faultHeldRelease _ => true
  | .faultReplay _ => true
  | .skidStop _ _ => true
  | .trapDelivery _ => true
  | .forcedSave _ => true
  | .watchdog _ => true
  | .contextSave _ => true
  | .sttArrival _ _ => true
  | .sttVisible _ _ => true
  | .tensedStoreAdmit _ _ => true
  | .ldtArrival _ _ => true
  | .ldtPerformed _ _ => true
  | .lateNotice _ => true
  | .outboundAccessAbort _ => true
  | .inboundAccessTimeout _ => true
  | .syncExchange _ _ => true
  | .syncReceive _ _ => true
  | .syncReply _ _ => true
  | .exchangeMissed _ _ => true
  | .flitReplay _ _ => true
  | .scheduleInstall _ _ => true
  | .declensionInterval _ _ => true
  | .recordSweep _ => true
  | .frameSwap _ => true
  | .readerEpochAdvance _ => true
  | .oldFrameFree _ => true
  | .dispatchStep _ => true
  | .workgroupRetire _ => true
  | .gridComplete _ => true
  | .gridPromotion _ => true
  | .coreGate _ => true
  | .hbmSelfRefresh _ _ => true
  | .launchRecord _ => true
  | .streamStartRecord _ => true
  | .waitRecord _ => true
  | .waitSatisfied _ => true
  | .signalRecord _ => true
  | .signalPerform _ => true
  | .nopRecord _ => true
  | .mrd _ _ _ _ => true
  | .mwr _ _ _ => true
  | .cpl _ _ _ _ => true
  | .tail _ _ => true
  | .qctlResume _ _ => true
  | .qctlStop _ _ => true
  | .rrd _ _ _ => true
  | .rwr _ _ _ => true
  | .boot _ _ => true
  | .bootend => true
  | .powerOnReset => true
  | .cxlViral _ => true
  | .enumerate _ _ _ _ => true
  | .online _ => true
  | .evacuate _ => true
  | .offline _ => true
  | .test _ _ _ _ => true
  | .apply _ _ => true
  | .repair _ _ _ => true
  | .channelRelease _ _ => true
  | .commit _ _ => true
  | .mcmd _ => true
  | .pageMove _ => true
  | .drain _ _ => true
  | .coreEmpty _ => true
  | .selfTestDone _ _ => true
  | .freeze _ => true
  | .thaw _ => true
  | .drop _ => true
  | .elstatRetire _ _ => true
  | .ctxWord0Write _ _ => true
  | .cbmagWrite _ _ _ => true
  | .faultQueueEnable _ _ => true
  | .trapRingEnable _ _ => true
  | .regWrite _ _ => true
  | .dtimeEnWrite _ _ => true
  | .linkControlFlit _ _ => true
  | .diePowerLimit _ _ => true
  | .matrixSelfTest _ _ => true
  | .clusterRelease _ _ => true
  | .engineInstructionDone _ _ => true
  | .trmodeWrite _ _ _ => true

end Sys2Proof
end

