-- ==== Sys2Proof/Decode.lean ====
section
/-! DEFINITION. From instruction words to instructions and back (R209 to R232): a total decoder that rejects by name, and
an encoder written from the same encoding tables. Instr has more constructors with fields than the runtime has tags, so what
builds one is not compiled; the kernel evaluates it. -/

namespace Sys2Proof

noncomputable section

/-- Why words are no instruction (R229, R232). -/
inductive Reject where
  /-- a reserved major opcode or stream opcode -/
  | major
  /-- a reserved function code or hint kind -/
  | func
  /-- a field that the instruction does not use is not zero, or NOPW differs from the table -/
  | unused
  /-- an invalid register field, variant or code -/
  | field
deriving DecidableEq, Repr

/-- Major 0x01 (R228). -/
def decode01 (w : Word) : Except Reject Instr :=
  match (w.extractLsb' 21 5).toNat with
  | 0 => .ok (.sadd (w.extractLsb' 14 7) (w.extractLsb' 7 7) (w.extractLsb' 0 7))
  | 1 => .ok (.ssub (w.extractLsb' 14 7) (w.extractLsb' 7 7) (w.extractLsb' 0 7))
  | 2 => .ok (.smul (w.extractLsb' 14 7) (w.extractLsb' 7 7) (w.extractLsb' 0 7))
  | 3 => .ok (.smulh (w.extractLsb' 14 7) (w.extractLsb' 7 7) (w.extractLsb' 0 7))
  | 4 => .ok (.smulhU (w.extractLsb' 14 7) (w.extractLsb' 7 7) (w.extractLsb' 0 7))
  | 5 => .ok (.sdiv (w.extractLsb' 14 7) (w.extractLsb' 7 7) (w.extractLsb' 0 7))
  | 6 => .ok (.sdivU (w.extractLsb' 14 7) (w.extractLsb' 7 7) (w.extractLsb' 0 7))
  | 7 => .ok (.sand (w.extractLsb' 14 7) (w.extractLsb' 7 7) (w.extractLsb' 0 7))
  | 8 => .ok (.sor (w.extractLsb' 14 7) (w.extractLsb' 7 7) (w.extractLsb' 0 7))
  | 9 => .ok (.sxor (w.extractLsb' 14 7) (w.extractLsb' 7 7) (w.extractLsb' 0 7))
  | 10 => .ok (.sandn (w.extractLsb' 14 7) (w.extractLsb' 7 7) (w.extractLsb' 0 7))
  | 11 => .ok (.sshl (w.extractLsb' 14 7) (w.extractLsb' 7 7) (w.extractLsb' 0 7))
  | 12 => .ok (.sshr (w.extractLsb' 14 7) (w.extractLsb' 7 7) (w.extractLsb' 0 7))
  | 13 => .ok (.ssra (w.extractLsb' 14 7) (w.extractLsb' 7 7) (w.extractLsb' 0 7))
  | 14 => .ok (.smin (w.extractLsb' 14 7) (w.extractLsb' 7 7) (w.extractLsb' 0 7))
  | 15 => .ok (.sminU (w.extractLsb' 14 7) (w.extractLsb' 7 7) (w.extractLsb' 0 7))
  | 16 => .ok (.smax (w.extractLsb' 14 7) (w.extractLsb' 7 7) (w.extractLsb' 0 7))
  | 17 => .ok (.smaxU (w.extractLsb' 14 7) (w.extractLsb' 7 7) (w.extractLsb' 0 7))
  | 18 => .ok (.ssetEq (w.extractLsb' 14 7) (w.extractLsb' 7 7) (w.extractLsb' 0 7))
  | 19 => .ok (.ssetNe (w.extractLsb' 14 7) (w.extractLsb' 7 7) (w.extractLsb' 0 7))
  | 20 => .ok (.ssetLt (w.extractLsb' 14 7) (w.extractLsb' 7 7) (w.extractLsb' 0 7))
  | 21 => .ok (.ssetLe (w.extractLsb' 14 7) (w.extractLsb' 7 7) (w.extractLsb' 0 7))
  | 22 => .ok (.ssetLtU (w.extractLsb' 14 7) (w.extractLsb' 7 7) (w.extractLsb' 0 7))
  | 23 => .ok (.ssetLeU (w.extractLsb' 14 7) (w.extractLsb' 7 7) (w.extractLsb' 0 7))
  | 24 => .ok (.ssel (w.extractLsb' 14 7) (w.extractLsb' 7 7) (w.extractLsb' 0 7))
  | 25 => if w.extractLsb' 7 7 != 0 then .error .unused else .ok (.smov (w.extractLsb' 14 7) (w.extractLsb' 0 7))
  | 26 => if w.extractLsb' 7 7 != 0 then .error .unused else .ok (.sclz (w.extractLsb' 14 7) (w.extractLsb' 0 7))
  | 27 => if w.extractLsb' 7 7 != 0 then .error .unused else .ok (.spopc (w.extractLsb' 14 7) (w.extractLsb' 0 7))
  | 28 => .ok (.sbfx (w.extractLsb' 14 7) (w.extractLsb' 7 7) (w.extractLsb' 0 7))
  | 29 => .ok (.sbfi (w.extractLsb' 14 7) (w.extractLsb' 7 7) (w.extractLsb' 0 7))
  | _ => .error .func

/-- Major 0x02 (R228). -/
def decode02 (w : Word) : Except Reject Instr :=
  match (w.extractLsb' 21 5).toNat with
  | 0 => .ok (.saddQ (w.extractLsb' 14 7) (w.extractLsb' 7 7) (w.extractLsb' 0 7))
  | 1 => .ok (.ssubQ (w.extractLsb' 14 7) (w.extractLsb' 7 7) (w.extractLsb' 0 7))
  | 2 => .ok (.smulQ (w.extractLsb' 14 7) (w.extractLsb' 7 7) (w.extractLsb' 0 7))
  | 3 => .ok (.smulhQ (w.extractLsb' 14 7) (w.extractLsb' 7 7) (w.extractLsb' 0 7))
  | 4 => .ok (.smulhUQ (w.extractLsb' 14 7) (w.extractLsb' 7 7) (w.extractLsb' 0 7))
  | 5 => .ok (.sdivQ (w.extractLsb' 14 7) (w.extractLsb' 7 7) (w.extractLsb' 0 7))
  | 6 => .ok (.sdivUQ (w.extractLsb' 14 7) (w.extractLsb' 7 7) (w.extractLsb' 0 7))
  | 7 => .ok (.sandQ (w.extractLsb' 14 7) (w.extractLsb' 7 7) (w.extractLsb' 0 7))
  | 8 => .ok (.sorQ (w.extractLsb' 14 7) (w.extractLsb' 7 7) (w.extractLsb' 0 7))
  | 9 => .ok (.sxorQ (w.extractLsb' 14 7) (w.extractLsb' 7 7) (w.extractLsb' 0 7))
  | 10 => .ok (.sandnQ (w.extractLsb' 14 7) (w.extractLsb' 7 7) (w.extractLsb' 0 7))
  | 11 => .ok (.sshlQ (w.extractLsb' 14 7) (w.extractLsb' 7 7) (w.extractLsb' 0 7))
  | 12 => .ok (.sshrQ (w.extractLsb' 14 7) (w.extractLsb' 7 7) (w.extractLsb' 0 7))
  | 13 => .ok (.ssraQ (w.extractLsb' 14 7) (w.extractLsb' 7 7) (w.extractLsb' 0 7))
  | 14 => .ok (.sminQ (w.extractLsb' 14 7) (w.extractLsb' 7 7) (w.extractLsb' 0 7))
  | 15 => .ok (.sminUQ (w.extractLsb' 14 7) (w.extractLsb' 7 7) (w.extractLsb' 0 7))
  | 16 => .ok (.smaxQ (w.extractLsb' 14 7) (w.extractLsb' 7 7) (w.extractLsb' 0 7))
  | 17 => .ok (.smaxUQ (w.extractLsb' 14 7) (w.extractLsb' 7 7) (w.extractLsb' 0 7))
  | 18 => .ok (.ssetEqQ (w.extractLsb' 14 7) (w.extractLsb' 7 7) (w.extractLsb' 0 7))
  | 19 => .ok (.ssetNeQ (w.extractLsb' 14 7) (w.extractLsb' 7 7) (w.extractLsb' 0 7))
  | 20 => .ok (.ssetLtQ (w.extractLsb' 14 7) (w.extractLsb' 7 7) (w.extractLsb' 0 7))
  | 21 => .ok (.ssetLeQ (w.extractLsb' 14 7) (w.extractLsb' 7 7) (w.extractLsb' 0 7))
  | 22 => .ok (.ssetLtUQ (w.extractLsb' 14 7) (w.extractLsb' 7 7) (w.extractLsb' 0 7))
  | 23 => .ok (.ssetLeUQ (w.extractLsb' 14 7) (w.extractLsb' 7 7) (w.extractLsb' 0 7))
  | 24 => .ok (.sselQ (w.extractLsb' 14 7) (w.extractLsb' 7 7) (w.extractLsb' 0 7))
  | 25 => if w.extractLsb' 7 7 != 0 then .error .unused else .ok (.smovQ (w.extractLsb' 14 7) (w.extractLsb' 0 7))
  | 26 => if w.extractLsb' 7 7 != 0 then .error .unused else .ok (.sclzQ (w.extractLsb' 14 7) (w.extractLsb' 0 7))
  | 27 => if w.extractLsb' 7 7 != 0 then .error .unused else .ok (.spopcQ (w.extractLsb' 14 7) (w.extractLsb' 0 7))
  | 28 => .ok (.sbfxQ (w.extractLsb' 14 7) (w.extractLsb' 7 7) (w.extractLsb' 0 7))
  | 29 => .ok (.sbfiQ (w.extractLsb' 14 7) (w.extractLsb' 7 7) (w.extractLsb' 0 7))
  | _ => .error .func

/-- Major 0x03 (R228). -/
def decode03 (w : Word) : Except Reject Instr :=
  if w.extractLsb' 12 7 != 0 then .error .unused else .ok (.simm (w.extractLsb' 19 7) (w.extractLsb' 0 12))

/-- Major 0x04 (R228). -/
def decode04 (w : Word) : Except Reject Instr :=
  .ok (.saddImm (w.extractLsb' 19 7) (w.extractLsb' 12 7) (w.extractLsb' 0 12))

/-- Major 0x05 (R228). -/
def decode05 (w : Word) : Except Reject Instr :=
  .ok (.sandImm (w.extractLsb' 19 7) (w.extractLsb' 12 7) (w.extractLsb' 0 12))

/-- Major 0x06 (R228). -/
def decode06 (w : Word) : Except Reject Instr :=
  .ok (.sorImm (w.extractLsb' 19 7) (w.extractLsb' 12 7) (w.extractLsb' 0 12))

/-- Major 0x07 (R228). -/
def decode07 (w : Word) : Except Reject Instr :=
  .ok (.sxorImm (w.extractLsb' 19 7) (w.extractLsb' 12 7) (w.extractLsb' 0 12))

/-- Major 0x08 (R228). -/
def decode08 (w : Word) : Except Reject Instr :=
  if w.extractLsb' 5 7 == 0 then .ok (.sshlImm (w.extractLsb' 19 7) (w.extractLsb' 12 7) (w.extractLsb' 0 5))
      else if w.extractLsb' 5 7 == 1 then .ok (.sshrImm (w.extractLsb' 19 7) (w.extractLsb' 12 7) (w.extractLsb' 0 5))
      else if w.extractLsb' 5 7 == 2 then .ok (.ssraImm (w.extractLsb' 19 7) (w.extractLsb' 12 7) (w.extractLsb' 0 5))
      else .error .field

/-- Major 0x09 (R228). -/
def decode09 (w : Word) : Except Reject Instr :=
  match (w.extractLsb' 21 5).toNat with
  | 0 => .ok (.kand (w.extractLsb' 14 7) (w.extractLsb' 7 7) (w.extractLsb' 0 7))
  | 1 => .ok (.kor (w.extractLsb' 14 7) (w.extractLsb' 7 7) (w.extractLsb' 0 7))
  | 2 => .ok (.kxor (w.extractLsb' 14 7) (w.extractLsb' 7 7) (w.extractLsb' 0 7))
  | 3 => .ok (.kandn (w.extractLsb' 14 7) (w.extractLsb' 7 7) (w.extractLsb' 0 7))
  | 4 => if w.extractLsb' 0 7 != 0 then .error .unused else .ok (.kmov (w.extractLsb' 14 7) (w.extractLsb' 7 7))
  | 5 => if w.extractLsb' 0 7 != 0 then .error .unused else .ok (.kmovFromQ (w.extractLsb' 14 7) (w.extractLsb' 7 7))
  | 6 => if w.extractLsb' 0 7 != 0 then .error .unused else .ok (.kmovToQ (w.extractLsb' 14 7) (w.extractLsb' 7 7))
  | 7 => if w.extractLsb' 0 7 != 0 then .error .unused else .ok (.kpopc (w.extractLsb' 14 7) (w.extractLsb' 7 7))
  | 8 => if w.extractLsb' 0 7 != 0 then .error .unused else .ok (.kfirst (w.extractLsb' 14 7) (w.extractLsb' 7 7))
  | _ => .error .func

/-- Major 0x0A (R228). -/
def decode0A (w : Word) : Except Reject Instr :=
  .ok (.br (w.extractLsb' 22 4) (w.extractLsb' 18 4) (w.extractLsb' 0 18))

/-- Major 0x0B (R228). -/
def decode0B (w : Word) : Except Reject Instr :=
  .ok (.brd (w.extractLsb' 22 4) (w.extractLsb' 18 4) (w.extractLsb' 0 18))

/-- Major 0x0C (R228). -/
def decode0C (w : Word) : Except Reject Instr :=
  if w.extractLsb' 18 8 != 0 then .error .unused else .ok (.call (w.extractLsb' 0 18))

/-- Major 0x0D (R228). -/
def decode0D (w : Word) : Except Reject Instr :=
  if w.extractLsb' 22 4 != 0 then .error .unused else .ok (.loop (w.extractLsb' 18 4) (w.extractLsb' 0 18))

/-- Major 0x0E (R228). -/
def decode0E (w : Word) : Except Reject Instr :=
  match (w.extractLsb' 21 5).toNat with
  | 0 => if w.extractLsb' 0 7 != 0 || w.extractLsb' 14 7 != 0 then .error .unused else .ok (.join (w.extractLsb' 7 7))
  | 1 => if w.extractLsb' 0 7 != 0 || w.extractLsb' 14 7 != 0 then .error .unused else .ok (.calli (w.extractLsb' 7 7))
  | 2 => if w.extractLsb' 0 21 != 0 then .error .unused else .ok (.ret)
  | 3 => if w.extractLsb' 0 7 != 0 || w.extractLsb' 14 7 != 0 then .error .unused else .ok (.jmpi (w.extractLsb' 7 7))
  | 4 => if w.extractLsb' 0 21 != 0 then .error .unused else .ok (.lexit)
  | 5 => if w.extractLsb' 0 21 != 0 then .error .unused else .ok (.exit)
  | 6 => if w.extractLsb' 0 21 != 0 then .error .unused else .ok (.yield)
  | 7 => if w.extractLsb' 0 21 != 0 then .error .unused else .ok (.nop)
  | 8 => if w.extractLsb' 14 7 != 0 then .error .unused else .ok (.waitc (w.extractLsb' 7 7) (w.extractLsb' 0 7))
  | 9 => if w.extractLsb' 7 14 != 0 then .error .unused else .ok (.bar (w.extractLsb' 0 7))
  | 10 => if w.extractLsb' 0 7 != 0 then .error .unused else .ok (.launch (w.extractLsb' 14 7) (w.extractLsb' 7 7))
  | 11 => if w.extractLsb' 0 7 != 0 then .error .unused else .ok (.qcap (w.extractLsb' 14 7) (w.extractLsb' 7 7))
  | 12 => if w.extractLsb' 7 7 != 0 then .error .unused else .ok (.srd (w.extractLsb' 14 7) (w.extractLsb' 0 7))
  | 13 => if w.extractLsb' 14 7 == 0 then .ok (.trap (w.extractLsb' 0 14))
      else if w.extractLsb' 14 7 == 1 then .ok (.trapBind (w.extractLsb' 0 14))
      else .error .field
  | 14 => if w.extractLsb' 14 7 != 0 then .error .unused else .ok (.bkpt (w.extractLsb' 0 14))
  | _ => .error .func

/-- Major 0x10 (R228). -/
def decode10 (w : Word) : Except Reject Instr :=
  match (w.extractLsb' 22 4).toNat with
  | 0 => .ok (.vadd (w.extractLsb' 15 7) (w.extractLsb' 8 7) (w.extractLsb' 1 7) (w.extractLsb' 0 1))
  | 1 => .ok (.vsub (w.extractLsb' 15 7) (w.extractLsb' 8 7) (w.extractLsb' 1 7) (w.extractLsb' 0 1))
  | 2 => .ok (.vmul (w.extractLsb' 15 7) (w.extractLsb' 8 7) (w.extractLsb' 1 7) (w.extractLsb' 0 1))
  | 3 => .ok (.vmulh (w.extractLsb' 15 7) (w.extractLsb' 8 7) (w.extractLsb' 1 7) (w.extractLsb' 0 1))
  | 4 => .ok (.vmad (w.extractLsb' 15 7) (w.extractLsb' 8 7) (w.extractLsb' 1 7) (w.extractLsb' 0 1))
  | 5 => .ok (.vand (w.extractLsb' 15 7) (w.extractLsb' 8 7) (w.extractLsb' 1 7) (w.extractLsb' 0 1))
  | 6 => .ok (.vor (w.extractLsb' 15 7) (w.extractLsb' 8 7) (w.extractLsb' 1 7) (w.extractLsb' 0 1))
  | 7 => .ok (.vxor (w.extractLsb' 15 7) (w.extractLsb' 8 7) (w.extractLsb' 1 7) (w.extractLsb' 0 1))
  | 8 => .ok (.vshl (w.extractLsb' 15 7) (w.extractLsb' 8 7) (w.extractLsb' 1 7) (w.extractLsb' 0 1))
  | 9 => .ok (.vshr (w.extractLsb' 15 7) (w.extractLsb' 8 7) (w.extractLsb' 1 7) (w.extractLsb' 0 1))
  | 10 => .ok (.vsra (w.extractLsb' 15 7) (w.extractLsb' 8 7) (w.extractLsb' 1 7) (w.extractLsb' 0 1))
  | 11 => .ok (.vmin (w.extractLsb' 15 7) (w.extractLsb' 8 7) (w.extractLsb' 1 7) (w.extractLsb' 0 1))
  | 12 => .ok (.vmax (w.extractLsb' 15 7) (w.extractLsb' 8 7) (w.extractLsb' 1 7) (w.extractLsb' 0 1))
  | 13 => .ok (.vsel (w.extractLsb' 15 7) (w.extractLsb' 8 7) (w.extractLsb' 1 7) (w.extractLsb' 0 1))
  | 14 => .ok (.vbfx (w.extractLsb' 15 7) (w.extractLsb' 8 7) (w.extractLsb' 1 7) (w.extractLsb' 0 1))
  | _ => .error .func

/-- Major 0x11 (R228). -/
def decode11 (w : Word) : Except Reject Instr :=
  match (w.extractLsb' 22 4).toNat with
  | 0 => if w.extractLsb' 8 7 != 0 then .error .unused else .ok (.vabs (w.extractLsb' 15 7) (w.extractLsb' 1 7) (w.extractLsb' 0 1))
  | 1 => if w.extractLsb' 8 7 != 0 then .error .unused else .ok (.vclz (w.extractLsb' 15 7) (w.extractLsb' 1 7) (w.extractLsb' 0 1))
  | 2 => if w.extractLsb' 8 7 != 0 then .error .unused else .ok (.vpopc (w.extractLsb' 15 7) (w.extractLsb' 1 7) (w.extractLsb' 0 1))
  | 3 => if w.extractLsb' 8 7 != 0 then .error .unused else .ok (.vmov (w.extractLsb' 15 7) (w.extractLsb' 1 7) (w.extractLsb' 0 1))
  | 4 => if w.extractLsb' 0 1 != 1 then .error .field else .ok (.vbcst (w.extractLsb' 15 7) (w.extractLsb' 8 7) (w.extractLsb' 1 7))
  | 5 => .ok (.vsetEq (w.extractLsb' 15 7) (w.extractLsb' 8 7) (w.extractLsb' 1 7) (w.extractLsb' 0 1))
  | 6 => .ok (.vsetNe (w.extractLsb' 15 7) (w.extractLsb' 8 7) (w.extractLsb' 1 7) (w.extractLsb' 0 1))
  | 7 => .ok (.vsetLt (w.extractLsb' 15 7) (w.extractLsb' 8 7) (w.extractLsb' 1 7) (w.extractLsb' 0 1))
  | 8 => .ok (.vsetLe (w.extractLsb' 15 7) (w.extractLsb' 8 7) (w.extractLsb' 1 7) (w.extractLsb' 0 1))
  | 9 => .ok (.vsetLtU (w.extractLsb' 15 7) (w.extractLsb' 8 7) (w.extractLsb' 1 7) (w.extractLsb' 0 1))
  | 10 => .ok (.vsetLeU (w.extractLsb' 15 7) (w.extractLsb' 8 7) (w.extractLsb' 1 7) (w.extractLsb' 0 1))
  | 11 => .ok (.vmulhU (w.extractLsb' 15 7) (w.extractLsb' 8 7) (w.extractLsb' 1 7) (w.extractLsb' 0 1))
  | 12 => .ok (.vminU (w.extractLsb' 15 7) (w.extractLsb' 8 7) (w.extractLsb' 1 7) (w.extractLsb' 0 1))
  | 13 => .ok (.vmaxU (w.extractLsb' 15 7) (w.extractLsb' 8 7) (w.extractLsb' 1 7) (w.extractLsb' 0 1))
  | _ => .error .func

/-- Major 0x12 (R228). -/
def decode12 (w : Word) : Except Reject Instr :=
  match (w.extractLsb' 22 4).toNat with
  | 0 => .ok (.vaddD (w.extractLsb' 15 7) (w.extractLsb' 8 7) (w.extractLsb' 1 7) (w.extractLsb' 0 1))
  | 1 => .ok (.vsubD (w.extractLsb' 15 7) (w.extractLsb' 8 7) (w.extractLsb' 1 7) (w.extractLsb' 0 1))
  | 2 => .ok (.vmulD (w.extractLsb' 15 7) (w.extractLsb' 8 7) (w.extractLsb' 1 7) (w.extractLsb' 0 1))
  | 3 => .ok (.vmulhD (w.extractLsb' 15 7) (w.extractLsb' 8 7) (w.extractLsb' 1 7) (w.extractLsb' 0 1))
  | 4 => .ok (.vmadD (w.extractLsb' 15 7) (w.extractLsb' 8 7) (w.extractLsb' 1 7) (w.extractLsb' 0 1))
  | 5 => .ok (.vandD (w.extractLsb' 15 7) (w.extractLsb' 8 7) (w.extractLsb' 1 7) (w.extractLsb' 0 1))
  | 6 => .ok (.vorD (w.extractLsb' 15 7) (w.extractLsb' 8 7) (w.extractLsb' 1 7) (w.extractLsb' 0 1))
  | 7 => .ok (.vxorD (w.extractLsb' 15 7) (w.extractLsb' 8 7) (w.extractLsb' 1 7) (w.extractLsb' 0 1))
  | 8 => .ok (.vshlD (w.extractLsb' 15 7) (w.extractLsb' 8 7) (w.extractLsb' 1 7) (w.extractLsb' 0 1))
  | 9 => .ok (.vshrD (w.extractLsb' 15 7) (w.extractLsb' 8 7) (w.extractLsb' 1 7) (w.extractLsb' 0 1))
  | 10 => .ok (.vsraD (w.extractLsb' 15 7) (w.extractLsb' 8 7) (w.extractLsb' 1 7) (w.extractLsb' 0 1))
  | 11 => .ok (.vminD (w.extractLsb' 15 7) (w.extractLsb' 8 7) (w.extractLsb' 1 7) (w.extractLsb' 0 1))
  | 12 => .ok (.vmaxD (w.extractLsb' 15 7) (w.extractLsb' 8 7) (w.extractLsb' 1 7) (w.extractLsb' 0 1))
  | 13 => .ok (.vselD (w.extractLsb' 15 7) (w.extractLsb' 8 7) (w.extractLsb' 1 7) (w.extractLsb' 0 1))
  | 14 => .ok (.vbfxD (w.extractLsb' 15 7) (w.extractLsb' 8 7) (w.extractLsb' 1 7) (w.extractLsb' 0 1))
  | _ => .error .func

/-- Major 0x13 (R228). -/
def decode13 (w : Word) : Except Reject Instr :=
  match (w.extractLsb' 22 4).toNat with
  | 0 => if w.extractLsb' 8 7 != 0 then .error .unused else .ok (.vabsD (w.extractLsb' 15 7) (w.extractLsb' 1 7) (w.extractLsb' 0 1))
  | 1 => if w.extractLsb' 8 7 != 0 then .error .unused else .ok (.vclzD (w.extractLsb' 15 7) (w.extractLsb' 1 7) (w.extractLsb' 0 1))
  | 2 => if w.extractLsb' 8 7 != 0 then .error .unused else .ok (.vpopcD (w.extractLsb' 15 7) (w.extractLsb' 1 7) (w.extractLsb' 0 1))
  | 3 => if w.extractLsb' 8 7 != 0 then .error .unused else .ok (.vmovD (w.extractLsb' 15 7) (w.extractLsb' 1 7) (w.extractLsb' 0 1))
  | 4 => if w.extractLsb' 0 1 != 1 then .error .field else .ok (.vbcstD (w.extractLsb' 15 7) (w.extractLsb' 8 7) (w.extractLsb' 1 7))
  | 5 => .ok (.vsetEqD (w.extractLsb' 15 7) (w.extractLsb' 8 7) (w.extractLsb' 1 7) (w.extractLsb' 0 1))
  | 6 => .ok (.vsetNeD (w.extractLsb' 15 7) (w.extractLsb' 8 7) (w.extractLsb' 1 7) (w.extractLsb' 0 1))
  | 7 => .ok (.vsetLtD (w.extractLsb' 15 7) (w.extractLsb' 8 7) (w.extractLsb' 1 7) (w.extractLsb' 0 1))
  | 8 => .ok (.vsetLeD (w.extractLsb' 15 7) (w.extractLsb' 8 7) (w.extractLsb' 1 7) (w.extractLsb' 0 1))
  | 9 => .ok (.vsetLtUD (w.extractLsb' 15 7) (w.extractLsb' 8 7) (w.extractLsb' 1 7) (w.extractLsb' 0 1))
  | 10 => .ok (.vsetLeUD (w.extractLsb' 15 7) (w.extractLsb' 8 7) (w.extractLsb' 1 7) (w.extractLsb' 0 1))
  | 11 => .ok (.vmulhUD (w.extractLsb' 15 7) (w.extractLsb' 8 7) (w.extractLsb' 1 7) (w.extractLsb' 0 1))
  | 12 => .ok (.vminUD (w.extractLsb' 15 7) (w.extractLsb' 8 7) (w.extractLsb' 1 7) (w.extractLsb' 0 1))
  | 13 => .ok (.vmaxUD (w.extractLsb' 15 7) (w.extractLsb' 8 7) (w.extractLsb' 1 7) (w.extractLsb' 0 1))
  | _ => .error .func

/-- Major 0x14 (R228). -/
def decode14 (w : Word) : Except Reject Instr :=
  match (w.extractLsb' 22 4).toNat with
  | 0 => .ok (.vfadd (w.extractLsb' 15 7) (w.extractLsb' 8 7) (w.extractLsb' 1 7) (w.extractLsb' 0 1))
  | 1 => .ok (.vfsub (w.extractLsb' 15 7) (w.extractLsb' 8 7) (w.extractLsb' 1 7) (w.extractLsb' 0 1))
  | 2 => .ok (.vfmul (w.extractLsb' 15 7) (w.extractLsb' 8 7) (w.extractLsb' 1 7) (w.extractLsb' 0 1))
  | 3 => .ok (.vfma (w.extractLsb' 15 7) (w.extractLsb' 8 7) (w.extractLsb' 1 7) (w.extractLsb' 0 1))
  | 4 => .ok (.vfmin (w.extractLsb' 15 7) (w.extractLsb' 8 7) (w.extractLsb' 1 7) (w.extractLsb' 0 1))
  | 5 => .ok (.vfmax (w.extractLsb' 15 7) (w.extractLsb' 8 7) (w.extractLsb' 1 7) (w.extractLsb' 0 1))
  | 6 => .ok (.vfsetEq (w.extractLsb' 15 7) (w.extractLsb' 8 7) (w.extractLsb' 1 7) (w.extractLsb' 0 1))
  | 7 => .ok (.vfsetLt (w.extractLsb' 15 7) (w.extractLsb' 8 7) (w.extractLsb' 1 7) (w.extractLsb' 0 1))
  | 8 => .ok (.vfsetLe (w.extractLsb' 15 7) (w.extractLsb' 8 7) (w.extractLsb' 1 7) (w.extractLsb' 0 1))
  | 9 => .ok (.vfsetUn (w.extractLsb' 15 7) (w.extractLsb' 8 7) (w.extractLsb' 1 7) (w.extractLsb' 0 1))
  | 10 => if w.extractLsb' 8 7 != 0 then .error .unused else .ok (.vfcls (w.extractLsb' 15 7) (w.extractLsb' 1 7) (w.extractLsb' 0 1))
  | 11 => if w.extractLsb' 8 7 != 0 then .error .unused else .ok (.vrcp (w.extractLsb' 15 7) (w.extractLsb' 1 7) (w.extractLsb' 0 1))
  | 12 => if w.extractLsb' 8 7 != 0 then .error .unused else .ok (.vrsq (w.extractLsb' 15 7) (w.extractLsb' 1 7) (w.extractLsb' 0 1))
  | 13 => if w.extractLsb' 8 7 != 0 then .error .unused else .ok (.vsqrt (w.extractLsb' 15 7) (w.extractLsb' 1 7) (w.extractLsb' 0 1))
  | 14 => if w.extractLsb' 8 7 != 0 then .error .unused else .ok (.vexp2 (w.extractLsb' 15 7) (w.extractLsb' 1 7) (w.extractLsb' 0 1))
  | 15 => if w.extractLsb' 8 7 != 0 then .error .unused else .ok (.vlog2 (w.extractLsb' 15 7) (w.extractLsb' 1 7) (w.extractLsb' 0 1))
  | _ => .error .func

/-- Major 0x15 (R228). -/
def decode15 (w : Word) : Except Reject Instr :=
  match (w.extractLsb' 22 4).toNat with
  | 0 => .ok (.vfaddD (w.extractLsb' 15 7) (w.extractLsb' 8 7) (w.extractLsb' 1 7) (w.extractLsb' 0 1))
  | 1 => .ok (.vfsubD (w.extractLsb' 15 7) (w.extractLsb' 8 7) (w.extractLsb' 1 7) (w.extractLsb' 0 1))
  | 2 => .ok (.vfmulD (w.extractLsb' 15 7) (w.extractLsb' 8 7) (w.extractLsb' 1 7) (w.extractLsb' 0 1))
  | 3 => .ok (.vfmaD (w.extractLsb' 15 7) (w.extractLsb' 8 7) (w.extractLsb' 1 7) (w.extractLsb' 0 1))
  | 4 => .ok (.vfminD (w.extractLsb' 15 7) (w.extractLsb' 8 7) (w.extractLsb' 1 7) (w.extractLsb' 0 1))
  | 5 => .ok (.vfmaxD (w.extractLsb' 15 7) (w.extractLsb' 8 7) (w.extractLsb' 1 7) (w.extractLsb' 0 1))
  | 6 => .ok (.vfsetEqD (w.extractLsb' 15 7) (w.extractLsb' 8 7) (w.extractLsb' 1 7) (w.extractLsb' 0 1))
  | 7 => .ok (.vfsetLtD (w.extractLsb' 15 7) (w.extractLsb' 8 7) (w.extractLsb' 1 7) (w.extractLsb' 0 1))
  | 8 => .ok (.vfsetLeD (w.extractLsb' 15 7) (w.extractLsb' 8 7) (w.extractLsb' 1 7) (w.extractLsb' 0 1))
  | 9 => .ok (.vfsetUnD (w.extractLsb' 15 7) (w.extractLsb' 8 7) (w.extractLsb' 1 7) (w.extractLsb' 0 1))
  | 10 => if w.extractLsb' 8 7 != 0 then .error .unused else .ok (.vfclsD (w.extractLsb' 15 7) (w.extractLsb' 1 7) (w.extractLsb' 0 1))
  | 11 => if w.extractLsb' 8 7 != 0 then .error .unused else .ok (.vrcpD (w.extractLsb' 15 7) (w.extractLsb' 1 7) (w.extractLsb' 0 1))
  | 12 => if w.extractLsb' 8 7 != 0 then .error .unused else .ok (.vrsqD (w.extractLsb' 15 7) (w.extractLsb' 1 7) (w.extractLsb' 0 1))
  | 13 => if w.extractLsb' 8 7 != 0 then .error .unused else .ok (.vsqrtD (w.extractLsb' 15 7) (w.extractLsb' 1 7) (w.extractLsb' 0 1))
  | 14 => if w.extractLsb' 8 7 != 0 then .error .unused else .ok (.vexp2D (w.extractLsb' 15 7) (w.extractLsb' 1 7) (w.extractLsb' 0 1))
  | 15 => if w.extractLsb' 8 7 != 0 then .error .unused else .ok (.vlog2D (w.extractLsb' 15 7) (w.extractLsb' 1 7) (w.extractLsb' 0 1))
  | _ => .error .func

/-- Major 0x16 (R228). -/
def decode16 (w : Word) : Except Reject Instr :=
  match (w.extractLsb' 22 4).toNat with
  | 0 => if w.extractLsb' 0 1 != 0 || w.extractLsb' 4 4 != 0 then .error .unused else .ok (.vcvt (w.extractLsb' 15 7) (w.extractLsb' 8 7) (w.extractLsb' 3 1) (w.extractLsb' 2 1) (w.extractLsb' 1 1))
  | 1 => if w.extractLsb' 0 8 != 0 then .error .unused else .ok (.vqmx (w.extractLsb' 15 7) (w.extractLsb' 8 7))
  | 2 => if w.extractLsb' 0 1 != 0 || w.extractLsb' 2 6 != 0 then .error .unused else .ok (.vdqmx (w.extractLsb' 15 7) (w.extractLsb' 8 7) (w.extractLsb' 1 1))
  | 3 => if w.extractLsb' 0 1 != 0 || w.extractLsb' 2 6 != 0 then .error .unused else .ok (.vcbd (w.extractLsb' 15 7) (w.extractLsb' 8 7) (w.extractLsb' 1 1))
  | _ => .error .func

/-- Major 0x17 (R228). -/
def decode17 (w : Word) : Except Reject Instr :=
  match (w.extractLsb' 22 4).toNat with
  | 0 => .ok (.vperm (w.extractLsb' 15 7) (w.extractLsb' 8 7) (w.extractLsb' 1 7) (w.extractLsb' 0 1))
  | 1 => .ok (.vshfl (w.extractLsb' 15 7) (w.extractLsb' 8 7) (w.extractLsb' 1 7) (w.extractLsb' 0 1))
  | 2 => if w.extractLsb' 0 8 != 0 then .error .unused else .ok (.vred (w.extractLsb' 15 7) (w.extractLsb' 8 7))
  | 3 => if w.extractLsb' 0 8 != 0 then .error .unused else .ok (.vscan (w.extractLsb' 15 7) (w.extractLsb' 8 7))
  | _ => .error .func

/-- Major 0x18 (R228). -/
def decode18 (w : Word) : Except Reject Instr :=
  match (w.extractLsb' 22 4).toNat with
  | 0 => .ok (.vsort (w.extractLsb' 15 7) (w.extractLsb' 8 7) (w.extractLsb' 1 7) (w.extractLsb' 0 1))
  | 1 => if w.extractLsb' 0 1 != 1 then .error .field else .ok (.vtopk (w.extractLsb' 15 7) (w.extractLsb' 8 7) (w.extractLsb' 1 7))
  | 2 => if w.extractLsb' 0 1 != 1 then .error .field else .ok (.vrand (w.extractLsb' 15 7) (w.extractLsb' 8 7) (w.extractLsb' 1 7))
  | _ => .error .func

/-- Major 0x19 (R228). -/
def decode19 (w : Word) : Except Reject Instr :=
  match (w.extractLsb' 22 4).toNat with
  | 0 => .ok (.gori2 (w.extractLsb' 15 7) (w.extractLsb' 8 7) (w.extractLsb' 1 7) (w.extractLsb' 0 1))
  | 1 => .ok (.gori3 (w.extractLsb' 15 7) (w.extractLsb' 8 7) (w.extractLsb' 1 7) (w.extractLsb' 0 1))
  | 2 => .ok (.ginc (w.extractLsb' 15 7) (w.extractLsb' 8 7) (w.extractLsb' 1 7) (w.extractLsb' 0 1))
  | 3 => .ok (.gins (w.extractLsb' 15 7) (w.extractLsb' 8 7) (w.extractLsb' 1 7) (w.extractLsb' 0 1))
  | 4 => .ok (.gsegx (w.extractLsb' 15 7) (w.extractLsb' 8 7) (w.extractLsb' 1 7) (w.extractLsb' 0 1))
  | _ => .error .func

/-- Major 0x1A (R228). -/
def decode1A (w : Word) : Except Reject Instr :=
  .ok (.vaddImm (w.extractLsb' 19 7) (w.extractLsb' 12 7) (w.extractLsb' 0 12))

/-- Major 0x1B (R228). -/
def decode1B (w : Word) : Except Reject Instr :=
  .ok (.vandImm (w.extractLsb' 19 7) (w.extractLsb' 12 7) (w.extractLsb' 0 12))

/-- Major 0x1C (R228). -/
def decode1C (w : Word) : Except Reject Instr :=
  if w.extractLsb' 5 7 == 0 then .ok (.vshlImm (w.extractLsb' 19 7) (w.extractLsb' 12 7) (w.extractLsb' 0 5))
      else if w.extractLsb' 5 7 == 1 then .ok (.vshrImm (w.extractLsb' 19 7) (w.extractLsb' 12 7) (w.extractLsb' 0 5))
      else if w.extractLsb' 5 7 == 2 then .ok (.vsraImm (w.extractLsb' 19 7) (w.extractLsb' 12 7) (w.extractLsb' 0 5))
      else .error .field

/-- Major 0x1D (R228). -/
def decode1D (w : Word) : Except Reject Instr :=
  if w.extractLsb' 12 7 != 0 then .error .unused else .ok (.vmovImm (w.extractLsb' 19 7) (w.extractLsb' 0 12))

/-- Major 0x20 (R228). -/
def decode20 (w : Word) : Except Reject Instr :=
  match (w.extractLsb' 22 4).toNat with
  | 0 => .ok (.ldB (w.extractLsb' 15 7) (w.extractLsb' 12 3) (w.extractLsb' 5 7) (w.extractLsb' 0 5))
  | 1 => .ok (.ldSb (w.extractLsb' 15 7) (w.extractLsb' 12 3) (w.extractLsb' 5 7) (w.extractLsb' 0 5))
  | 2 => .ok (.ldH (w.extractLsb' 15 7) (w.extractLsb' 12 3) (w.extractLsb' 5 7) (w.extractLsb' 0 5))
  | 3 => .ok (.ldSh (w.extractLsb' 15 7) (w.extractLsb' 12 3) (w.extractLsb' 5 7) (w.extractLsb' 0 5))
  | 4 => .ok (.ldW (w.extractLsb' 15 7) (w.extractLsb' 12 3) (w.extractLsb' 5 7) (w.extractLsb' 0 5))
  | 5 => .ok (.ldD (w.extractLsb' 15 7) (w.extractLsb' 12 3) (w.extractLsb' 5 7) (w.extractLsb' 0 5))
  | 6 => .ok (.ldQ (w.extractLsb' 15 7) (w.extractLsb' 12 3) (w.extractLsb' 5 7) (w.extractLsb' 0 5))
  | 8 => if w.extractLsb' 12 3 != 0 then .error .unused else .ok (.ldPrvB (w.extractLsb' 15 7) (w.extractLsb' 5 7) (w.extractLsb' 0 5))
  | 9 => if w.extractLsb' 12 3 != 0 then .error .unused else .ok (.ldPrvSb (w.extractLsb' 15 7) (w.extractLsb' 5 7) (w.extractLsb' 0 5))
  | 10 => if w.extractLsb' 12 3 != 0 then .error .unused else .ok (.ldPrvH (w.extractLsb' 15 7) (w.extractLsb' 5 7) (w.extractLsb' 0 5))
  | 11 => if w.extractLsb' 12 3 != 0 then .error .unused else .ok (.ldPrvSh (w.extractLsb' 15 7) (w.extractLsb' 5 7) (w.extractLsb' 0 5))
  | 12 => if w.extractLsb' 12 3 != 0 then .error .unused else .ok (.ldPrvW (w.extractLsb' 15 7) (w.extractLsb' 5 7) (w.extractLsb' 0 5))
  | 13 => if w.extractLsb' 12 3 != 0 then .error .unused else .ok (.ldPrvD (w.extractLsb' 15 7) (w.extractLsb' 5 7) (w.extractLsb' 0 5))
  | _ => .error .func

/-- Major 0x21 (R228). -/
def decode21 (w : Word) : Except Reject Instr :=
  match (w.extractLsb' 22 4).toNat with
  | 0 => .ok (.stB (w.extractLsb' 15 7) (w.extractLsb' 12 3) (w.extractLsb' 5 7) (w.extractLsb' 0 5))
  | 2 => .ok (.stH (w.extractLsb' 15 7) (w.extractLsb' 12 3) (w.extractLsb' 5 7) (w.extractLsb' 0 5))
  | 4 => .ok (.stW (w.extractLsb' 15 7) (w.extractLsb' 12 3) (w.extractLsb' 5 7) (w.extractLsb' 0 5))
  | 5 => .ok (.stD (w.extractLsb' 15 7) (w.extractLsb' 12 3) (w.extractLsb' 5 7) (w.extractLsb' 0 5))
  | 6 => .ok (.stQ (w.extractLsb' 15 7) (w.extractLsb' 12 3) (w.extractLsb' 5 7) (w.extractLsb' 0 5))
  | 8 => if w.extractLsb' 12 3 != 0 then .error .unused else .ok (.stPrvB (w.extractLsb' 15 7) (w.extractLsb' 5 7) (w.extractLsb' 0 5))
  | 10 => if w.extractLsb' 12 3 != 0 then .error .unused else .ok (.stPrvH (w.extractLsb' 15 7) (w.extractLsb' 5 7) (w.extractLsb' 0 5))
  | 12 => if w.extractLsb' 12 3 != 0 then .error .unused else .ok (.stPrvW (w.extractLsb' 15 7) (w.extractLsb' 5 7) (w.extractLsb' 0 5))
  | 13 => if w.extractLsb' 12 3 != 0 then .error .unused else .ok (.stPrvD (w.extractLsb' 15 7) (w.extractLsb' 5 7) (w.extractLsb' 0 5))
  | _ => .error .func

/-- Major 0x22 (R228). -/
def decode22 (w : Word) : Except Reject Instr :=
  if w.extractLsb' 12 3 != 0 then .error .unused else .ok (.ldl (w.extractLsb' 24 2) (w.extractLsb' 22 2) (w.extractLsb' 15 7) (w.extractLsb' 5 7) (w.extractLsb' 0 5))

/-- Major 0x23 (R228). -/
def decode23 (w : Word) : Except Reject Instr :=
  if w.extractLsb' 12 3 != 0 then .error .unused else .ok (.stl (w.extractLsb' 24 2) (w.extractLsb' 22 2) (w.extractLsb' 15 7) (w.extractLsb' 5 7) (w.extractLsb' 0 5))

/-- Major 0x24 (R228). -/
def decode24 (w : Word) : Except Reject Instr :=
  match (w.extractLsb' 22 4).toNat with
  | 0 => .ok (.atomAdd (w.extractLsb' 15 7) (w.extractLsb' 12 3) (w.extractLsb' 5 7) (w.extractLsb' 0 5))
  | 1 => .ok (.atomAnd (w.extractLsb' 15 7) (w.extractLsb' 12 3) (w.extractLsb' 5 7) (w.extractLsb' 0 5))
  | 2 => .ok (.atomOr (w.extractLsb' 15 7) (w.extractLsb' 12 3) (w.extractLsb' 5 7) (w.extractLsb' 0 5))
  | 3 => .ok (.atomXor (w.extractLsb' 15 7) (w.extractLsb' 12 3) (w.extractLsb' 5 7) (w.extractLsb' 0 5))
  | 4 => .ok (.atomMin (w.extractLsb' 15 7) (w.extractLsb' 12 3) (w.extractLsb' 5 7) (w.extractLsb' 0 5))
  | 5 => .ok (.atomMax (w.extractLsb' 15 7) (w.extractLsb' 12 3) (w.extractLsb' 5 7) (w.extractLsb' 0 5))
  | 6 => .ok (.atomMinU (w.extractLsb' 15 7) (w.extractLsb' 12 3) (w.extractLsb' 5 7) (w.extractLsb' 0 5))
  | 7 => .ok (.atomMaxU (w.extractLsb' 15 7) (w.extractLsb' 12 3) (w.extractLsb' 5 7) (w.extractLsb' 0 5))
  | 8 => .ok (.atomExch (w.extractLsb' 15 7) (w.extractLsb' 12 3) (w.extractLsb' 5 7) (w.extractLsb' 0 5))
  | 9 => .ok (.atomAddD (w.extractLsb' 15 7) (w.extractLsb' 12 3) (w.extractLsb' 5 7) (w.extractLsb' 0 5))
  | 10 => .ok (.atomExchD (w.extractLsb' 15 7) (w.extractLsb' 12 3) (w.extractLsb' 5 7) (w.extractLsb' 0 5))
  | 11 => .ok (.atomFadd (w.extractLsb' 15 7) (w.extractLsb' 12 3) (w.extractLsb' 5 7) (w.extractLsb' 0 5))
  | _ => .error .func

/-- Major 0x25 (R228). -/
def decode25 (w : Word) : Except Reject Instr :=
  match (w.extractLsb' 22 4).toNat with
  | 0 => .ok (.atomAddPosted (w.extractLsb' 15 7) (w.extractLsb' 12 3) (w.extractLsb' 5 7) (w.extractLsb' 0 5))
  | 1 => .ok (.atomAndPosted (w.extractLsb' 15 7) (w.extractLsb' 12 3) (w.extractLsb' 5 7) (w.extractLsb' 0 5))
  | 2 => .ok (.atomOrPosted (w.extractLsb' 15 7) (w.extractLsb' 12 3) (w.extractLsb' 5 7) (w.extractLsb' 0 5))
  | 3 => .ok (.atomXorPosted (w.extractLsb' 15 7) (w.extractLsb' 12 3) (w.extractLsb' 5 7) (w.extractLsb' 0 5))
  | 4 => .ok (.atomMinPosted (w.extractLsb' 15 7) (w.extractLsb' 12 3) (w.extractLsb' 5 7) (w.extractLsb' 0 5))
  | 5 => .ok (.atomMaxPosted (w.extractLsb' 15 7) (w.extractLsb' 12 3) (w.extractLsb' 5 7) (w.extractLsb' 0 5))
  | 6 => .ok (.atomMinUPosted (w.extractLsb' 15 7) (w.extractLsb' 12 3) (w.extractLsb' 5 7) (w.extractLsb' 0 5))
  | 7 => .ok (.atomMaxUPosted (w.extractLsb' 15 7) (w.extractLsb' 12 3) (w.extractLsb' 5 7) (w.extractLsb' 0 5))
  | 8 => .ok (.atomExchPosted (w.extractLsb' 15 7) (w.extractLsb' 12 3) (w.extractLsb' 5 7) (w.extractLsb' 0 5))
  | 9 => .ok (.atomAddDPosted (w.extractLsb' 15 7) (w.extractLsb' 12 3) (w.extractLsb' 5 7) (w.extractLsb' 0 5))
  | 10 => .ok (.atomExchDPosted (w.extractLsb' 15 7) (w.extractLsb' 12 3) (w.extractLsb' 5 7) (w.extractLsb' 0 5))
  | 11 => .ok (.atomFaddPosted (w.extractLsb' 15 7) (w.extractLsb' 12 3) (w.extractLsb' 5 7) (w.extractLsb' 0 5))
  | _ => .error .func

/-- Major 0x26 (R228). -/
def decode26 (w : Word) : Except Reject Instr :=
  match (w.extractLsb' 22 4).toNat with
  | 0 => .ok (.casW (w.extractLsb' 15 7) (w.extractLsb' 12 3) (w.extractLsb' 5 7) (w.extractLsb' 0 5))
  | 1 => .ok (.casD (w.extractLsb' 15 7) (w.extractLsb' 12 3) (w.extractLsb' 5 7) (w.extractLsb' 0 5))
  | 2 => .ok (.casQ (w.extractLsb' 15 7) (w.extractLsb' 12 3) (w.extractLsb' 5 7) (w.extractLsb' 0 5))
  | _ => .error .func

/-- Major 0x27 (R228). -/
def decode27 (w : Word) : Except Reject Instr :=
  match (w.extractLsb' 21 5).toNat with
  | 0 => if w.extractLsb' 14 7 != 0 then .error .unused else .ok (.fence (w.extractLsb' 7 7) (w.extractLsb' 0 7))
  | 1 => if w.extractLsb' 14 7 != 0 then .error .unused else .ok (.cwb (w.extractLsb' 7 7) (w.extractLsb' 0 7))
  | 2 => if w.extractLsb' 14 7 == 0 then .ok (.cinvD (w.extractLsb' 7 7) (w.extractLsb' 0 7))
      else if w.extractLsb' 14 7 == 1 then .ok (.cinvI (w.extractLsb' 7 7) (w.extractLsb' 0 7))
      else .error .field
  | 3 => if w.extractLsb' 14 7 == 0 then .ok (.prefL2 (w.extractLsb' 7 7) (w.extractLsb' 0 7))
      else if w.extractLsb' 14 7 == 1 then .ok (.prefL1 (w.extractLsb' 7 7) (w.extractLsb' 0 7))
      else .error .field
  | 4 => if w.extractLsb' 17 4 != 0 then .error .unused else .ok (.xlate (w.extractLsb' 14 3) (w.extractLsb' 7 7) (w.extractLsb' 0 7))
  | 5 => if w.extractLsb' 0 14 != 0 || w.extractLsb' 17 4 != 0 then .error .unused else .ok (.xdrop (w.extractLsb' 14 3))
  | 6 => if w.extractLsb' 14 7 != 0 then .error .unused else .ok (.sems (w.extractLsb' 7 7) (w.extractLsb' 0 7))
  | 7 => if w.extractLsb' 14 7 != 0 then .error .unused else .ok (.semw (w.extractLsb' 7 7) (w.extractLsb' 0 7))
  | 8 => if w.extractLsb' 0 7 != 0 || w.extractLsb' 14 7 != 0 then .error .unused else .ok (.migrate (w.extractLsb' 7 7))
  | _ => .error .func

/-- Major 0x28 (R228). -/
def decode28 (w : Word) : Except Reject Instr :=
  match (w.extractLsb' 22 4).toNat with
  | 4 => .ok (.ldtW (w.extractLsb' 15 7) (w.extractLsb' 12 3) (w.extractLsb' 5 7) (w.extractLsb' 0 5))
  | 5 => .ok (.ldtD (w.extractLsb' 15 7) (w.extractLsb' 12 3) (w.extractLsb' 5 7) (w.extractLsb' 0 5))
  | 6 => .ok (.ldtQ (w.extractLsb' 15 7) (w.extractLsb' 12 3) (w.extractLsb' 5 7) (w.extractLsb' 0 5))
  | _ => .error .func

/-- Major 0x29 (R228). -/
def decode29 (w : Word) : Except Reject Instr :=
  match (w.extractLsb' 22 4).toNat with
  | 4 => .ok (.sttW (w.extractLsb' 15 7) (w.extractLsb' 12 3) (w.extractLsb' 5 7) (w.extractLsb' 0 5))
  | 5 => .ok (.sttD (w.extractLsb' 15 7) (w.extractLsb' 12 3) (w.extractLsb' 5 7) (w.extractLsb' 0 5))
  | 6 => .ok (.sttQ (w.extractLsb' 15 7) (w.extractLsb' 12 3) (w.extractLsb' 5 7) (w.extractLsb' 0 5))
  | _ => .error .func

/-- Major 0x2A (R228). -/
def decode2A (w : Word) : Except Reject Instr :=
  match (w.extractLsb' 22 4).toNat with
  | 0 => if w.extractLsb' 5 7 != 0 then .error .unused else .ok (.tcopy (w.extractLsb' 15 7) (w.extractLsb' 12 3) (w.extractLsb' 0 5))
  | 1 => .ok (.tcopyGath (w.extractLsb' 15 7) (w.extractLsb' 12 3) (w.extractLsb' 5 7) (w.extractLsb' 0 5))
  | 2 => .ok (.tcopyScat (w.extractLsb' 15 7) (w.extractLsb' 12 3) (w.extractLsb' 5 7) (w.extractLsb' 0 5))
  | _ => .error .func

/-- Major 0x30 (R228). -/
def decode30 (w : Word) : Except Reject Instr :=
  match (w.extractLsb' 21 5).toNat with
  | 0 => if w.extractLsb' 0 9 != 0 then .error .unused else .ok (.seal (w.extractLsb' 17 4) (w.extractLsb' 13 4) (w.extractLsb' 9 4))
  | 1 => if w.extractLsb' 0 17 != 0 then .error .unused else .ok (.hfree (w.extractLsb' 17 4))
  | 2 => if w.extractLsb' 2 11 != 0 then .error .unused else .ok (.mma (w.extractLsb' 17 4) (w.extractLsb' 13 4) (w.extractLsb' 1 1) (w.extractLsb' 0 1))
  | 3 => if w.extractLsb' 0 1 != 0 || w.extractLsb' 2 7 != 0 || w.extractLsb' 13 4 != 0 then .error .unused else .ok (.mloop (w.extractLsb' 17 4) (w.extractLsb' 9 4) (w.extractLsb' 1 1))
  | 4 => if w.extractLsb' 0 13 != 0 || w.extractLsb' 17 4 != 0 then .error .unused else .ok (.mrdy (w.extractLsb' 13 4))
  | 5 => if w.extractLsb' 0 17 != 0 then .error .unused else .ok (.mfence (w.extractLsb' 17 4))
  | 6 => if w.extractLsb' 8 9 != 0 then .error .unused else .ok (.mwait (w.extractLsb' 17 4) (w.extractLsb' 0 8))
  | 7 => if w.extractLsb' 0 17 != 0 then .error .unused else .ok (.sufx (w.extractLsb' 17 4))
  | 8 => if w.extractLsb' 0 13 != 0 then .error .unused else .ok (.attn (w.extractLsb' 17 4) (w.extractLsb' 13 4))
  | 9 => if w.extractLsb' 0 13 != 0 then .error .unused else .ok (.selpg (w.extractLsb' 17 4) (w.extractLsb' 13 4))
  | 10 => if w.extractLsb' 1 8 != 0 then .error .unused else .ok (.massr (w.extractLsb' 17 4) (w.extractLsb' 13 4) (w.extractLsb' 9 4) (w.extractLsb' 0 1))
  | 11 => if w.extractLsb' 1 12 != 0 then .error .unused else .ok (.dcln (w.extractLsb' 17 4) (w.extractLsb' 13 4) (w.extractLsb' 0 1))
  | 12 => if w.extractLsb' 1 8 != 0 then .error .unused else .ok (.tier (w.extractLsb' 17 4) (w.extractLsb' 13 4) (w.extractLsb' 9 4) (w.extractLsb' 0 1))
  | 13 => if w.extractLsb' 0 13 != 0 then .error .unused else .ok (.ctrc (w.extractLsb' 17 4) (w.extractLsb' 13 4))
  | 14 => .ok (.expd (w.extractLsb' 17 4) (w.extractLsb' 13 4) (w.extractLsb' 9 4) (w.extractLsb' 0 9))
  | 15 => if w.extractLsb' 0 9 != 0 then .error .unused else .ok (.sqgrow (w.extractLsb' 17 4) (w.extractLsb' 13 4) (w.extractLsb' 9 4))
  | _ => .error .func

/-- Major 0x38 (R228). -/
def decode38 (w : Word) : Except Reject Instr :=
  match (w.extractLsb' 21 5).toNat with
  | 0 => .ok (.tlbinv (w.extractLsb' 14 7) (w.extractLsb' 7 7) (w.extractLsb' 0 7))
  | 1 => if w.extractLsb' 0 21 != 0 then .error .unused else .ok (.tlback)
  | 2 => .ok (.ctxsv (w.extractLsb' 14 7) (w.extractLsb' 7 7) (w.extractLsb' 0 7))
  | 3 => if w.extractLsb' 0 7 != 0 then .error .unused else .ok (.ctxld (w.extractLsb' 14 7) (w.extractLsb' 7 7))
  | 4 => if w.extractLsb' 0 7 != 0 then .error .unused else .ok (.tret (w.extractLsb' 14 7) (w.extractLsb' 7 7))
  | 5 => if w.extractLsb' 0 7 != 0 then .error .unused else .ok (.srr (w.extractLsb' 14 7) (w.extractLsb' 7 7))
  | 6 => if w.extractLsb' 14 7 != 0 then .error .unused else .ok (.srw (w.extractLsb' 7 7) (w.extractLsb' 0 7))
  | 7 => if w.extractLsb' 0 7 == 0 && w.extractLsb' 14 7 == 0 then .ok (.preemptReq (w.extractLsb' 7 7))
      else if w.extractLsb' 0 7 == 1 then .ok (.preemptWait (w.extractLsb' 14 7) (w.extractLsb' 7 7))
      else if w.extractLsb' 0 7 == 2 && w.extractLsb' 14 7 == 0 then .ok (.preemptClr (w.extractLsb' 7 7))
      else .error .field
  | 8 => if w.extractLsb' 0 14 == 0 then .ok (.fltqPop (w.extractLsb' 14 7))
      else if w.extractLsb' 0 7 == 1 then .ok (.fltqRpl (w.extractLsb' 14 7) (w.extractLsb' 7 7))
      else if w.extractLsb' 0 7 == 2 then .ok (.fltqAcc (w.extractLsb' 14 7) (w.extractLsb' 7 7))
      else if w.extractLsb' 0 14 == 3 then .ok (.fltqTpop (w.extractLsb' 14 7))
      else .error .field
  | _ => .error .func

/-- Major 0x3F (R228). -/
def decode3F (w : Word) : Except Reject Instr :=
  match (w.extractLsb' 23 3).toNat with
  | 0 => .ok (.himm (w.extractLsb' 0 23))
  | 1 => if w.extractLsb' 5 18 != 0 then .error .unused else .ok (.hgrd (w.extractLsb' 4 1) (w.extractLsb' 0 4))
  | 2 => if w.extractLsb' 12 11 != 0 then .error .unused else .ok (.hstl (w.extractLsb' 0 12))
  | 3 => if w.extractLsb' 21 2 != 0 then .error .unused else .ok (.hmod (w.extractLsb' 13 8) (w.extractLsb' 11 2) (w.extractLsb' 8 3) (w.extractLsb' 6 2) (w.extractLsb' 5 1) (w.extractLsb' 0 5))
  | 4 => if w.extractLsb' 5 18 != 0 then .error .unused else .ok (.hfe (w.extractLsb' 0 5))
  | 5 => .ok (.hfil (w.extractLsb' 22 1) (w.extractLsb' 0 22))
  | 6 => if w.extractLsb' 8 15 != 0 then .error .unused else .ok (.hadd (w.extractLsb' 7 1) (w.extractLsb' 0 7))
  | _ => .error .func

/-- The fields of a core word, before the static checks (R227). -/
def decodeFields (w : Word) : Except Reject Instr :=
  match (w.extractLsb' 26 6).toNat with
  | 0x01 => decode01 w
  | 0x02 => decode02 w
  | 0x03 => decode03 w
  | 0x04 => decode04 w
  | 0x05 => decode05 w
  | 0x06 => decode06 w
  | 0x07 => decode07 w
  | 0x08 => decode08 w
  | 0x09 => decode09 w
  | 0x0A => decode0A w
  | 0x0B => decode0B w
  | 0x0C => decode0C w
  | 0x0D => decode0D w
  | 0x0E => decode0E w
  | 0x10 => decode10 w
  | 0x11 => decode11 w
  | 0x12 => decode12 w
  | 0x13 => decode13 w
  | 0x14 => decode14 w
  | 0x15 => decode15 w
  | 0x16 => decode16 w
  | 0x17 => decode17 w
  | 0x18 => decode18 w
  | 0x19 => decode19 w
  | 0x1A => decode1A w
  | 0x1B => decode1B w
  | 0x1C => decode1C w
  | 0x1D => decode1D w
  | 0x20 => decode20 w
  | 0x21 => decode21 w
  | 0x22 => decode22 w
  | 0x23 => decode23 w
  | 0x24 => decode24 w
  | 0x25 => decode25 w
  | 0x26 => decode26 w
  | 0x27 => decode27 w
  | 0x28 => decode28 w
  | 0x29 => decode29 w
  | 0x2A => decode2A w
  | 0x30 => decode30 w
  | 0x38 => decode38 w
  | 0x3F => decode3F w
  | _ => .error .major

/-- A core word decoded (R229). -/
def decode (w : Word) : Except Reject Instr :=
  match decodeFields w with
  | .ok i => if i.wf then .ok i else .error .field
  | .error r => .error r

/-- Operand words of a stream opcode (R231). -/
def streamLen : Nat → Option Nat
  | 0x01 => some 5 | 0x02 => some 8 | 0x03 => some 7 | 0x04 => some 7 | 0x05 => some 5 | 0x06 => some 5 | 0x07 => some 4 | 0x08 => some 4
  | 0x09 => some 1 | 0x0A => some 2 | 0x0B => some 0 | _ => none

/-- A 64-bit operand from two words, low word first (R327). -/
def pair (lo hi : Word) : BitVec 64 := hi ++ lo

/-- CPY and CFILL name two operands and a length; CCONV's count stands in the same place (R328). -/
def stream3 (l : List Word) (f : BitVec 64 → BitVec 64 → Word → Instr) : Except Reject Instr :=
  match l with
  | [a, b, c, d, e] => .ok (f (pair a b) (pair c d) e)
  | _ => .error .major

/-- CPY2's operand words (R328). -/
def stream2d (l : List Word) (f : BitVec 64 → BitVec 64 → Word → Word → Word → Word → Instr) : Except Reject Instr :=
  match l with
  | [a, b, c, d, e, f', g, i] => .ok (f (pair a b) (pair c d) e f' g i)
  | _ => .error .major

/-- The operand words of CGATH and CSCAT (R328). -/
def stream4 (l : List Word) (f : BitVec 64 → BitVec 64 → BitVec 64 → Word → Instr) : Except Reject Instr :=
  match l with
  | [a, b, c, d, e, f', g] => .ok (f (pair a b) (pair c d) (pair e f') g)
  | _ => .error .major

/-- The operand words of CSEMS and CSEMW (R328). -/
def stream2 (l : List Word) (f : BitVec 64 → BitVec 64 → Instr) : Except Reject Instr :=
  match l with
  | [a, b, c, d] => .ok (f (pair a b) (pair c d))
  | _ => .error .major

/-- CLOOP's operand word (R328). -/
def stream1 (l : List Word) (f : Word → Instr) : Except Reject Instr :=
  match l with
  | [a] => .ok (f a)
  | _ => .error .major

/-- CJMP's operand words (R328). -/
def streamTo (l : List Word) (f : BitVec 64 → Instr) : Except Reject Instr :=
  match l with
  | [a, b] => .ok (f (pair a b))
  | _ => .error .major

/-- The bits of the head word that an opcode leaves unused are zero (R232). -/
def unusedOr (unused : Bool) (r : Except Reject Instr) : Except Reject Instr := if unused then .error .unused else r

/-- A head word and its operand words, before the static checks (R230 to R232, R328). -/
def streamFields (h : Word) (l : List Word) : Except Reject Instr :=
  match (h.extractLsb' 26 6).toNat with
  | 0x01 => unusedOr (h.extractLsb' 5 21 != 0) (stream3 l (.cpy (h.extractLsb' 4 1)))
  | 0x02 => unusedOr (h.extractLsb' 5 21 != 0) (stream2d l (.cpy2 (h.extractLsb' 4 1)))
  | 0x03 => unusedOr (h.extractLsb' 22 4 != 0) (stream4 l (.cgath (h.extractLsb' 4 16) (h.extractLsb' 20 1) (h.extractLsb' 21 1)))
  | 0x04 => unusedOr (h.extractLsb' 22 4 != 0) (stream4 l (.cscat (h.extractLsb' 4 16) (h.extractLsb' 20 1) (h.extractLsb' 21 1)))
  | 0x05 => unusedOr (h.extractLsb' 6 20 != 0) (stream3 l (.cfill (h.extractLsb' 4 2)))
  | 0x06 => unusedOr (h.extractLsb' 15 11 != 0)
      (stream3 l (.cconv (h.extractLsb' 4 4) (h.extractLsb' 8 4) (h.extractLsb' 12 2) (h.extractLsb' 14 1)))
  | 0x07 => unusedOr (h.extractLsb' 5 21 != 0) (stream2 l (.csems (h.extractLsb' 4 1)))
  | 0x08 => unusedOr (h.extractLsb' 4 22 != 0) (stream2 l .csemw)
  | 0x09 => unusedOr (h.extractLsb' 20 6 != 0) (stream1 l (.cloop (h.extractLsb' 4 16)))
  | 0x0A => unusedOr (h.extractLsb' 4 22 != 0) (streamTo l .cjmp)
  | 0x0B => unusedOr (h.extractLsb' 4 22 != 0) (.ok .chalt)
  | _ => .error .major

/-- The first stream instruction of a sequence of words, and the words after it. -/
def decodeStream : List Word → Except Reject (Instr × List Word)
  | [] => .error .unused
  | h :: r =>
    match streamLen (h.extractLsb' 26 6).toNat with
    | none => .error .major
    | some n =>
      if (h.extractLsb' 0 4).toNat != n || decide (r.length < n) then .error .unused
      else match streamFields h (r.take n) with
        | .ok i => if i.wf then .ok (i, r.drop n) else .error .field
        | .error e => .error e

end

/-- The low and high words of a 64-bit operand (R327). -/
def halves (x : BitVec 64) : List Word := [x.extractLsb' 0 32, x.extractLsb' 32 32]

/-- The head word of a stream instruction (R230). -/
def head (cop : BitVec 6) (arg : BitVec 22) (nopw : BitVec 4) : Word := cop ++ arg ++ nopw

/-- The words of an instruction; a step that is no instruction has none. -/
def encode : Instr → List Word
  | .sadd d a b => [(32#11) ++ d ++ a ++ b]
  | .ssub d a b => [(33#11) ++ d ++ a ++ b]
  | .smul d a b => [(34#11) ++ d ++ a ++ b]
  | .smulh d a b => [(35#11) ++ d ++ a ++ b]
  | .smulhU d a b => [(36#11) ++ d ++ a ++ b]
  | .sdiv d a b => [(37#11) ++ d ++ a ++ b]
  | .sdivU d a b => [(38#11) ++ d ++ a ++ b]
  | .sand d a b => [(39#11) ++ d ++ a ++ b]
  | .sor d a b => [(40#11) ++ d ++ a ++ b]
  | .sxor d a b => [(41#11) ++ d ++ a ++ b]
  | .sandn d a b => [(42#11) ++ d ++ a ++ b]
  | .sshl d a b => [(43#11) ++ d ++ a ++ b]
  | .sshr d a b => [(44#11) ++ d ++ a ++ b]
  | .ssra d a b => [(45#11) ++ d ++ a ++ b]
  | .smin d a b => [(46#11) ++ d ++ a ++ b]
  | .sminU d a b => [(47#11) ++ d ++ a ++ b]
  | .smax d a b => [(48#11) ++ d ++ a ++ b]
  | .smaxU d a b => [(49#11) ++ d ++ a ++ b]
  | .ssetEq d a b => [(50#11) ++ d ++ a ++ b]
  | .ssetNe d a b => [(51#11) ++ d ++ a ++ b]
  | .ssetLt d a b => [(52#11) ++ d ++ a ++ b]
  | .ssetLe d a b => [(53#11) ++ d ++ a ++ b]
  | .ssetLtU d a b => [(54#11) ++ d ++ a ++ b]
  | .ssetLeU d a b => [(55#11) ++ d ++ a ++ b]
  | .ssel d a b => [(56#11) ++ d ++ a ++ b]
  | .smov d b => [(57#11) ++ d ++ (0#7) ++ b]
  | .sclz d b => [(58#11) ++ d ++ (0#7) ++ b]
  | .spopc d b => [(59#11) ++ d ++ (0#7) ++ b]
  | .sbfx d a b => [(60#11) ++ d ++ a ++ b]
  | .sbfi d a b => [(61#11) ++ d ++ a ++ b]
  | .saddQ d a b => [(64#11) ++ d ++ a ++ b]
  | .ssubQ d a b => [(65#11) ++ d ++ a ++ b]
  | .smulQ d a b => [(66#11) ++ d ++ a ++ b]
  | .smulhQ d a b => [(67#11) ++ d ++ a ++ b]
  | .smulhUQ d a b => [(68#11) ++ d ++ a ++ b]
  | .sdivQ d a b => [(69#11) ++ d ++ a ++ b]
  | .sdivUQ d a b => [(70#11) ++ d ++ a ++ b]
  | .sandQ d a b => [(71#11) ++ d ++ a ++ b]
  | .sorQ d a b => [(72#11) ++ d ++ a ++ b]
  | .sxorQ d a b => [(73#11) ++ d ++ a ++ b]
  | .sandnQ d a b => [(74#11) ++ d ++ a ++ b]
  | .sshlQ d a b => [(75#11) ++ d ++ a ++ b]
  | .sshrQ d a b => [(76#11) ++ d ++ a ++ b]
  | .ssraQ d a b => [(77#11) ++ d ++ a ++ b]
  | .sminQ d a b => [(78#11) ++ d ++ a ++ b]
  | .sminUQ d a b => [(79#11) ++ d ++ a ++ b]
  | .smaxQ d a b => [(80#11) ++ d ++ a ++ b]
  | .smaxUQ d a b => [(81#11) ++ d ++ a ++ b]
  | .ssetEqQ d a b => [(82#11) ++ d ++ a ++ b]
  | .ssetNeQ d a b => [(83#11) ++ d ++ a ++ b]
  | .ssetLtQ d a b => [(84#11) ++ d ++ a ++ b]
  | .ssetLeQ d a b => [(85#11) ++ d ++ a ++ b]
  | .ssetLtUQ d a b => [(86#11) ++ d ++ a ++ b]
  | .ssetLeUQ d a b => [(87#11) ++ d ++ a ++ b]
  | .sselQ d a b => [(88#11) ++ d ++ a ++ b]
  | .smovQ d b => [(89#11) ++ d ++ (0#7) ++ b]
  | .sclzQ d b => [(90#11) ++ d ++ (0#7) ++ b]
  | .spopcQ d b => [(91#11) ++ d ++ (0#7) ++ b]
  | .sbfxQ d a b => [(92#11) ++ d ++ a ++ b]
  | .sbfiQ d a b => [(93#11) ++ d ++ a ++ b]
  | .simm d im => [(3#6) ++ d ++ (0#7) ++ im]
  | .saddImm d a im => [(4#6) ++ d ++ a ++ im]
  | .sandImm d a im => [(5#6) ++ d ++ a ++ im]
  | .sorImm d a im => [(6#6) ++ d ++ a ++ im]
  | .sxorImm d a im => [(7#6) ++ d ++ a ++ im]
  | .sshlImm d a n => [(8#6) ++ d ++ a ++ (0#7) ++ n]
  | .sshrImm d a n => [(8#6) ++ d ++ a ++ (1#7) ++ n]
  | .ssraImm d a n => [(8#6) ++ d ++ a ++ (2#7) ++ n]
  | .kand d a b => [(288#11) ++ d ++ a ++ b]
  | .kor d a b => [(289#11) ++ d ++ a ++ b]
  | .kxor d a b => [(290#11) ++ d ++ a ++ b]
  | .kandn d a b => [(291#11) ++ d ++ a ++ b]
  | .kmov d a => [(292#11) ++ d ++ a ++ (0#7)]
  | .kmovFromQ d a => [(293#11) ++ d ++ a ++ (0#7)]
  | .kmovToQ d a => [(294#11) ++ d ++ a ++ (0#7)]
  | .kpopc d a => [(295#11) ++ d ++ a ++ (0#7)]
  | .kfirst d a => [(296#11) ++ d ++ a ++ (0#7)]
  | .br c k d => [(10#6) ++ c ++ k ++ d]
  | .brd r k d => [(11#6) ++ r ++ k ++ d]
  | .call d => [(3072#14) ++ d]
  | .loop k d => [(208#10) ++ k ++ d]
  | .join a => [(57344#18) ++ a ++ (0#7)]
  | .calli a => [(57472#18) ++ a ++ (0#7)]
  | .ret => [(943718400#32)]
  | .jmpi a => [(57728#18) ++ a ++ (0#7)]
  | .lexit => [(947912704#32)]
  | .exit => [(950009856#32)]
  | .yield => [(952107008#32)]
  | .nop => [(954204160#32)]
  | .waitc a p => [(58368#18) ++ a ++ p]
  | .bar bs => [(7487488#25) ++ bs]
  | .launch d a => [(458#11) ++ d ++ a ++ (0#7)]
  | .launchQueueEntry _ _ => []
  | .qcap d a => [(459#11) ++ d ++ a ++ (0#7)]
  | .srd d bs => [(460#11) ++ d ++ (0#7) ++ bs]
  | .trap n => [(59008#18) ++ n]
  | .trapBind n => [(59009#18) ++ n]
  | .bkpt n => [(59136#18) ++ n]
  | .vadd d a b bs => [(256#10) ++ d ++ a ++ b ++ bs]
  | .vsub d a b bs => [(257#10) ++ d ++ a ++ b ++ bs]
  | .vmul d a b bs => [(258#10) ++ d ++ a ++ b ++ bs]
  | .vmulh d a b bs => [(259#10) ++ d ++ a ++ b ++ bs]
  | .vmad d a b bs => [(260#10) ++ d ++ a ++ b ++ bs]
  | .vand d a b bs => [(261#10) ++ d ++ a ++ b ++ bs]
  | .vor d a b bs => [(262#10) ++ d ++ a ++ b ++ bs]
  | .vxor d a b bs => [(263#10) ++ d ++ a ++ b ++ bs]
  | .vshl d a b bs => [(264#10) ++ d ++ a ++ b ++ bs]
  | .vshr d a b bs => [(265#10) ++ d ++ a ++ b ++ bs]
  | .vsra d a b bs => [(266#10) ++ d ++ a ++ b ++ bs]
  | .vmin d a b bs => [(267#10) ++ d ++ a ++ b ++ bs]
  | .vmax d a b bs => [(268#10) ++ d ++ a ++ b ++ bs]
  | .vsel d a b bs => [(269#10) ++ d ++ a ++ b ++ bs]
  | .vbfx d a b bs => [(270#10) ++ d ++ a ++ b ++ bs]
  | .vabs d b bs => [(272#10) ++ d ++ (0#7) ++ b ++ bs]
  | .vclz d b bs => [(273#10) ++ d ++ (0#7) ++ b ++ bs]
  | .vpopc d b bs => [(274#10) ++ d ++ (0#7) ++ b ++ bs]
  | .vmov d b bs => [(275#10) ++ d ++ (0#7) ++ b ++ bs]
  | .vbcst d a b => [(276#10) ++ d ++ a ++ b ++ (1#1)]
  | .vsetEq d a b bs => [(277#10) ++ d ++ a ++ b ++ bs]
  | .vsetNe d a b bs => [(278#10) ++ d ++ a ++ b ++ bs]
  | .vsetLt d a b bs => [(279#10) ++ d ++ a ++ b ++ bs]
  | .vsetLe d a b bs => [(280#10) ++ d ++ a ++ b ++ bs]
  | .vsetLtU d a b bs => [(281#10) ++ d ++ a ++ b ++ bs]
  | .vsetLeU d a b bs => [(282#10) ++ d ++ a ++ b ++ bs]
  | .vmulhU d a b bs => [(283#10) ++ d ++ a ++ b ++ bs]
  | .vminU d a b bs => [(284#10) ++ d ++ a ++ b ++ bs]
  | .vmaxU d a b bs => [(285#10) ++ d ++ a ++ b ++ bs]
  | .vaddD d a b bs => [(288#10) ++ d ++ a ++ b ++ bs]
  | .vsubD d a b bs => [(289#10) ++ d ++ a ++ b ++ bs]
  | .vmulD d a b bs => [(290#10) ++ d ++ a ++ b ++ bs]
  | .vmulhD d a b bs => [(291#10) ++ d ++ a ++ b ++ bs]
  | .vmadD d a b bs => [(292#10) ++ d ++ a ++ b ++ bs]
  | .vandD d a b bs => [(293#10) ++ d ++ a ++ b ++ bs]
  | .vorD d a b bs => [(294#10) ++ d ++ a ++ b ++ bs]
  | .vxorD d a b bs => [(295#10) ++ d ++ a ++ b ++ bs]
  | .vshlD d a b bs => [(296#10) ++ d ++ a ++ b ++ bs]
  | .vshrD d a b bs => [(297#10) ++ d ++ a ++ b ++ bs]
  | .vsraD d a b bs => [(298#10) ++ d ++ a ++ b ++ bs]
  | .vminD d a b bs => [(299#10) ++ d ++ a ++ b ++ bs]
  | .vmaxD d a b bs => [(300#10) ++ d ++ a ++ b ++ bs]
  | .vselD d a b bs => [(301#10) ++ d ++ a ++ b ++ bs]
  | .vbfxD d a b bs => [(302#10) ++ d ++ a ++ b ++ bs]
  | .vabsD d b bs => [(304#10) ++ d ++ (0#7) ++ b ++ bs]
  | .vclzD d b bs => [(305#10) ++ d ++ (0#7) ++ b ++ bs]
  | .vpopcD d b bs => [(306#10) ++ d ++ (0#7) ++ b ++ bs]
  | .vmovD d b bs => [(307#10) ++ d ++ (0#7) ++ b ++ bs]
  | .vbcstD d a b => [(308#10) ++ d ++ a ++ b ++ (1#1)]
  | .vsetEqD d a b bs => [(309#10) ++ d ++ a ++ b ++ bs]
  | .vsetNeD d a b bs => [(310#10) ++ d ++ a ++ b ++ bs]
  | .vsetLtD d a b bs => [(311#10) ++ d ++ a ++ b ++ bs]
  | .vsetLeD d a b bs => [(312#10) ++ d ++ a ++ b ++ bs]
  | .vsetLtUD d a b bs => [(313#10) ++ d ++ a ++ b ++ bs]
  | .vsetLeUD d a b bs => [(314#10) ++ d ++ a ++ b ++ bs]
  | .vmulhUD d a b bs => [(315#10) ++ d ++ a ++ b ++ bs]
  | .vminUD d a b bs => [(316#10) ++ d ++ a ++ b ++ bs]
  | .vmaxUD d a b bs => [(317#10) ++ d ++ a ++ b ++ bs]
  | .vfadd d a b bs => [(320#10) ++ d ++ a ++ b ++ bs]
  | .vfsub d a b bs => [(321#10) ++ d ++ a ++ b ++ bs]
  | .vfmul d a b bs => [(322#10) ++ d ++ a ++ b ++ bs]
  | .vfma d a b bs => [(323#10) ++ d ++ a ++ b ++ bs]
  | .vfmin d a b bs => [(324#10) ++ d ++ a ++ b ++ bs]
  | .vfmax d a b bs => [(325#10) ++ d ++ a ++ b ++ bs]
  | .vfsetEq d a b bs => [(326#10) ++ d ++ a ++ b ++ bs]
  | .vfsetLt d a b bs => [(327#10) ++ d ++ a ++ b ++ bs]
  | .vfsetLe d a b bs => [(328#10) ++ d ++ a ++ b ++ bs]
  | .vfsetUn d a b bs => [(329#10) ++ d ++ a ++ b ++ bs]
  | .vfcls d b bs => [(330#10) ++ d ++ (0#7) ++ b ++ bs]
  | .vrcp d b bs => [(331#10) ++ d ++ (0#7) ++ b ++ bs]
  | .vrsq d b bs => [(332#10) ++ d ++ (0#7) ++ b ++ bs]
  | .vsqrt d b bs => [(333#10) ++ d ++ (0#7) ++ b ++ bs]
  | .vexp2 d b bs => [(334#10) ++ d ++ (0#7) ++ b ++ bs]
  | .vlog2 d b bs => [(335#10) ++ d ++ (0#7) ++ b ++ bs]
  | .vfaddD d a b bs => [(336#10) ++ d ++ a ++ b ++ bs]
  | .vfsubD d a b bs => [(337#10) ++ d ++ a ++ b ++ bs]
  | .vfmulD d a b bs => [(338#10) ++ d ++ a ++ b ++ bs]
  | .vfmaD d a b bs => [(339#10) ++ d ++ a ++ b ++ bs]
  | .vfminD d a b bs => [(340#10) ++ d ++ a ++ b ++ bs]
  | .vfmaxD d a b bs => [(341#10) ++ d ++ a ++ b ++ bs]
  | .vfsetEqD d a b bs => [(342#10) ++ d ++ a ++ b ++ bs]
  | .vfsetLtD d a b bs => [(343#10) ++ d ++ a ++ b ++ bs]
  | .vfsetLeD d a b bs => [(344#10) ++ d ++ a ++ b ++ bs]
  | .vfsetUnD d a b bs => [(345#10) ++ d ++ a ++ b ++ bs]
  | .vfclsD d b bs => [(346#10) ++ d ++ (0#7) ++ b ++ bs]
  | .vrcpD d b bs => [(347#10) ++ d ++ (0#7) ++ b ++ bs]
  | .vrsqD d b bs => [(348#10) ++ d ++ (0#7) ++ b ++ bs]
  | .vsqrtD d b bs => [(349#10) ++ d ++ (0#7) ++ b ++ bs]
  | .vexp2D d b bs => [(350#10) ++ d ++ (0#7) ++ b ++ bs]
  | .vlog2D d b bs => [(351#10) ++ d ++ (0#7) ++ b ++ bs]
  | .vcvt d a t im bs => [(352#10) ++ d ++ a ++ (0#4) ++ t ++ im ++ bs ++ (0#1)]
  | .vqmx d a => [(353#10) ++ d ++ a ++ (0#8)]
  | .vdqmx d a bs => [(354#10) ++ d ++ a ++ (0#6) ++ bs ++ (0#1)]
  | .vcbd d a bs => [(355#10) ++ d ++ a ++ (0#6) ++ bs ++ (0#1)]
  | .vperm d a b bs => [(368#10) ++ d ++ a ++ b ++ bs]
  | .vshfl d a b bs => [(369#10) ++ d ++ a ++ b ++ bs]
  | .vred d a => [(370#10) ++ d ++ a ++ (0#8)]
  | .vscan d a => [(371#10) ++ d ++ a ++ (0#8)]
  | .vsort d a b bs => [(384#10) ++ d ++ a ++ b ++ bs]
  | .vtopk d a b => [(385#10) ++ d ++ a ++ b ++ (1#1)]
  | .vrand d a b => [(386#10) ++ d ++ a ++ b ++ (1#1)]
  | .gori2 d a b bs => [(400#10) ++ d ++ a ++ b ++ bs]
  | .gori3 d a b bs => [(401#10) ++ d ++ a ++ b ++ bs]
  | .ginc d a b bs => [(402#10) ++ d ++ a ++ b ++ bs]
  | .gins d a b bs => [(403#10) ++ d ++ a ++ b ++ bs]
  | .gsegx d a b bs => [(404#10) ++ d ++ a ++ b ++ bs]
  | .vaddImm d a im => [(26#6) ++ d ++ a ++ im]
  | .vandImm d a im => [(27#6) ++ d ++ a ++ im]
  | .vshlImm d a n => [(28#6) ++ d ++ a ++ (0#7) ++ n]
  | .vshrImm d a n => [(28#6) ++ d ++ a ++ (1#7) ++ n]
  | .vsraImm d a n => [(28#6) ++ d ++ a ++ (2#7) ++ n]
  | .vmovImm d im => [(29#6) ++ d ++ (0#7) ++ im]
  | .ldB d t vo im => [(512#10) ++ d ++ t ++ vo ++ im]
  | .ldSb d t vo im => [(513#10) ++ d ++ t ++ vo ++ im]
  | .ldH d t vo im => [(514#10) ++ d ++ t ++ vo ++ im]
  | .ldSh d t vo im => [(515#10) ++ d ++ t ++ vo ++ im]
  | .ldW d t vo im => [(516#10) ++ d ++ t ++ vo ++ im]
  | .ldD d t vo im => [(517#10) ++ d ++ t ++ vo ++ im]
  | .ldQ d t vo im => [(518#10) ++ d ++ t ++ vo ++ im]
  | .ldPrvB d vo im => [(520#10) ++ d ++ (0#3) ++ vo ++ im]
  | .ldPrvSb d vo im => [(521#10) ++ d ++ (0#3) ++ vo ++ im]
  | .ldPrvH d vo im => [(522#10) ++ d ++ (0#3) ++ vo ++ im]
  | .ldPrvSh d vo im => [(523#10) ++ d ++ (0#3) ++ vo ++ im]
  | .ldPrvW d vo im => [(524#10) ++ d ++ (0#3) ++ vo ++ im]
  | .ldPrvD d vo im => [(525#10) ++ d ++ (0#3) ++ vo ++ im]
  | .stB d t vo im => [(528#10) ++ d ++ t ++ vo ++ im]
  | .stH d t vo im => [(530#10) ++ d ++ t ++ vo ++ im]
  | .stW d t vo im => [(532#10) ++ d ++ t ++ vo ++ im]
  | .stD d t vo im => [(533#10) ++ d ++ t ++ vo ++ im]
  | .stQ d t vo im => [(534#10) ++ d ++ t ++ vo ++ im]
  | .stPrvB d vo im => [(536#10) ++ d ++ (0#3) ++ vo ++ im]
  | .stPrvH d vo im => [(538#10) ++ d ++ (0#3) ++ vo ++ im]
  | .stPrvW d vo im => [(540#10) ++ d ++ (0#3) ++ vo ++ im]
  | .stPrvD d vo im => [(541#10) ++ d ++ (0#3) ++ vo ++ im]
  | .ldl u z d vo im => [(34#6) ++ u ++ z ++ d ++ (0#3) ++ vo ++ im]
  | .stl u z d vo im => [(35#6) ++ u ++ z ++ d ++ (0#3) ++ vo ++ im]
  | .atomAdd d t vo im => [(576#10) ++ d ++ t ++ vo ++ im]
  | .atomAnd d t vo im => [(577#10) ++ d ++ t ++ vo ++ im]
  | .atomOr d t vo im => [(578#10) ++ d ++ t ++ vo ++ im]
  | .atomXor d t vo im => [(579#10) ++ d ++ t ++ vo ++ im]
  | .atomMin d t vo im => [(580#10) ++ d ++ t ++ vo ++ im]
  | .atomMax d t vo im => [(581#10) ++ d ++ t ++ vo ++ im]
  | .atomMinU d t vo im => [(582#10) ++ d ++ t ++ vo ++ im]
  | .atomMaxU d t vo im => [(583#10) ++ d ++ t ++ vo ++ im]
  | .atomExch d t vo im => [(584#10) ++ d ++ t ++ vo ++ im]
  | .atomAddD d t vo im => [(585#10) ++ d ++ t ++ vo ++ im]
  | .atomExchD d t vo im => [(586#10) ++ d ++ t ++ vo ++ im]
  | .atomFadd d t vo im => [(587#10) ++ d ++ t ++ vo ++ im]
  | .atomAddPosted d t vo im => [(592#10) ++ d ++ t ++ vo ++ im]
  | .atomAndPosted d t vo im => [(593#10) ++ d ++ t ++ vo ++ im]
  | .atomOrPosted d t vo im => [(594#10) ++ d ++ t ++ vo ++ im]
  | .atomXorPosted d t vo im => [(595#10) ++ d ++ t ++ vo ++ im]
  | .atomMinPosted d t vo im => [(596#10) ++ d ++ t ++ vo ++ im]
  | .atomMaxPosted d t vo im => [(597#10) ++ d ++ t ++ vo ++ im]
  | .atomMinUPosted d t vo im => [(598#10) ++ d ++ t ++ vo ++ im]
  | .atomMaxUPosted d t vo im => [(599#10) ++ d ++ t ++ vo ++ im]
  | .atomExchPosted d t vo im => [(600#10) ++ d ++ t ++ vo ++ im]
  | .atomAddDPosted d t vo im => [(601#10) ++ d ++ t ++ vo ++ im]
  | .atomExchDPosted d t vo im => [(602#10) ++ d ++ t ++ vo ++ im]
  | .atomFaddPosted d t vo im => [(603#10) ++ d ++ t ++ vo ++ im]
  | .casW d t vo im => [(608#10) ++ d ++ t ++ vo ++ im]
  | .casD d t vo im => [(609#10) ++ d ++ t ++ vo ++ im]
  | .casQ d t vo im => [(610#10) ++ d ++ t ++ vo ++ im]
  | .fence k bs => [(159744#18) ++ k ++ bs]
  | .cwb a b => [(159872#18) ++ a ++ b]
  | .cinvD a b => [(160000#18) ++ a ++ b]
  | .cinvI a b => [(160001#18) ++ a ++ b]
  | .prefL2 a b => [(160128#18) ++ a ++ b]
  | .prefL1 a b => [(160129#18) ++ a ++ b]
  | .xlate t a b => [(20032#15) ++ t ++ a ++ b]
  | .xdrop t => [(20048#15) ++ t ++ (0#14)]
  | .sems a b => [(160512#18) ++ a ++ b]
  | .semw a b => [(160640#18) ++ a ++ b]
  | .semwSatisfied _ _ => []
  | .migrate a => [(160768#18) ++ a ++ (0#7)]
  | .migrateShip _ => []
  | .ldtW d t vo im => [(644#10) ++ d ++ t ++ vo ++ im]
  | .ldtD d t vo im => [(645#10) ++ d ++ t ++ vo ++ im]
  | .ldtQ d t vo im => [(646#10) ++ d ++ t ++ vo ++ im]
  | .sttW d t vo im => [(660#10) ++ d ++ t ++ vo ++ im]
  | .sttD d t vo im => [(661#10) ++ d ++ t ++ vo ++ im]
  | .sttQ d t vo im => [(662#10) ++ d ++ t ++ vo ++ im]
  | .tcopy d t im => [(672#10) ++ d ++ t ++ (0#7) ++ im]
  | .tcopyGath d t vo im => [(673#10) ++ d ++ t ++ vo ++ im]
  | .tcopyScat d t vo im => [(674#10) ++ d ++ t ++ vo ++ im]
  | .seal h q bs => [(1536#11) ++ h ++ q ++ bs ++ (0#9)]
  | .hfree h => [(1537#11) ++ h ++ (0#17)]
  | .mma h v c r => [(1538#11) ++ h ++ v ++ (0#11) ++ c ++ r]
  | .mloop h bs c => [(1539#11) ++ h ++ (0#4) ++ bs ++ (0#7) ++ c ++ (0#1)]
  | .mrdy v => [(24640#15) ++ v ++ (0#13)]
  | .jointIssuePairing _ => []
  | .mfence bs => [(1541#11) ++ bs ++ (0#17)]
  | .mwait bs n => [(1542#11) ++ bs ++ (0#9) ++ n]
  | .batchComplete _ => []
  | .sufx h => [(1543#11) ++ h ++ (0#17)]
  | .attn h bs => [(1544#11) ++ h ++ bs ++ (0#13)]
  | .selpg h bs => [(1545#11) ++ h ++ bs ++ (0#13)]
  | .massr q bs r c => [(1546#11) ++ q ++ bs ++ r ++ (0#8) ++ c]
  | .dcln q bs e => [(1547#11) ++ q ++ bs ++ (0#12) ++ e]
  | .sweepRequest _ _ => []
  | .tier q bs c n => [(1548#11) ++ q ++ bs ++ c ++ (0#8) ++ n]
  | .ctrc h bs => [(1549#11) ++ h ++ bs ++ (0#13)]
  | .expd h q r t => [(1550#11) ++ h ++ q ++ r ++ t]
  | .sqgrow a b c => [(1551#11) ++ a ++ b ++ c ++ (0#9)]
  | .sqgrowSlotCopy _ => []
  | .sqgrowComplete _ => []
  | .tlbinv d a b => [(1792#11) ++ d ++ a ++ b]
  | .tlbinvPerform _ _ => []
  | .tlback => [(3760193536#32)]
  | .tlbackComplete _ _ => []
  | .ctxsv d a b => [(1794#11) ++ d ++ a ++ b]
  | .ctxld d a => [(1795#11) ++ d ++ a ++ (0#7)]
  | .tret d a => [(1796#11) ++ d ++ a ++ (0#7)]
  | .srr d a => [(1797#11) ++ d ++ a ++ (0#7)]
  | .srw a b => [(230144#18) ++ a ++ b]
  | .preemptReq a => [(230272#18) ++ a ++ (0#7)]
  | .preemptWait d a => [(1799#11) ++ d ++ a ++ (1#7)]
  | .preemptClr a => [(230272#18) ++ a ++ (2#7)]
  | .fltqPop d => [(1800#11) ++ d ++ (0#14)]
  | .fltqRpl d a => [(1800#11) ++ d ++ a ++ (1#7)]
  | .fltqAcc d a => [(1800#11) ++ d ++ a ++ (2#7)]
  | .fltqTpop d => [(1800#11) ++ d ++ (3#14)]
  | .claimResume _ _ => []
  | .himm im => [(504#9) ++ im]
  | .hgrd n k => [(132382720#27) ++ n ++ k]
  | .hstl bs => [(1036288#20) ++ bs]
  | .hmod m vo bs r v t => [(2028#11) ++ m ++ vo ++ bs ++ r ++ v ++ t]
  | .hfe t => [(133169152#27) ++ t]
  | .hfil f v => [(509#9) ++ f ++ v]
  | .hadd b a => [(16711680#24) ++ b ++ a]
  | .cpy na dst src len => [head 0x01 ((0#21) ++ na) 5] ++ halves dst ++ halves src ++ [len]
  | .cpy2 na dst src rowb rows dstr sstr => [head 0x02 ((0#21) ++ na) 8] ++ halves dst ++ halves src ++ [rowb, rows, dstr, sstr]
  | .cgath rb iw na dst src idx count => [head 0x03 ((0#4) ++ na ++ iw ++ rb) 7] ++ halves dst ++ halves src ++ halves idx ++ [count]
  | .cscat rb iw na dst src idx count => [head 0x04 ((0#4) ++ na ++ iw ++ rb) 7] ++ halves dst ++ halves src ++ halves idx ++ [count]
  | .cfill psz dst pat len => [head 0x05 ((0#20) ++ psz) 5] ++ halves dst ++ halves pat ++ [len]
  | .cconv sf tf rm sat dst src count => [head 0x06 ((0#11) ++ sat ++ rm ++ tf ++ sf) 5] ++ halves dst ++ halves src ++ [count]
  | .csems set sem value => [head 0x07 ((0#21) ++ set) 4] ++ halves sem ++ halves value
  | .csemw sem threshold => [head 0x08 0 4] ++ halves sem ++ halves threshold
  | .csemwSatisfied _ => []
  | .cloop back count => [head 0x09 ((0#6) ++ back) 1, count]
  | .cjmp target => head 0x0A 0 2 :: halves target
  | .chalt => [head 0x0B 0 0]
  | .splitPromotion _ _ => []
  | .multicycleResult _ => []
  | .loadComplete _ => []
  | .storePerformed _ => []
  | .atomicPerformed _ => []
  | .remoteLocalComplete _ => []
  | .tcopyRowLanded _ => []
  | .writeApply _ _ => []
  | .pageWalk _ _ _ => []
  | .faultHeldRelease _ => []
  | .faultReplay _ => []
  | .skidStop _ _ => []
  | .trapDelivery _ => []
  | .forcedSave _ => []
  | .watchdog _ => []
  | .contextSave _ => []
  | .sttArrival _ _ => []
  | .sttVisible _ _ => []
  | .tensedStoreAdmit _ _ => []
  | .ldtArrival _ _ => []
  | .ldtPerformed _ _ => []
  | .lateNotice _ => []
  | .outboundAccessAbort _ => []
  | .inboundAccessTimeout _ => []
  | .syncExchange _ _ => []
  | .syncReceive _ _ => []
  | .syncReply _ _ => []
  | .exchangeMissed _ _ => []
  | .flitReplay _ _ => []
  | .scheduleInstall _ _ => []
  | .declensionInterval _ _ => []
  | .recordSweep _ => []
  | .frameSwap _ => []
  | .readerEpochAdvance _ => []
  | .oldFrameFree _ => []
  | .dispatchStep _ => []
  | .workgroupRetire _ => []
  | .gridComplete _ => []
  | .gridPromotion _ => []
  | .coreGate _ => []
  | .hbmSelfRefresh _ _ => []
  | .launchRecord _ => []
  | .streamStartRecord _ => []
  | .waitRecord _ => []
  | .waitSatisfied _ => []
  | .signalRecord _ => []
  | .signalPerform _ => []
  | .nopRecord _ => []
  | .mrd _ _ _ _ => []
  | .mwr _ _ _ => []
  | .cpl _ _ _ _ => []
  | .tail _ _ => []
  | .qctlResume _ _ => []
  | .qctlStop _ _ => []
  | .rrd _ _ _ => []
  | .rwr _ _ _ => []
  | .boot _ _ => []
  | .bootend => []
  | .powerOnReset => []
  | .cxlViral _ => []
  | .enumerate _ _ _ _ => []
  | .online _ => []
  | .evacuate _ => []
  | .offline _ => []
  | .test _ _ _ _ => []
  | .apply _ _ => []
  | .repair _ _ _ => []
  | .channelRelease _ _ => []
  | .commit _ _ => []
  | .mcmd _ => []
  | .pageMove _ => []
  | .drain _ _ => []
  | .coreEmpty _ => []
  | .selfTestDone _ _ => []
  | .freeze _ => []
  | .thaw _ => []
  | .drop _ => []
  | .elstatRetire _ _ => []
  | .ctxWord0Write _ _ => []
  | .cbmagWrite _ _ _ => []
  | .faultQueueEnable _ _ => []
  | .trapRingEnable _ _ => []
  | .regWrite _ _ => []
  | .dtimeEnWrite _ _ => []
  | .linkControlFlit _ _ => []
  | .diePowerLimit _ _ => []
  | .matrixSelfTest _ _ => []
  | .clusterRelease _ _ => []
  | .engineInstructionDone _ _ => []
  | .trmodeWrite _ _ _ => []

/-- A word of w, numbered as spec/opcode_table.json numbers bits: word k holds bits 32 k + 31 to 32 k. -/
def wordAt (w k : Nat) : Word := BitVec.ofNat 32 (w / 2 ^ (32 * k))

/-- The instruction read from an instruction whose bits are w: a core word, else a stream instruction. Every bit above
nbits is 0, so nbits adds nothing. -/
noncomputable def decodeTableWord (nbits w : Nat) : Option Instr :=
  let w := w % 2 ^ nbits
  match decode (wordAt w 0) with
  | .ok i => some i
  | .error _ =>
    match decodeStream ((List.range 9).map (wordAt w)) with
    | .ok r => some r.1
    | .error _ => none

end Sys2Proof
end

