-- ==== Sys2Proof/Config.lean ====
section
/-! DEFINITION. What an implementation fixes, and the free values: results that the manual calls undefined (R9). -/

namespace Sys2Proof.Config

/-- The n-th undefined value drawn by the machine (R9): nothing constrains it. Machine.State.free counts the draws. -/
opaque freeValue : Nat → BitVec 64

/-- The undefined value of one element, by the draw and the element: of a register that a batch binds (R119), of a host read of a
dirty line (R123). Nothing constrains it. -/
opaque freeElem : Nat → Nat → BitVec 32

/-- The channel of a 256-byte chunk of HBM4E within its stack: a fixed function of the address that the manual does not give (R28). Nothing
constrains it; its value counts modulo 32. -/
opaque hbmChannel : Nat → Nat

/-- A physical lane of a channel passes at a delay: by channel, lane (64 and 65 are the spares), direction, code and per-pin rate. What a
module's lanes do is not the manual's (R485, R486); nothing constrains it. -/
opaque lanePasses : Nat → Nat → Nat → Nat → Nat → Bool

/-- Dies in the package (R12). -/
def dies : Nat := 4
/-- Logical cores of one core cluster (R13). -/
def clusterCores : Nat := 192
/-- Logical cores of one die. -/
def dieCores : Nat := 384
/-- Bytes of one local-buffer granule (R23). -/
def granule : Nat := 4096
/-- Bound of the tensed horizon in ns (R129). -/
def horizon : Nat := 2 ^ 24
/-- The bound ε of R128 in ns. -/
def epsilon : Nat := 40
/-- Gigabytes of each memory expander (R1). -/
def expanderGb : Nat := 512
/-- Tensed stores that one die can hold (R134). -/
def tensedSpace : Nat := 65536
/-- Landing positions of one die (R65). -/
def landings : Nat := 32
/-- Entries of a die's device-launch queue (R266). -/
def launchQueue : Nat := 4096
/-- Size of the virtual address space (R79). -/
def vaSize : Nat := 2 ^ 57
/-- The known fixed capabilities of R31; the ones that change are computed from the state. -/
def fixedCaps : List (Nat × Nat) :=
  [(0, 0x44800100), (2, 4), (4, 192), (6, 2200), (7, 0xF), (8, 16), (9, 65536), (10, 8192), (11, 196608), (12, 196608),
   (13, 98304), (14, 98304), (15, 65536), (16, 65536), (22, 10), (23, 8192), (24, 128), (25, 57), (26, 52), (27, 7),
   (28, 22), (29, 64), (31, 24), (32, 1), (33, 1)]

end Sys2Proof.Config
end

