-- ==== Sys2Proof/Machine/State.lean ====
section
/-! DEFINITION. The state of the module as plain data, and the state after power-on reset (R473). -/

namespace Sys2Proof.Machine

/-- Trap codes (R71). -/
inductive TrapCode where
  | none | illegal | priv | misalign | access | poison | handle | splitx | loopx | arith | geomnf | bind | bkpt | swtrap
  | atomcap | peer | late | timehz | timeunl | mapstale | depth | emptyrd | preempt
deriving DecidableEq, Repr

/-- The number of a trap code (R71). -/
def TrapCode.num : TrapCode → Nat
  | .none => 0 | .illegal => 1 | .priv => 2 | .misalign => 3 | .access => 4 | .poison => 5 | .handle => 6 | .splitx => 7
  | .loopx => 8 | .arith => 9 | .geomnf => 0x0A | .bind => 0x0B | .bkpt => 0x0C | .swtrap => 0x0D | .atomcap => 0x0E
  | .peer => 0x0F | .late => 0x10 | .timehz => 0x11 | .timeunl => 0x12 | .mapstale => 0x13 | .depth => 0x14
  | .emptyrd => 0x15 | .preempt => 0x17

/-- Fault codes that park a warp (R66). -/
inductive FaultCode where
  | notPresent | perm | tierMove | kvArena
deriving DecidableEq, Repr

/-- The number of a fault code (R66). -/
def FaultCode.num : FaultCode → Nat
  | .notPresent => 0x40 | .perm => 0x41 | .tierMove => 0x42 | .kvArena => 0x43

/-- Why a step stops with no next state. -/
inductive Fault where
  /-- An instruction fetch reached a physical address at which no memory is installed; raised by step's fetch. Safe: the
  manual gives the fate of loads and stores there (R124) and none for a fetch. -/
  | fetchAborted (pa : Nat)
deriving DecidableEq, Repr

/-- Why an instruction has no meaning. -/
inductive Refusal where
  /-- The instruction has no meaning yet; raised by exec's refused arms only. Safe: nothing is claimed of it. -/
  | notModelled (mnemonic : String)
deriving DecidableEq, Repr

/-- One entry of a loop stack (R51). -/
structure LoopEnt where
  start : Nat
  stop  : Nat
  count : Nat
deriving DecidableEq, Repr

/-- State of a split-table entry (02, "Splits"). -/
inductive EntState where
  | free | run | park
deriving DecidableEq, Repr

/-- State of a deferred slot (02, "Splits"). -/
inductive DefState where
  | empty | pending | parked
deriving DecidableEq, Repr

/-- Why a running split is not ready although nothing of its operands is missing (R40, R335). -/
inductive Wait where
  /-- The split may issue. -/
  | ready
  /-- Parked at a BAR of the scope (R265); true once it has arrived in the round that is open. -/
  | bar (scope : Nat)
  /-- Parked at SEMW until the semaphore at the address is at least the threshold (R321). -/
  | sem (va threshold : Nat)
  /-- Holds at its instruction, which has issued, until the pending operation of this number ends (R335, R310). -/
  | op (n : Nat)
  /-- At MIGRATE, to the die named (R64). -/
  | migrate (die : Nat)
  /-- At TLBACK (R431). -/
  | tlback
  /-- At FLTQ.POP (false) or FLTQ.TPOP (true), into the register group (R427). -/
  | claim (trap : Bool) (sd : Nat)
  /-- At LAUNCH for queue space (R266): destination, record address. -/
  | launch (sd va : Nat)
  /-- At MRDY until its rows are captured (R345). -/
  | mrdy
  /-- At MWAIT, its status register empty, until the batch of this number completes (R335, R349). -/
  | mwait (sd n : Nat)
  /-- At an MMA that reads registers, until the members' MRDY (R345): handle, first register, TAG. -/
  | joint (h va tag : Nat)
deriving DecidableEq, Repr

/-- One hint word that a split has executed and not yet consumed (R223): its address, kind and payload. -/
structure Hint where
  pc      : Nat
  kind    : Nat
  payload : BitVec 23
deriving DecidableEq, Repr

/-- One entry of a warp's split table with its deferred slot, its implicit-join marker (R255) and its pending hints. -/
structure Split where
  st     : EntState
  pc     : Nat
  mask   : Mask
  loops  : List LoopEnt        -- top first
  defSt  : DefState
  dpc    : Nat
  dmask  : Mask
  dloops : List LoopEnt
  mark   : Option (Nat × Mask)
  stamp  : Nat
  wait   : Wait
  hints  : List Hint           -- in program order
  promoted : Bool              -- R42
  since  : Nat                 -- slot cycle from which it has been ready without a break (R42)
  stall  : Nat                 -- slot cycle before which an HSTL keeps it from being ready (R396)
  imp    : Bool                -- parked at an implicit JOIN (R255), not at a JOIN instruction
  dimp   : Bool                -- the same of the lanes parked in the deferred slot
  div    : Nat                 -- divided calls that its code was reached by (R399)
  ddiv   : Nat                 -- the same of the deferred slot's lanes
deriving DecidableEq, Repr

/-- A FREE entry. -/
def Split.free : Split :=
  { st := .free, pc := 0, mask := 0, loops := [], defSt := .empty, dpc := 0, dmask := 0, dloops := [], mark := none,
    stamp := 0, wait := .ready, hints := [], promoted := false, since := 0, stall := 0, imp := false, dimp := false,
    div := 0, ddiv := 0 }

/-- A translation register (R87). -/
structure TReg where
  base  : Nat
  size  : Nat
  valid : Bool
  stale : Bool
  pa    : Nat
  limit : Nat
  asid  : Nat
  rd    : Bool
  wr    : Bool
  ac    : Bool
  far   : Bool
deriving DecidableEq, Repr

/-- An invalid translation register, as at launch (R89). -/
def TReg.invalid : TReg := ⟨0, 0, false, false, 0, 0, 0, false, false, false, false⟩

/-- State of a handle register (R337). -/
inductive HState where
  | empty | valid | invalid
deriving DecidableEq, Repr

/-- A handle: its state and the copy of the record (R337); its kind is the record's first four bits. -/
structure Handle where
  st  : HState
  bytes : List Byte
deriving DecidableEq, Repr

/-- One row of A as captured: its 64 bytes, and which of its sixteen words were poisoned (R103). -/
structure ARow where
  bytes : List Byte
  pois  : BitVec 16
deriving DecidableEq, Repr

/-- One MMA or MLOOP of a batch (R342, R346): the record's copy, the rows of A when they were taken at issue (none is a padded
row), the A scales taken with them, the count of steps, .CHK, the registers that it binds with the lanes that supplied them
(R119), and the C rows, columns and words whose results are undefined (R84, R119, R142). -/
structure MatOp where
  bytes : List Byte
  arows : Option (List (Option ARow))
  ascal : Option (List Byte × Mask)   -- the 256 scale bytes, and the rows whose scale word was poisoned
  steps : Nat
  chk   : Bool
  aregs : Option (Nat × Mask)
  undefRows : Mask
  undefCols : Mask
  undefWords : List Nat
  ran   : Nat                     -- steps that the matrix unit has performed (R344)
  loose : Mask                    -- rows that R399 leaves undefined
  flags : List (BitVec 5)         -- flags that its steps gathered, by element of C; none where no step has run
deriving DecidableEq, Repr

/-- A closed batch (R347 to R349) that no MWAIT has named, or one of the last eight. -/
structure Batch where
  num    : BitVec 8
  ops    : List MatOp      -- not yet performed
  past   : List MatOp      -- performed, and not yet named by an MWAIT (R84, R119, R142)
  regs   : BitVec 128      -- registers that it binds (R119)
  done   : Bool
  chkmis : Bool
  poison : Option Nat      -- offset of the first poisoned word read
  flags  : BitVec 5        -- flags set on account of undefined results, and those of an image; the rest are its operations'
  named  : Bool
deriving DecidableEq, Repr

/-- The reuse latch (R343). -/
structure Latch where
  afmt  : Nat
  rows  : List (Option ARow)
  ascal : List Byte
  ascalP : Mask
deriving DecidableEq, Repr

/-- An MRDY that waits for its rows to be captured (R345): its split and first register. -/
structure Mrdy where
  split : Nat
  va    : Nat
  undef : Bool                    -- issued by code that a divided call reached (R399)
deriving DecidableEq, Repr

/-- What a lane's memory access names: the lane, its virtual address, its physical address, and its data (R304). -/
structure LaneAcc where
  lane : Nat
  va   : Nat
  pa   : Nat
  data : List Byte
  poison : List Nat            -- which 4-byte elements of the data are poisoned (R102)
  win  : Option Nat            -- in the BF16 window: its descriptor's physical address (R97)
  pmode : Nat                  -- the page's poison handling (R422)
  asid : Option Nat            -- of the translation register whose frame serves it, none where the address was translated (R88, R431)
deriving DecidableEq, Repr

/-- Which arrival counter an operation lowers (R90). -/
inductive Path where
  | gld | gst | lrm | tcp | tmd
deriving DecidableEq, Repr

/-- A fault on which a warp or another agent is parked (R66, R426). -/
structure ParkedFault where
  token : Nat
  code  : FaultCode
  kind  : Nat
  malformed : Bool
  split : Nat
  pc    : Nat
  lanes : Mask
  pages : List Nat
  queued : Bool              -- false while held for ring space (R427, R428)
  resolved : Option Bool     -- some true after .RPL, some false after .ACC
  raised : Option (Path × Nat)  -- the counter raise kept until the replay (R91)
  op     : Option Nat           -- the reissued load that faulted, rather than an instruction (R96)
  addr   : Nat                  -- address of the lowest unfinished lane (R72)
  again  : Option (Mask × Option (Path × Nat)) -- of an instruction fetch within a replay: that replay's lanes and kept raise (R225)
deriving DecidableEq, Repr

/-- How a warp stopped when its workgroup halted, or at a save (R69, R72, R75). -/
structure StopRec where
  code    : TrapCode
  skid    : Nat
  cyc     : Nat
  primary : Bool
  split   : Nat
  pc      : Nat
  lanes   : Mask
  info    : Nat
deriving DecidableEq, Repr

/-- A parked SUFX (R353): the output rows already issued, the suffix block and the captured tile. -/
structure Sufx where
  rows  : Mask
  block : List Byte
  tile  : List (Word × Bool)      -- 4,096 elements with poison
deriving DecidableEq, Repr

/-- An ATTN begun and not completed (R190): its word, its progress block, the sentence record as it first read it (R171), and what the
block has no place for: the scores z of its finished pages, per page and query head (R189). -/
structure AttnAt where
  pc    : Nat
  caoff : Nat
  size  : Nat
  recd  : List Byte
  z     : List (List (List Word))
deriving DecidableEq, Repr

/-- Life of a warp. -/
inductive Life where
  | running
  /-- stopped: halted with the workgroup, yielded, or forced -/
  | stopped (r : StopRec)
  /-- stopped by YIELD with the request flag set (R263) -/
  | yielded
  | exited
deriving DecidableEq, Repr

/-- A register that a pending operation will make full (R93). -/
inductive RegRef where
  | v (r : Nat) | s (r : Nat) | k (r : Nat) | t (r : Nat) | h (r : Nat)
deriving DecidableEq, Repr

/-- One resident warp. Register tables list only non-zero elements. -/
structure Warp where
  group : Nat                  -- workgroup
  idx   : Nat                  -- %warp
  core  : Nat                  -- die × 384 + cluster × 192 + core
  slot  : Nat                  -- issue slot, 0 to 3
  landing : Bool               -- in a landing position (R65)
  life  : Life
  v     : Table Word           -- register r, lane l at 64 r + l
  s     : Table Word
  k     : Table Mask
  t     : Table TReg
  h     : Table Handle
  vE    : BitVec 128           -- empty bits (R93)
  sE    : BitVec 128
  kE    : BitVec 16
  tE    : BitVec 8
  hE    : BitVec 16
  vP    : BitVec 8192          -- poison bits (R102), register r, lane l at 64 r + l
  sP    : BitVec 128
  kP    : BitVec 16
  gld   : Nat
  gst   : Nat
  lrm   : Nat
  tcp   : Nat
  tmd   : Nat
  peer  : Option (Mask × Nat)  -- pending PEER: lanes and address (R92, R124)
  late  : Option Mask          -- pending LATE: lanes (R92, R376)
  fstat : BitVec 5
  splits : List Split
  joins : Table (Mask × Bool)  -- parked JOINs by 2 × address + implicit: the rejoin mask read last (R45, R50)
  nb    : BitVec 8
  latch : Option Latch
  openSet : List MatOp
  batches : List Batch
  mrdys : List Mrdy
  tm    : Bool                 -- WCTL.TM (R412)
  fault : Option ParkedFault
  replay : Option (Nat × Mask × Option (Path × Nat)) -- split, lanes and kept raise of an instruction being replayed (R91, R225)
  landed : Mask × Mask × Mask × Mask   -- TCOPY rows landed, rows 0 to 255
  sufx  : Option Sufx
  bound : BitVec 128           -- v registers bound to a batch that no MWAIT has named (R119)
  spoilt : BitVec 128          -- bound registers written meanwhile, whose contents are undefined (R119)
  attnZ : Table AttnAt         -- by split, its ATTN that has begun and not completed (R189, R190)
  kept  : List Byte            -- the sentence record as a parked KV instruction first read it (R171)
  tlbinvs : List Nat           -- TLBINV operations issued and not yet acknowledged (R431)
  skid  : Nat                  -- instructions completed since the primary trap (R69)
  haltAt : Option Nat          -- its slot clock at the primary trap, while its workgroup halts (R69, R72)
  loose : List RegRef          -- s, k, t and h registers left undefined by code that a divided call reached (R399)
  last  : Nat                  -- the entry that issued last (R72)
  owed  : List RegRef          -- registers that a load, ATOM, CAS or LDT parked on a fault has still to fill (R308)
  part  : Option Batch         -- what the matrix unit has already performed of the open set (R75, R344)
deriving DecidableEq, Repr

/-- Where a workgroup stands. -/
inductive GroupState where
  | running
  /-- a warp has trapped; siblings are stopping (R69) -/
  | halting
  /-- every warp has stopped; the records wait for a trap-area entry (R434) -/
  | halted
  /-- delivered to the trap-area entry at the physical address (R434) -/
  | delivered (entry : Nat)
  /-- every warp has exited; children or the bound stream are awaited (R59) -/
  | exited
  /-- written to a save block and off its core (R438) -/
  | saved
deriving DecidableEq, Repr

/-- A workgroup (R55, R59). Buffers list only non-zero bytes. -/
structure Group where
  grid  : Nat
  lin   : Nat                  -- linear index (R55)
  core  : Nat
  warps : List Nat             -- uids in warp order
  st    : GroupState
  abuf  : Table Byte
  wbuf  : Table Byte
  cbuf  : Table Byte
  bufP  : List Nat             -- poisoned 32-bit buffer words: 2^20 × (0 A, 1 W, 2 C) + word index
  priv  : Nat                  -- base P of R85
  children : Nat               -- child grids not yet retired
  stream : Option Nat          -- bound stream
  since : Nat                  -- die time of its halt (R433)
  told  : BitVec 6             -- machine checks reported of its delivery or its save (R77, R434)
deriving DecidableEq, Repr

/-- What a launch declares and where it stands (R404, R453, R461). -/
structure Grid where
  ctx   : Nat
  w     : Nat
  vregs : Nat
  agr   : Nat                  -- granules
  wgr   : Nat
  cgr   : Nat
  wgsize : Nat
  cluster : Nat                -- 0 without .cluster
  coop  : Bool
  migr  : Bool
  cap   : Nat
  priv  : Nat                  -- .private bytes as declared
  entry : Nat                  -- virtual address of the first instruction
  kdesc : Nat
  x     : Nat
  y     : Nat
  z     : Nat
  karg  : DWord
  depth : Nat
  parent : Option Nat          -- workgroup
  doneSem : Nat                -- 0 for none
  bind  : Option (Nat × Nat × Nat × Nat)   -- stream PC, BXB, BXS, BSTAT
  die   : Nat                  -- target when not any
  anyDie : Bool
  owner : Nat                  -- die that consumed the record
  prio  : Nat                  -- 7 once promoted, else 0 (R457)
  device : Bool
  since : Nat                  -- die time of entry into the pending list
  next  : Nat                  -- workgroups 0 to next − 1 admitted
  total : Nat
  retired : Nat
  away : Nat                   -- workgroups saved and not admitted again
  frozen : Bool
  queue : Option Nat
deriving DecidableEq, Repr

/-- A stream's stop code (R330) or its running state. -/
inductive StreamState where
  | run
  /-- at an instruction whose access to host memory is on its way (R124) -/
  | outbound
  | waitSem (va threshold : Nat)
  | fault                       -- parked on a fault record
  | saved                       -- in the save image of its workgroup (R439)
  | stopped (code : Nat)
deriving DecidableEq, Repr

/-- A copy-engine stream (R326, R454). -/
structure Stream where
  die   : Nat
  engine : Nat
  ctx   : Nat
  st    : StreamState
  pc    : Nat
  xb    : DWord
  xs    : DWord
  lc    : Option Nat            -- none is idle
  la    : Nat
  flags : BitVec 5
  group : Option Nat            -- bound workgroup
  status : Nat                  -- 0 for none
  doneSem : Nat
  queue : Option Nat
  fault : Option ParkedFault
  moved : Nat                   -- lines of its copying instruction that have been written (R326)
  quota : Option Nat            -- lines of it that the step at hand writes, where the environment names a part
deriving DecidableEq, Repr

/-- One register element that a pending operation will write; the Bool is its poison (R102). -/
inductive RegWrite where
  | v (r l : Nat) (x : Word) (p : Bool)
  | s (r : Nat) (x : Word) (p : Bool)
  | k (r : Nat) (x : Mask)
  | t (r : Nat) (x : TReg)
  | h (r : Nat) (x : Handle)
deriving DecidableEq, Repr

/-- A read-modify-write performed at the home (R312, R313, R321). -/
inductive AtomFn where
  | add | and | or | xor | min | max | minU | maxU | exch | fadd | cas
deriving DecidableEq, Repr

/-- What a load's reissue record needs of its issue (R440): the base of its translation register, its displacement, NA. -/
structure Reissue where
  base : Nat
  disp : Int
  na   : Bool
deriving DecidableEq, Repr

/-- What a pending operation still has to do. -/
inductive OpKind where
  /-- a multi-cycle result (R93) -/
  | result (writes : List RegWrite) (flags : BitVec 5)
  /-- a VCBD's result, which a write of CBMAG makes undefined (R142) -/
  | cb (writes : List RegWrite) (flags : BitVec 5)
  /-- a load: accesses, size, sign extension, destination, order, scope; form 0 global, 1 private, 2 a load made again after
  a save, not yet translated (R96); a window lane's data was read at issue -/
  | load (accs : List LaneAcc) (z : Nat) (sx : Bool) (vd : Nat) (order scope form : Nat) (iss : Reissue)
  /-- a posted store: the number of its write record (0 for none), its lanes and their size; lanes in the BF16 window are
  written when it is performed (R99); whether it is a system-scope release, whose own bytes reach home memory (R123) -/
  | store (write : Nat) (accs : List LaneAcc) (z : Nat) (sys : Bool)
  /-- a private store: done at issue, counted until performed -/
  | privStore
  /-- an operation that has ended and waits for older ones of its path to lower its counter (R91) -/
  | done
  /-- an atomic or CAS: accesses with operand data, size, destination of the old value -/
  | atom (fn : AtomFn) (accs : List LaneAcc) (z : Nat) (vd : Option Nat) (order scope : Nat)
  /-- an LDL of the own workgroup (R311): the result, and what the reissue record of a save takes: lanes with their local addresses,
  size, destination, buffer (R96, R440) -/
  | ldl (writes : List RegWrite) (lanes : List (Nat × Nat)) (z vd u : Nat) (iss : Reissue)
  /-- cluster-remote A-buffer accesses (R311): va is the local address and pa the target workgroup of each lane -/
  | remote (store : Bool) (accs : List LaneAcc) (z : Nat) (vd : Nat) (iss : Reissue)
  /-- one TCOPY row (R324): row, A/W offset, its 16-byte pieces in order, scatter -/
  | row (r : Nat) (wbuf : Bool) (off : Nat) (segs : List LaneAcc) (scat : Bool)
  /-- tensed load: accesses, size, destination, not-before time, acquire; lanes that have arrived at their home (64 alone: a load made
  again after a save, not yet translated), lanes done -/
  | ldt (accs : List LaneAcc) (z vd n : Nat) (acq : Bool) (arrived : List Nat) (got : List Nat) (iss : Reissue)
  /-- tensed store: accesses, size, time, release, .LF; lanes that wait for space at their home, are held there (with their order of
  arrival), are done; late lanes; whether the notice has reached the issuer -/
  | stt (accs : List LaneAcc) (z t : Nat) (rel lf : Bool) (queued : List Nat) (held : List (Nat × Nat)) (gone : List Nat)
      (late : Mask) (noticed : Bool)
  /-- a write-back of a range by CWB (R319) -/
  | cwb (va len : Nat)
  /-- writes of an engine instruction (R121): their write record, those in the BF16 window, the flags of its completion -/
  | engine (write : Nat) (accs : List LaneAcc) (flags : BitVec 5)
  /-- an ATTN, SELPG, CTRC or EXPD (0 to 3) at work for the split (R335), or a CTRC that has still to set VALID (5, R207): its operands,
  and the parity under which it counts as a frame reader (R200), 2 for none -/
  | work (func : Nat) (args : List Nat) (par : Nat)
  /-- MASSR or TIER at the slot's home (R357, R359): the record's address and bytes as read, slot, destination, clear / near -/
  | slotReq (tier : Bool) (recd : Nat) (sent : List Byte) (slot dst : Nat) (arg : Bool)
  /-- a DCLN request (R358): record, semaphore (none without .SEM), dies not yet reached, whether some list held it -/
  | dcln (recd : Nat) (sem : Option Nat) (left : List Nat) (found : Bool)
  /-- TLBINV (R430): ASID or all, range or all, dies not yet performed -/
  | tlbinv (asid : Option Nat) (range : Option (Nat × Nat)) (left : List Nat)
  /-- SQGROW's copy (R174): physical addresses of record and semaphore, next slot; once FWD is clear, the operations that began
  before -/
  | sqgrow (recd i sem : Nat) (after : Option (List Nat))
  /-- LAUNCH holding a device-launch queue entry (R266): its status, the child grid, destination -/
  | launch (status : Nat) (grid : Option Grid) (dst : Nat)
  /-- an SRW whose operation holds an HBM channel (R485) -/
  | phy (key : Nat)
deriving DecidableEq, Repr

/-- A pending operation: its number, the warp and split that issued it, the die, the registers it makes full, the
counter it lowers with the amount, the parity under which a KV alias access counts as a frame reader (R200), 2 for none, and its
slot's address-space identifier as it issued (R431). -/
structure Op where
  id    : Nat
  warp  : Nat
  split : Nat
  die   : Nat
  ctx   : Nat
  pc    : Nat
  full  : List RegRef
  path  : Option (Path × Nat)
  kind  : OpKind
  par   : Nat
  asid  : Nat
deriving DecidableEq, Repr

/-- One write on its way (R105): bytes with their new values and, once performed, the home values they replaced; the die
that originated it, its stamp, whether it is performed at its home, and the dies that have applied it. -/
structure Write where
  id    : Nat
  die   : Nat
  bytes : List Host.Cell
  old   : List Host.Cell
  spans : List (Nat × Nat × Bool)  -- stores made: address, size, whether the element was poisoned (R102)
  stamp : List Nat
  performed : Bool
  applied : List Nat
deriving DecidableEq, Repr

/-- A cached translation (R21, R423). -/
structure TlbEnt where
  asid : Nat
  va   : Nat                    -- first byte of the page
  size : Nat                    -- 0, 1, 2 as in R87
  pte  : DWord                  -- the leaf
  core : Option Nat             -- the core whose L1 TLB holds it; none for the die's L2 TLB (R21)
deriving DecidableEq, Repr

/-- A fault record of a die's queue (R426), still unresolved: its agent, whether it is claimed and by whom, its entry of the ring. -/
structure FaultRec where
  token : Nat
  words : List Word             -- the 32 words of the record
  agent : Nat × Nat             -- 0 warp, 1 stream, 2 completion write, 3 queue; its uid
  claimed : Option Nat          -- claiming warp
  entry : Nat
deriving DecidableEq, Repr

/-- Discipline state of a die (R128). -/
inductive TimeState where
  | free | acquire | locked
deriving DecidableEq, Repr

/-- What one die knows of one peer: its EN, the runs of R128, the latest offset and the exchange in flight (R467). -/
structure Peer where
  en    : Bool
  good  : Nat
  miss  : Nat
  offset : Int
  ok    : Bool
  t1    : Option Nat
  t23   : Option (Nat × Nat)
  last  : Option Nat             -- time of the latest exchange begun
deriving DecidableEq, Repr

/-- A direction of a die link at its sender (R464). -/
structure Link where
  entries : Table DWord
  commit : Bool
  err   : Bool
  nent  : Nat
  owner : Nat
  up    : Bool
  retrain : Nat
  latched : Option (List DWord × Nat)
  schedule : List DWord × Nat    -- the installed entries and owner
  fails : Nat                    -- failing flits within the window (R466)
  failAt : Nat                   -- when the window began
deriving DecidableEq, Repr

/-- A queued physical page move (R472). -/
structure Move where
  src : Nat
  dst : Nat
  len : Nat
  sem : Nat
deriving DecidableEq, Repr

/-- Replacement of a core (R490, R491). -/
structure CoreSvc where
  core  : Nat
  cluster : Nat
  state : Nat
  active : Option Nat            -- logical index within the die that is being replaced
deriving DecidableEq, Repr

/-- A sweep request or running pass (R193). -/
structure Sweep where
  id    : Nat
  ctx   : Nat
  recd  : Nat
  entry : Nat                    -- virtual address of the record-list entry
  sems  : List Nat
  started : Bool
  pass  : Option Nat             -- interval pass it belongs to
deriving DecidableEq, Repr

/-- An action on a slot (R194 to R202). -/
inductive ActKind where
  | demote | far | near | evac
deriving DecidableEq, Repr

/-- A running action: record, slot, generation and kind; after its swap the old frame waits for the readers (R200). -/
structure Act where
  id    : Nat
  die   : Nat
  ctx   : Nat
  recd  : Nat
  slot  : Nat
  gen   : Nat
  kind  : ActKind
  swapped : Option (Nat × Bool × Nat)    -- old granule, tier, granule count, once swapped
  epochs : List Nat                      -- dies that have raised their epoch for it
deriving DecidableEq, Repr

/-- The state that each die holds (R417, R444, R445, R462, R464, R468, R488, R200, R105). -/
structure Die where
  id    : Nat
  time  : Nat
  tstate : TimeState
  en    : Bool
  peers : Table Peer
  rate  : Int
  missed : Nat
  unlocks : Nat
  ulrel : Nat
  clock : List Nat               -- writes applied, per originating die
  seen  : List Nat               -- performed writes in the order in which it applied them since its last acquire, newest first (R107)
  tlb   : List TlbEnt
  fqbase : Nat
  fqlog2 : Nat
  fqtail : Nat
  faults : List FaultRec
  heldFaults : List FaultRec
  tqbase : Nat
  tqlog2 : Nat
  tqtail : Nat
  notices : List (List Byte)
  heldNotices : List (List Byte)
  seq   : Nat                    -- trap deliveries
  token : Nat
  mchk  : BitVec 6
  mctx  : Nat
  elog  : Table (List DWord)     -- error-log entry n
  elnext : Nat
  elcount : Nat
  ellost : Nat
  injtgt : DWord
  injaddr : DWord
  injmask : DWord
  injctl : DWord
  late  : Nat
  lnext : Nat
  lateLog : Table DWord          -- telemetry registers 16 to 47
  demblk : Nat
  satblk : Nat
  nfpage : Nat
  skipint : Nat
  engskip : Nat
  englast : Nat
  dclndrop : Nat
  tierdrop : Nat
  movfar : Nat
  movnear : Nat
  abandon : Nat
  freed : Nat
  ohldisc : Nat
  upddrop : Nat
  updlast : Nat
  lostfrm : Nat
  lostlast : DWord
  coresvc : CoreSvc
  spares : Nat × Nat
  phys  : Table Nat              -- logical core of the die to physical index, where replaced
  gsel  : DWord
  qtbase : Nat
  dlq   : Nat
  promo : Nat
  plim  : Nat
  pwr   : Nat
  gate  : Nat
  gated : List Nat               -- gated cores of the die
  msrc  : Nat
  mdst  : Nat
  mlen  : Nat
  msem  : Nat
  moves : List Move
  links : Table Link
  re    : Nat
  c0    : Nat
  c1    : Nat
  pending : List Nat             -- grids of the pending list, in order of entry
  gridCount : Nat
  sweeps : List Sweep
  rot   : Nat                    -- expander last used by the migration engine
  sweptAt : Table Nat            -- by context slot, the time of its latest declension interval (R193)
  epochWait : Option (List Nat)  -- the actions whose epoch step waits for its readers (R200)
  clusters : BitVec 2            -- clusters released into service
  outCores : List Nat            -- logical cores of the die out of service
  idleFrom : Table Nat           -- by logical core of the die, the time its last warp left (R477)
deriving DecidableEq, Repr

/-- A context slot (R418, R420). CBMAG lists the entries that differ from the reset table. -/
structure Ctx where
  valid : Bool
  priv  : Bool
  req   : Bool
  hold  : Bool
  asid  : Nat
  ptroot : Nat
  anear : Nat
  anearsz : Nat
  afar  : Nat
  afarsz : Nat
  aclass : Nat
  trapbase : Nat
  trapn : Nat
  hostn : Bool
  trapnext : Nat
  savelist : Nat
  saved : Nat
  pdly  : Nat
  dclnint : Nat
  rlbase : Table Nat
  rlcnt : Table Nat
  cbmag : Table Nat              -- entry n plus one, so that a written zero is listed
  reload : List Nat              -- images queued by CTXLD or saved, awaiting admission
  waiting : Table Nat            -- PREEMPT.WAITs that wait, by 4 × warp + split: savedCount as they began
  savedCount : Nat               -- workgroups saved so far
  reqAt  : Table Nat             -- slot clocks at the pre-emption request (R75)
deriving DecidableEq, Repr

/-- An expander's port (R470). -/
structure Port where
  up    : Bool
  enum  : Bool
  inserv : Bool
  evac  : Bool
  viral : Bool
  lanes : Nat
  base  : Nat
  size  : Nat
  ce    : Nat
  ue    : Nat
  busy  : Bool                   -- ENUMERATE has been asked for
deriving DecidableEq, Repr

/-- An operation that holds a channel (R485): 0 TEST, 1 APPLY, 2 REPAIR; the value written, whether it has run, the SRW that
waits for it. -/
structure ChanWork where
  kind  : Nat
  value : DWord
  ran   : Bool
  op    : Option Nat
  fail  : DWord                  -- lanes that a test which has run found failing
  table : Option (List Nat)      -- the delay table that an APPLY which has run has read; none where it loads nothing
deriving DecidableEq, Repr

/-- An HBM4E channel's physical layer (R484). -/
structure Chan where
  trmode : Bool
  terr  : Bool
  rate  : Nat
  trial : DWord
  fail  : DWord
  repair : DWord
  tbl   : Nat
  rdly  : Table Nat              -- live delay plus one where not the reset 32
  wdly  : Table Nat
  refresh : Bool                 -- in self-refresh
  work  : Option ChanWork        -- the operation that holds the channel (R485)
deriving DecidableEq, Repr

/-- What a host queue is doing with the record at HEAD (R451 to R456). -/
inductive QueueWork where
  | idle
  /-- a read that the record at HEAD needs has faulted, and the record is taken again once that is resolved -/
  | reading
  | waiting (sem threshold : Nat)
  | signalling (sem value : Nat) (set : Bool)
deriving DecidableEq, Repr

/-- The dispatcher's copy of a queue's descriptor (R450). -/
structure Queue where
  known : Bool
  en    : Bool
  prio  : Nat
  owner : Nat
  ctx   : Nat
  log2  : Nat
  base  : Nat
  work  : QueueWork
  stop  : Bool                   -- QCTL STOP asked (R456)
  fault : Option Nat             -- the token of a fault that it waits on
deriving DecidableEq, Repr

/-- A message sent to the host or a peer, oldest first in State.sent (R447, R449). -/
structure Msg where
  port  : Nat
  type  : Nat
  abort : Bool
  tag   : Nat
  arg   : Nat
  data  : List Byte
  len   : Nat := data.length   -- payload bytes, or the bytes that an MRD asks for
deriving DecidableEq, Repr

/-- What a range of physical addresses is (R18, R28). -/
inductive RegionKind where
  | hbm (die : Nat)
  | bootL2
  | host (port : Nat)
deriving DecidableEq, Repr

/-- One range of the physical address map; expanders' ranges stand in their ports. -/
structure Region where
  base : Nat
  size : Nat
  kind : RegionKind
deriving DecidableEq, Repr

/-- A completion write that waits on a fault (R500). -/
structure Completion where
  id    : Nat
  die   : Nat
  ctx   : Nat
  va    : Nat
  add   : Bool                   -- add 1, else store the bytes
  bytes : List Byte
  who   : Nat                    -- WHO of its agent (R426)
deriving DecidableEq, Repr

/-- An inbound access held at its home (R122, R485): arrival number, port, tag, address, bytes to read, data to write, arrival. -/
structure Inbound where
  id    : Nat
  port  : Nat
  tag   : Nat
  addr  : Nat
  len   : Nat
  data  : Option (List Byte)
  since : Nat
deriving DecidableEq, Repr

/-- An MRD of the module that its CPL has not yet answered, or whose data its agent has not yet taken (R447). -/
structure HostAsk where
  who  : Nat
  port : Nat
  pa   : Nat
  len  : Nat
  got  : Option Bool    -- none until it is answered; then whether with data and not with an abort
deriving DecidableEq, Repr

/-- A protected word of one of the arrays of R444 that the word of memory is not, with what names it in this state. -/
inductive ErrSite where
  | v (warp r lane : Nat)       -- 0x01
  | s (warp r : Nat)            -- 0x02
  | k (warp r : Nat)
  | buf (group u word : Nat)    -- 0x03 to 0x05
  | l1 (core pa : Nat)          -- 0x06
  | code (core pa : Nat)        -- 0x07
  | mem (pa : Nat)              -- 0x08 to 0x0A
  | control (warp : Nat)        -- 0x0C
deriving DecidableEq, Repr

/-- A choice that the environment makes: what moves next (R42, R116), what time passes. -/
inductive Action where
  /-- the named split of the named warp issues its next word -/
  | issue (warp split : Nat)
  /-- the named stream executes its next instruction -/
  | stream (n : Nat)
  /-- the named stream writes that many more lines of its copying instruction, and may not be done with it then (R326) -/
  | streamPart (n lines : Nat)
  /-- another step of the table takes place -/
  | event (i : Instr)
  /-- die time of the die advances by that many ns (R126) -/
  | elapse (die ns : Nat)
  /-- the slot's clock advances by that many cycles -/
  | cycles (core slot n : Nat)
  /-- the core's instruction cache drops the word (R27) -/
  | evict (core word : Nat)
  /-- the die's L2 writes a dirty 128-byte line back (R26, R123) -/
  | lineBack (die line : Nat)
  /-- the die's L2 TLB drops its entry for the page (R423) -/
  | dropTlb (die asid va : Nat)
  /-- the core's L1 TLB takes the translation of the address that the core sees (R21) -/
  | fillTlb (core ctx va : Nat)
  /-- the core's L1 TLB drops its entry for the page (R21) -/
  | dropL1Tlb (core asid va : Nat)
  /-- the core's L1 data cache takes a clean copy of a global line, or drops it (R21, R26) -/
  | lineFill (core line : Nat)
  | lineDrop (core line : Nat)
  /-- the matrix unit of the warp's core performs one more step of the warp's oldest operation (R344) -/
  | matrix (warp : Nat)
  /-- the MRDs of a pending operation go out to the host (R447) -/
  | request (n : Nat)
  /-- the host changes its own memory -/
  | hostMem (pa : Nat) (bytes : List Byte)
  /-- OHL port 1 has trained (R475) -/
  | trainOhl
  /-- bytes of an OHL message arrive at a port (R446) -/
  | message (port : Nat) (bytes : List Byte)
  /-- bits of a protected word have flipped, and the word is next accessed (R101, R445); index is its ADDR in the error log -/
  | bitError (site : ErrSite) (index bits : Nat)
deriving DecidableEq, Repr

/-- What the module selects when the agenda is empty. -/
inductive Select where
  | idle
  | warp (w split : Nat)
  | stream (n : Nat)
deriving DecidableEq, Repr

/-- The module. -/
structure State where
  agenda : List Action           -- the environment's choices, first to be taken first
  cur    : Select
  warps  : Table Warp
  groups : Table Group
  grids  : Table Grid            -- by identifier (R460)
  streams : Table Stream
  ops    : List Op               -- pending operations, oldest first
  posted : List Write            -- stores not yet performed, oldest first
  wlog   : List Write            -- performed writes, newest first, while some die has still to apply one
  mem    : List Host.Cell        -- home values of physical memory; an unlisted byte reads 0
  memP   : List Nat              -- poisoned 64-bit words, rising
  dirty  : Table (Nat × Byte)    -- bytes whose home memory lags: a bit for each die whose L2 holds them, the value in memory
  privMem : List Host.Cell       -- private bytes written so far (R85, R86), by the address of R85
  privP  : List Nat              -- poisoned 64-bit private words, by address / 8 (R101, R102)
  privNext : Nat                 -- where the dispatcher places the next private block (R85)
  kept   : Table Warp            -- saved warps by uid: what their images have no place for (R439, R440)
  icache : Table (Table Word)    -- per core, words held by the instruction cache, by physical word index
  l1     : Table (List Nat)      -- per core, global lines of which the L1 data cache holds a clean copy (R21, R26)
  dies   : List Die
  ctxs   : Table Ctx
  ports  : Table Port            -- expanders 0 to 7
  chans  : Table Chan            -- 32 × stack + channel
  queues : Table Queue
  acts   : List Act
  regions : List Region
  cyc    : Table Nat             -- %cyc by 4 × core + slot
  ohl1   : Bool                  -- OHL port 1 trained
  fp6    : List Nat              -- cores that have passed the FP6 self-test
  fp4    : List Nat
  fmtTop : Nat                   -- the bits beside 0x0E that MMA_FMT has come to report, which never fall (R34)
  live   : Bool                  -- SERVICE.LIVE held by a change under way other than TRMODE
  clockMhz : Nat
  booted : Bool
  sent   : List Msg
  completions : List Completion
  outstanding : List Inbound     -- inbound accesses not completed, oldest first
  asks   : List HostAsk          -- the module's reads of host memory under way, oldest first
  uid    : Nat                   -- next uid of a warp, workgroup, operation, write, sweep or action
  free   : Nat                   -- free values drawn so far (the model's own field)
deriving DecidableEq, Repr

/-- A peer as at reset. -/
def Peer.reset : Peer := ⟨false, 0, 0, 0, false, none, none, none⟩

/-- A link direction as at reset: trained at the fixed rate (R473). -/
def Link.reset : Link := ⟨[], false, false, 0, 0, false, 0, none, ([], 0), 0, 0⟩

/-- A die as at reset (R417, R462, R468, R473, R488). -/
def Die.reset (d : Nat) : Die :=
  { id := d, time := 0, tstate := .free, en := false, peers := [], rate := 0, missed := 0, unlocks := 0, ulrel := 0,
    clock := [0, 0, 0, 0], seen := [], tlb := [], fqbase := 0, fqlog2 := 0, fqtail := 0, faults := [], heldFaults := [], tqbase := 0,
    tqlog2 := 0, tqtail := 0, notices := [], heldNotices := [], seq := 0, token := 0, mchk := 0, mctx := 0, elog := [],
    elnext := 0, elcount := 0, ellost := 0, injtgt := 0, injaddr := 0, injmask := 0, injctl := 0, late := 0, lnext := 0,
    lateLog := [], demblk := 0, satblk := 0, nfpage := 0, skipint := 0, engskip := 0, englast := 0, dclndrop := 0,
    tierdrop := 0, movfar := 0, movnear := 0, abandon := 0, freed := 0, ohldisc := 0, upddrop := 0, updlast := 0,
    lostfrm := 0, lostlast := 0, coresvc := ⟨0, 0, 0, none⟩, spares := (4, 4), phys := [], gsel := 0, qtbase := 0,
    dlq := 0, promo := 10000000, plim := 900, pwr := 0, gate := 1000, gated := [], msrc := 0, mdst := 0, mlen := 0,
    msem := 0, moves := [], links := [], re := 0, c0 := 0, c1 := 0, pending := [], gridCount := 0, sweeps := [],
    rot := 7, sweptAt := [], epochWait := none, clusters := 0, outCores := [], idleFrom := [] }

/-- A context slot as at reset (R418). -/
def Ctx.reset : Ctx :=
  { valid := false, priv := false, req := false, hold := false, asid := 0, ptroot := 0, anear := 0, anearsz := 0,
    afar := 0, afarsz := 0, aclass := 0, trapbase := 0, trapn := 0, hostn := false, trapnext := 0, savelist := 0,
    saved := 0, pdly := 500000, dclnint := 0, rlbase := [], rlcnt := [], cbmag := [], reload := [], waiting := [],
    savedCount := 0, reqAt := [] }

/-- A port as at reset (R470). -/
def Port.reset : Port := ⟨false, false, false, false, false, 0, 0, 0, 0, 0, false⟩

/-- A channel as at reset (R484). -/
def Chan.reset : Chan := ⟨false, false, 3200, 0, 0, 0, 0, [], [], false, none⟩

/-- A queue whose descriptor has not been read. -/
def Queue.reset : Queue := ⟨false, false, 0, 0, 0, 0, 0, .idle, false, none⟩

/-- Bytes of host memory behind an OHL port, and where they start (assumption 3). -/
abbrev hostBytes : Nat := 0x4000000000000
def hostBase (port : Nat) : Nat := 0x8000000000000 + port * hostBytes

/-- Where the dispatcher places the first private block (R85, assumption 6): in the upper half of N1's memory. -/
abbrev privFirst : Nat := 0x4000000000 + 128000000000

/-- The physical address map chosen for the model (assumption 3): F0's L2 at 0 (R474), 256 GB of each near die above it (R16, R28), host memory
at the top. -/
def regionsReset : List Region :=
  [⟨0, 0x4000000, .bootL2⟩, ⟨0x4000000, 256000000000, .hbm 0⟩, ⟨0x4000000000, 256000000000, .hbm 1⟩,
   ⟨hostBase 0, hostBytes, .host 0⟩, ⟨hostBase 1, hostBytes, .host 1⟩]

/-- The module after power-on reset (R473): no core runs, memory lists nothing, F0 waits for the boot image. -/
def State.reset : State :=
  { agenda := [], cur := .idle, warps := [], groups := [], grids := [], streams := [], ops := [], posted := [],
    wlog := [], mem := [], memP := [], dirty := [], privMem := [], privP := [], privNext := privFirst, kept := [], icache := [], l1 := [],
    dies := [Die.reset 0, Die.reset 1, Die.reset 2, Die.reset 3], ctxs := [], ports := [], chans := [], queues := [],
    acts := [], regions := regionsReset, cyc := [], ohl1 := false, fp6 := [], fp4 := [], fmtTop := 0, live := false,
    clockMhz := 1600, booted := false, sent := [], completions := [],
    outstanding := [], asks := [], uid := 1, free := 0 }

end Sys2Proof.Machine
end

