-- ==== Sys2Proof/Machine/Tables.lean ====
section
/-! DEFINITION. Sparse tables, bit fields and byte strings: the plain helpers that every operation is written in. -/

namespace Sys2Proof.Machine

/-- The entry of key n, if the table lists one. -/
def tfind {α : Type} : Table α → Nat → Option α
  | [], _ => none
  | (k, x) :: r, n => if k = n then some x else tfind r n

/-- The value of key n in a table whose unlisted keys read d. -/
def tget {α : Type} (d : α) (m : Table α) (n : Nat) : α := (tfind m n).getD d

/-- The table with key n listed as x, keys kept rising. -/
def tput {α : Type} : Table α → Nat → α → Table α
  | [], n, x => [(n, x)]
  | (k, y) :: r, n, x => if n < k then (n, x) :: (k, y) :: r else if n = k then (n, x) :: r else (k, y) :: tput r n x

/-- The table without key n. -/
def terase {α : Type} (m : Table α) (n : Nat) : Table α := m.filter (fun e => e.1 != n)

/-- Key n set to x in a table with default d: the default is never listed. -/
def tset {α : Type} [DecidableEq α] (d : α) (m : Table α) (n : Nat) (x : α) : Table α :=
  if x = d then terase m n else tput m n x

/-- Keys rise strictly. -/
def tsorted {α : Type} : Table α → Bool
  | [] => true
  | [_] => true
  | (k, _) :: (j, y) :: r => decide (k < j) && tsorted ((j, y) :: r)

/-- Canonical form of a table with default d: keys rise and no entry is the default. -/
def twf {α : Type} [DecidableEq α] (d : α) (m : Table α) : Bool := tsorted m && m.all (fun e => !decide (e.2 = d))

/-- A rising list of numbers with n added. -/
def ladd : List Nat → Nat → List Nat
  | [], n => [n]
  | k :: r, n => if n < k then n :: k :: r else if n = k then k :: r else k :: ladd r n

/-- A list of numbers without n. -/
def ldel (l : List Nat) (n : Nat) : List Nat := l.filter (fun k => k != n)

/-- Bits [lo + n − 1 : lo] of a number (R5). -/
def bits (x lo n : Nat) : Nat := (x >>> lo) % 2 ^ n

/-- Bit i of a number. -/
def bit (x i : Nat) : Bool := x.testBit i

/-- A field placed at bit lo. -/
def field (x lo n : Nat) : Nat := (x % 2 ^ n) <<< lo

/-- 1 for true. -/
def b2n (b : Bool) : Nat := if b then 1 else 0

/-- The n-bit pattern x read as two's complement. -/
def sext (x n : Nat) : Int := if 2 ^ (n - 1) ≤ x % 2 ^ n then (x % 2 ^ n : Int) - 2 ^ n else (x % 2 ^ n : Int)

/-- An integer reduced to n bits. -/
def toBits (x : Int) (n : Nat) : Nat := (x % (2 ^ n : Int)).toNat

/-- The low n bytes of a number, least significant first (R5). -/
def toBytes : Nat → Nat → List Byte
  | _, 0 => []
  | x, n + 1 => BitVec.ofNat 8 x :: toBytes (x / 256) n

/-- The little-endian value of a byte string (R5). -/
def ofBytes : List Byte → Nat
  | [] => 0
  | b :: r => b.toNat + 256 * ofBytes r

/-- Byte i of a byte string; bytes past its end read 0. -/
def byteAt (l : List Byte) (i : Nat) : Byte := l.getD i 0

/-- The little-endian value of n bytes of a string from offset o. -/
def leAt (l : List Byte) (o n : Nat) : Nat := ofBytes ((l.drop o).take n)

/-- Elements of a list rewritten at one index. -/
def lset {α : Type} : List α → Nat → α → List α
  | [], _, _ => []
  | _ :: r, 0, x => x :: r
  | y :: r, n + 1, x => y :: lset r n x

/-- The lanes set in a mask, ascending (R15). -/
def lanes (m : Mask) : List Nat := (List.range 64).filter (fun l => m.getLsbD l)

/-- The lowest lane of a mask, 0 for an empty one. -/
def lowLane (m : Mask) : Nat := (lanes m).headD 0

/-- A mask of the listed lanes. -/
def maskOf (l : List Nat) : Mask := l.foldl (fun m i => m ||| BitVec.ofNat 64 (2 ^ i)) 0

/-- The mask of lanes 0 to w − 1. -/
def fullMask (w : Nat) : Mask := BitVec.ofNat 64 (2 ^ w - 1)

/-- Count of ones. -/
def popcount (x n : Nat) : Nat := ((List.range n).filter (fun i => x.testBit i)).length

/-- Quotient rounded up. -/
def ceilDiv (a b : Nat) : Nat := (a + b - 1) / b

/-- A stable insertion into a list ordered by a strict comparison: x goes before the first element it is less than. -/
def insertBy {α : Type} (lt : α → α → Bool) (x : α) : List α → List α
  | [] => [x]
  | y :: r => if lt x y then x :: y :: r else y :: insertBy lt x r

/-- A stable sort by a strict comparison. -/
def sortBy {α : Type} (lt : α → α → Bool) (l : List α) : List α := l.foldl (fun acc x => insertBy lt x acc) []

/-- A bit of a bit set changed. -/
def bvPut {n : Nat} (b : BitVec n) (i : Nat) (x : Bool) : BitVec n :=
  if x then b ||| BitVec.ofNat n (2 ^ i) else b &&& ~~~(BitVec.ofNat n (2 ^ i))

/-- Bytes of one access overlap those of another. -/
def overlaps (a n b m : Nat) : Bool := decide (a < b + m) && decide (b < a + n)

end Sys2Proof.Machine
end

