-- ==== Sys2Proof/Machine/Mem.lean ====
section
/-! DEFINITION. Physical memory: home values, the writes on their way to each die (R104 to R107), poison (R102), the
host's view (R122, R123), error logs and injection (R444, R445). -/

namespace Sys2Proof.Machine

/-- Memory keeps its canonical form: addresses rise and no listed byte is 0. -/
abbrev Memory.wf (m : List Host.Cell) : Bool := twf (0 : Byte) m

/-- The home value of a byte. -/
def memByte (m : List Host.Cell) (a : Nat) : Byte := tget 0 m a

/-- A byte of memory written. -/
def memSet (m : List Host.Cell) (a : Nat) (b : Byte) : List Host.Cell := tset 0 m a b

/-- Bytes of memory written in order. -/
def memSetAll (m : List Host.Cell) (l : List Host.Cell) : List Host.Cell := l.foldl (fun m c => memSet m c.1 c.2) m

/-- Cells of a byte string placed at an address. -/
def cellsAt (a : Nat) : List Byte → List Host.Cell
  | [] => []
  | b :: r => (a, b) :: cellsAt (a + 1) r

/-- The die named, or die 0 as at reset where the list has none. -/
def State.die (s : State) (d : Nat) : Die := s.dies.getD d (Die.reset d)

/-- One die changed. -/
def State.setDie (s : State) (d : Nat) (f : Die → Die) : State := { s with dies := lset s.dies d (f (s.die d)) }

/-- The context slot named. -/
def State.ctx (s : State) (c : Nat) : Ctx := tget Ctx.reset s.ctxs c

/-- One context slot changed on all dies (R416). -/
def State.setCtx (s : State) (c : Nat) (f : Ctx → Ctx) : State := { s with ctxs := tset Ctx.reset s.ctxs c (f (s.ctx c)) }

/-- The expander port named. -/
def State.port (s : State) (e : Nat) : Port := tget Port.reset s.ports e

/-- One port changed. -/
def State.setPort (s : State) (e : Nat) (f : Port → Port) : State :=
  { s with ports := tset Port.reset s.ports e (f (s.port e)) }

/-- The next free value (R9), and the state with one more drawn. -/
def State.draw (s : State) : DWord × State := (Config.freeValue s.free, { s with free := s.free + 1 })

/-- Free bytes in number n. -/
def State.freeBytes (s : State) : Nat → State × List Byte
  | 0 => (s, [])
  | n + 1 =>
    let d := s.draw
    let x := State.freeBytes d.2 n
    (x.1, d.1.truncate 8 :: x.2)

/-- A message to the host (R447). -/
def State.send (s : State) (m : Msg) : State := { s with sent := s.sent ++ [m] }

/-- A NOTE (R449) of a kind about a die; OHL port 0 carries it. -/
def State.note (s : State) (kind die : Nat) (data : List Byte) : State :=
  s.send { port := 0, type := 0x20, abort := false, tag := 0, arg := kind + 256 * die, data := data }

/-- A machine check on a die (R436): the MCHK bit, the slot, and NOTE kind 2. -/
def State.machineCheck (s : State) (d bitNo ctx : Nat) : State :=
  let s := s.setDie d (fun x => { x with mchk := bvPut x.mchk bitNo true, mctx := ctx })
  s.note 2 d (toBytes ((s.die d).mchk.toNat + (s.die d).mctx * 65536) 8)

/-- The expander whose in-service range holds the address. -/
def State.expanderOf (s : State) (pa : Nat) : Option Nat :=
  (List.range 8).find? (fun e =>
    let p := s.port e
    p.inserv && decide (p.base ≤ pa) && decide (pa < p.base + p.size * 1000000000))

/-- The region of the address map that holds the address. -/
def State.regionOf (s : State) (pa : Nat) : Option Region :=
  s.regions.find? (fun r => decide (r.base ≤ pa) && decide (pa < r.base + r.size))

/-- Memory is installed and in service at the address (R124, R471). -/
def State.installed (s : State) (pa : Nat) : Bool := (s.regionOf pa).isSome || (s.expanderOf pa).isSome

/-- The home die of a physical address (R18). -/
def State.homeDie (s : State) (pa : Nat) : Nat :=
  match s.regionOf pa with
  | some r => match r.kind with
    | .hbm d => d
    | .bootL2 => 2
    | .host p => 2 + p
  | none => match s.expanderOf pa with
    | some e => 2 + e / 4
    | none => 2

/-- The address lies in host memory. -/
def State.isHost (s : State) (pa : Nat) : Bool :=
  match s.regionOf pa with
  | some r => match r.kind with | .host _ => true | _ => false
  | none => false

/-- The newest byte that a die's own posted stores give an address (R108). -/
def postedByte : List Write → Nat → Nat → Option Byte
  | [], _, _ => none
  | w :: r, d, a =>
    match postedByte r d a with
    | some b => some b
    | none => if w.die = d then tfind w.bytes a else none

/-- The byte that die d sees, going back from the home value over the performed writes it has not applied (R107). -/
def logByte : List Write → Nat → Nat → Byte → Byte
  | [], _, _, cur => cur
  | w :: r, d, a, cur =>
    match tfind w.bytes a with
    | none => logByte r d a cur
    | some _ => if w.applied.contains d then cur else logByte r d a (tget 0 w.old a)

/-- A performed write that every die has applied. -/
def Write.everywhere (w : Write) : Bool := (List.range 4).all (fun d => w.applied.contains d)

/-- The byte of the write to an address that comes last in a die's own order. -/
def lastSeen (log : List Write) (a : Nat) : List Nat → Option Byte
  | [] => none
  | n :: r =>
    match log.find? (fun w => w.id == n && (tfind w.bytes a).isSome) with
    | some w => tfind w.bytes a
    | none => lastSeen log a r

/-- A byte of physical memory as die d sees it (R107): its own newest posted store, else the newest write in the die's own order since its
last acquire, else home order (assumption 123). -/
def State.viewByte (s : State) (d a : Nat) : Byte :=
  match postedByte s.posted d a with
  | some b => b
  | none => match lastSeen s.wlog a (s.die d).seen with
    | some b => b
    | none => logByte s.wlog d a (memByte s.mem a)

/-- Bytes as die d sees them. -/
def State.view (s : State) (d a n : Nat) : List Byte := (List.range n).map (fun i => s.viewByte d (a + i))

/-- Bytes at their home (R109). -/
def State.home (s : State) (a n : Nat) : List Byte := (List.range n).map (fun i => memByte s.mem (a + i))

/-- A 64-bit word of memory is poisoned (R101). -/
def State.poisoned (s : State) (pa n : Nat) : Bool :=
  s.memP.any (fun w => decide (w * 8 < pa + n) && decide (pa < w * 8 + 8))

/-- Poison of the 64-bit words after a store of n bytes at pa (R102): a whole word written clears it, a poisoned element
sets it, and a narrow store leaves it. -/
def poisonStore (l : List Nat) (pa n : Nat) (p : Bool) : List Nat :=
  (List.range (n / 8 + 2)).foldl (fun l i =>
    let w := pa / 8 + i
    if decide (w * 8 < pa + n) && decide (pa < w * 8 + 8) then
      (if p then ladd l w else if decide (pa ≤ w * 8) && decide (w * 8 + 8 ≤ pa + n) then ldel l w else l)
    else l) l

/-- The error is in an array of a core, so that its address is an index of that core's (R444). -/
def coreArray (array : Nat) : Bool := decide (array ≤ 7) || array == 12

/-- The entry of a die's error log that holds an array and address, in an array of a core its core too, among those not retired, the
latest first (R444). -/
def Die.logged (x : Die) (array pcore addr : Nat) : Option Nat :=
  ((List.range x.elcount).map (fun i => (x.elnext + 255 - i) % 256)).find? (fun n =>
    let e := tget [] x.elog n
    decide (bits (e.getD 0 0).toNat 0 8 = array) && decide ((e.getD 1 0).toNat = addr)
      && (!coreArray array || decide (bits (e.getD 0 0).toNat 24 12 = pcore % 4096)))

/-- An error-log entry added on a die (R444): an error that an entry already holds raises its REPEAT; a new one is dropped and counted
in LOST while COUNT is 255. -/
def State.logError (s : State) (d array : Nat) (uncorr injected pmode2 : Bool) (pcore addr syn asid ctx : Nat) : State :=
  s.setDie d (fun x =>
    match x.logged array pcore addr with
    | some n =>
      let e := tget [] x.elog n
      let w0 := (e.getD 0 0).toNat
      let rep := bits w0 16 8
      { x with elog := tput x.elog n (BitVec.ofNat 64 (w0 - rep * 65536 + (min 255 (rep + 1)) * 65536) :: e.drop 1) }
    | none =>
      if x.elcount = 255 then { x with ellost := (x.ellost + 1) % 2 ^ 32 }
      else
        let w0 := array + field (b2n uncorr) 8 1 + field (b2n injected) 9 1 + field (b2n pmode2) 10 1 + field pcore 24 12
        let e : List DWord := [BitVec.ofNat 64 w0, BitVec.ofNat 64 addr,
          BitVec.ofNat 64 (syn % 65536 + field asid 16 16 + field ctx 32 12), BitVec.ofNat 64 x.time]
        { x with elog := tput x.elog x.elnext e, elnext := (x.elnext + 1) % 256, elcount := x.elcount + 1 })

/-- The array of the error log that holds a memory word (R444): the L2 while it holds the word's line dirty or serves it itself (R474),
else the HBM stack or the expander behind it. -/
def State.arrayOf (s : State) (pa : Nat) : Nat :=
  if (tfind s.dirty pa).isSome then 0x08
  else match s.regionOf pa with
    | some r => match r.kind with
      | .hbm _ => 0x09
      | _ => 0x08
    | none => if (s.expanderOf pa).isSome then 0x0A else 0x08

/-- CE and UE of the port whose expander holds the word (R470), for an error of the expanders' array (R444). -/
def State.countError (s : State) (array : Nat) (uncorr : Bool) (addr : Nat) : State :=
  { s with ports := match s.expanderOf addr with
    | some e =>
      if array == 0x0A then
        tset Port.reset s.ports e (
          if uncorr then { s.port e with ue := ((s.port e).ue + 1) % 2 ^ 32 } else { s.port e with ce := ((s.port e).ce + 1) % 2 ^ 32 })
      else s.ports
    | none => s.ports }

/-- An error found in an array: logged (R444) and, an expander's, counted at its port (R470; assumption 140). -/
def State.foundError (s : State) (d array : Nat) (uncorr injected : Bool) (pcore addr asid ctx : Nat) : State :=
  (s.logError d array uncorr injected false pcore addr 0 asid ctx).countError array uncorr addr

/-- The armed injector of die d aims at this array and word: READ as given (R445). -/
def State.injects (s : State) (d array word : Nat) (read : Bool) : Bool :=
  let x := s.die d
  bit x.injctl.toNat 0 && (bit x.injctl.toNat 1 == read) && decide (bits x.injtgt.toNat 0 8 = array)
    && decide (x.injaddr.toNat = word)

/-- The HBM channel of key 32 × stack + channel. -/
def State.chan (s : State) (k : Nat) : Chan := tget Chan.reset s.chans k

/-- A stack and a channel that exist (R16). -/
def isChan (stack ch : Nat) : Bool := decide (stack < 8) && decide (ch < 32)

/-- The key of a channel. -/
def chanKey (stack ch : Nat) : Nat := 32 * stack + ch

/-- The stack of a byte of an HBM4E frame: 256-byte chunks rotate over the four stacks of its die (R28). Which stack holds the first chunk
is the model's choice (assumption 136). -/
def State.stackOf (s : State) (pa : Nat) : Option Nat :=
  match s.regionOf pa with
  | some r => match r.kind with
    | .hbm d => some (4 * d + pa / 256 % 4)
    | _ => none
  | none => none

/-- The channel of a byte of an HBM4E frame (R28). -/
def State.chanOf (s : State) (pa : Nat) : Option Nat := (s.stackOf pa).map (fun t => chanKey t (Config.hbmChannel (pa / 256) % 32))

/-- The channels of a range of bytes that are in self-refresh leave it with the first access (R477). -/
def State.wakeChans (s : State) (pa n : Nat) : State :=
  if s.chans.any (fun c => c.2.refresh) then
    (List.range (n / 256 + 2)).foldl (fun (s : State) i => match s.chanOf (min (pa + 256 * i) (pa + (n - 1))) with
      | some k => { s with chans := tset Chan.reset s.chans k { s.chan k with refresh := false } }
      | none => s) s
  else s

/-- The injection takes place on a memory word: one flipped bit is corrected and logged, more poison the word (R445). -/
def State.inject (s : State) (d array pa : Nat) : State :=
  let x := s.die d
  let n := popcount x.injmask.toNat 64
  let s := s.setDie d (fun x => { x with injctl := bvPut x.injctl 0 false })
  let pcore := bits x.injtgt.toNat 8 11
  if n = 0 then s
  else if n = 1 then s.foundError d array false true pcore pa 0 0
  else
    let s := s.foundError d array true true pcore pa 0 0
    { s with memP := ladd s.memP (pa / 8) }

/-- What an access to memory bytes of one of these arrays, which are addressed by physical word, meets: injection (R444, R445), and
self-refresh, which ends (R477). -/
def State.injectOn (s : State) (arrays : List Nat) (pa n : Nat) (read : Bool) : State :=
  (List.range 4).foldl (fun s d =>
    let x := s.die d
    let w := x.injaddr.toNat
    if arrays.any (fun k => s.injects d k w read) && decide (w / 8 * 8 < pa + n) && decide (pa < w / 8 * 8 + 8)
    then s.inject d (bits x.injtgt.toNat 0 8) (w / 8 * 8) else s) (s.wakeChans pa n)

/-- Injection on the module's own access to memory bytes: arrays 0x08 to 0x0A. -/
def State.injectMem (s : State) (pa n : Nat) (read : Bool) : State := s.injectOn [8, 9, 10] pa n read

/-- Applied-write counts of a die. -/
def clockOf (c : List Nat) (e : Nat) : Nat := c.getD e 0

/-- Die h may apply the write (R105): every earlier write of the originator, and the writes its stamp records. -/
def State.mayApply (s : State) (w : Write) (h : Nat) : Bool :=
  let c := (s.die h).clock
  decide (clockOf c w.die + 1 = clockOf w.stamp w.die)
    && (List.range 4).all (fun e => e == w.die || decide (clockOf w.stamp e ≤ clockOf c e))

/-- Die h counts the write as applied. -/
def State.countApplied (s : State) (w : Write) (h : Nat) : State :=
  s.setDie h (fun x => { x with clock := lset x.clock w.die (clockOf w.stamp w.die) })

/-- The write of this number is the newest in the order of die h (R107). -/
def State.seeWrite (s : State) (n h : Nat) : State := s.setDie h (fun x => { x with seen := n :: x.seen })

/-- The write is applied everywhere, and where a die's own order has a last write of one of its bytes, home order's last value is the
same. -/
def State.settled (s : State) (w : Write) : Bool :=
  w.everywhere && (List.range 4).all (fun d => w.bytes.all (fun c =>
    match lastSeen s.wlog c.1 (s.die d).seen with
    | some b => b == memByte s.mem c.1
    | none => true))

/-- The log is emptied once every write in it is applied on all four dies and their orders agree with home order. -/
def State.pruneLog (s : State) : State := if s.wlog.all s.settled then { s with wlog := [] } else s

/-- Home dies of a write's bytes. -/
def State.homesOf (s : State) (b : List Host.Cell) : List Nat :=
  (List.range 4).filter (fun d => b.any (fun c => s.homeDie c.1 == d))

/-- A byte of home memory whose write stays in a die's L2 (R123): the value that memory itself still holds is kept, with every die
that has written the byte since. -/
def markDirty (m : Table (Nat × Byte)) (die : Nat) (old : List Host.Cell) : Table (Nat × Byte) :=
  old.foldl (fun m c => match tfind m c.1 with
    | some (k, b) => tput m c.1 (k ||| 2 ^ die, b)
    | none => tput m c.1 (2 ^ die, c.2)) m

/-- Bytes of an L2 line (R26). -/
abbrev lineBytes : Nat := 128

/-- The line of an address is touched by n bytes from lo. -/
def lineIn (a lo n : Nat) : Bool :=
  decide (n ≠ 0) && decide (lo / lineBytes ≤ a / lineBytes) && decide (a / lineBytes ≤ (lo + n - 1) / lineBytes)

/-- Cells in rising order as runs of consecutive bytes of one line. -/
def runsOf : List Host.Cell → List (Nat × List Byte)
  | [] => []
  | c :: r =>
    match runsOf r with
    | (a, l) :: t => if a = c.1 + 1 ∧ a % lineBytes ≠ 0 then (c.1, c.2 :: l) :: t else (c.1, [c.2]) :: (a, l) :: t
    | [] => [(c.1, [c.2])]

/-- The OHL port behind which the address lies, for host memory. -/
def State.hostPort (s : State) (pa : Nat) : Option Nat :=
  match s.regionOf pa with
  | some r => match r.kind with | .host p => some p | _ => none
  | none => none

/-- The MWRs that carry dirty bytes of host memory to the host (R123, R447). -/
def State.mwrs (s : State) (l : List Nat) : List Msg :=
  (runsOf ((l.filter s.isHost).map (fun a => (a, memByte s.mem a)))).filterMap (fun r =>
    (s.hostPort r.1).map (fun p => { port := p, type := 2, abort := false, tag := 0, arg := r.1, data := r.2 }))

/-- Dirty bytes are written back, those of host memory to the host (R123). -/
def State.clean (s : State) (p : Nat × Nat × Byte → Bool) : State :=
  { s with
    sent := s.sent ++ s.mwrs ((s.dirty.filter p).map (fun e => e.1))
    dirty := s.dirty.filter (fun e => !p e) }

/-- The dirty 128-byte lines of a range that the L2 of die d holds are written back (R319, R123); d ≥ 4 means every die. -/
def State.writeBack (s : State) (d lo n : Nat) : State :=
  s.clean (fun e => (decide (4 ≤ d) || bit e.2.1 d) && lineIn e.1 lo n)

/-- Lines that an L2 holds (R26): 64 MiB. -/
abbrev l2Lines : Nat := 524288

/-- The lines that the L2 of die d holds dirty. -/
def State.dirtyLines (s : State) (d : Nat) : List Nat :=
  ((s.dirty.filter (fun e => bit e.2.1 d)).map (fun e => e.1 / lineBytes)).eraseDups

/-- An L2 that holds more dirty lines than it has writes some back (R26); which, the manual does not say (assumption 148). The fuel is how many
at most. -/
def State.l2Trim (s : State) (d : Nat) : Nat → State
  | 0 => s
  | n + 1 =>
    let l := s.dirtyLines d
    if l.length ≤ l2Lines then s
    else
      let r := s.draw
      State.l2Trim (r.2.writeBack d (lineBytes * l.getD (r.1.toNat % l.length) 0) lineBytes) d n

/-- The same, where there may be more than it holds. -/
def State.l2Fit (s : State) (d n : Nat) : State := if s.dirty.length ≤ l2Lines then s else s.l2Trim d n

/-- A write enters home order: home values change, the originator and the home dies apply it (R104, R105). Bytes at which no
memory is installed are discarded (R124). -/
def State.perform (s : State) (w : Write) : State :=
  let w := { w with bytes := w.bytes.filter (fun c => s.installed c.1), spans := w.spans.filter (fun p => s.installed p.1) }
  let homes := s.homesOf w.bytes
  let old := w.bytes.map (fun c => (c.1, memByte s.mem c.1))
  let s := homes.foldl (fun s h => if h = w.die then s else s.countApplied w h) s
  let ap := if homes.contains w.die then homes else w.die :: homes
  let s := ap.foldl (fun s h => s.seeWrite w.id h) s
  let w' := { w with old := old, performed := true, applied := ap }
  let s := { s with memP := w.spans.foldl (fun (l : List Nat) (p : Nat × Nat × Bool) => poisonStore l p.1 p.2.1 p.2.2) s.memP }
  let s := w.spans.foldl (fun (s : State) (p : Nat × Nat × Bool) => s.injectMem p.1 p.2.1 false) s
  (State.pruneLog { s with mem := memSetAll s.mem w.bytes, dirty := markDirty s.dirty w.die old, wlog := w' :: s.wlog }).l2Fit w.die w.bytes.length

/-- A write originated by die d: stamped (R105), posted, and seen at once on d (R26). Its number is returned. A span is
the address and size of one element stored, and whether it was poisoned (R102). -/
def State.post (s : State) (d : Nat) (bytes : List Host.Cell) (spans : List (Nat × Nat × Bool)) : State × Nat :=
  let c := (s.die d).clock
  let stamp := lset c d (clockOf c d + 1)
  let cells := bytes.foldl (fun m b => tput m b.1 b.2) ([] : List Host.Cell)
  let w : Write := ⟨s.uid, d, cells, [], spans, stamp, false, [d]⟩
  let s := s.setDie d (fun x => { x with clock := stamp })
  ({ s with posted := s.posted ++ [w], uid := s.uid + 1 }, w.id)

/-- The performed write of this number is applied on die d if R105 allows it. -/
def State.applyWrite (s : State) (d n : Nat) : State :=
  match s.wlog.find? (fun w => w.id == n) with
  | none => s
  | some w =>
    if w.applied.contains d || !s.mayApply w d then s
    else
      let s := (s.countApplied w d).seeWrite n d
      State.pruneLog { s with wlog := s.wlog.map (fun x => if x.id = n then { x with applied := d :: x.applied } else x) }

/-- Die d applies every performed write, oldest first. -/
def State.applyOld (s : State) (d : Nat) : State :=
  (s.wlog.reverse.map (fun w => w.id)).foldl (fun s n => s.applyWrite d n) s

/-- Die d applies every performed write, and its order agrees with home order for all of them: what an acquire of scope 5 or 6
guarantees (R112). -/
def State.applyAll (s : State) (d : Nat) : State := ((s.applyOld d).setDie d (fun x => { x with seen := [] })).pruneLog

/-- The posted writes of die d up to the one of number n are performed in the order they were made, each home die first
applying what it must (R105). -/
def State.flushTo (s : State) (d n : Nat) : State :=
  (s.posted.filter (fun w => w.die == d && decide (w.id ≤ n))).foldl (fun s w =>
    let s := (s.homesOf w.bytes).foldl (fun s h => s.applyOld h) s
    State.perform { s with posted := s.posted.filter (fun x => x.id != w.id) } w) s

/-- A write made and performed at once by die d, as atomics and engines at the home do (R109, R121): the die's earlier
writes are performed first (R105). -/
def State.writeNow (s : State) (d : Nat) (bytes : List Host.Cell) (spans : List (Nat × Nat × Bool)) : State :=
  let p := s.post d bytes spans
  p.1.flushTo d p.2

/-- A byte string written and performed at once at an address. -/
def State.writeAt (s : State) (d a : Nat) (l : List Byte) : State := s.writeNow d (cellsAt a l) [(a, l.length, false)]

/-- Every write that die d has originated is performed and applied on every die (R112). -/
def State.drained (s : State) (d : Nat) : Bool :=
  !(s.posted.any (fun w => w.die == d)) && !(s.wlog.any (fun w => w.die == d && !w.everywhere))

/-- The write-back of a system-scope release by die d (R123): every dirty line that holds a write it orders, which is one of d's own or
one that d has applied. -/
def State.writeBackSeen (s : State) (d : Nat) : State :=
  s.clean (fun e => bit e.2.1 d || !s.wlog.any (fun w => (tfind w.bytes e.1).isSome && !w.applied.contains d))

/-- A system-scope release made for an agent of a die that has nothing of its own to wait for (R112, R114, R123): the die's writes are
performed, every performed write is applied on every die, and every dirty line is written back. -/
def State.releaseAll (s : State) (d : Nat) : State :=
  ((List.range 4).foldl (fun s h => s.applyAll h) (s.flushTo d s.uid)).writeBack 4 0 (2 ^ 52)

/-- A byte as home memory itself holds it, which is what host and peers read (R122). -/
def State.hostByte (s : State) (a : Nat) : Byte :=
  match tfind s.dirty a with
  | some (_, b) => b
  | none => memByte s.mem a

/-- An inbound write (R122): applied at the home, every copy dropped. -/
def State.hostWrite (s : State) (bytes : List Host.Cell) : State :=
  let drop := fun (w : Write) => { w with bytes := w.bytes.filter (fun c => !(bytes.any (fun b => b.1 == c.1))) }
  { s with mem := memSetAll s.mem bytes, dirty := s.dirty.filter (fun e => !(bytes.any (fun b => b.1 == e.1))),
           wlog := s.wlog.map drop,
           memP := bytes.foldl (fun l c => poisonStore l c.1 1 false) s.memP }

end Sys2Proof.Machine
end

