-- ==== Sys2Proof/Machine/Batches.lean ====
section
/-! DEFINITION. Buffer bytes and the operations of matrix batches as plain data (R23, R80 to R84, R102, R340, R341, R346): what later events
leave undefined of operations that have been performed and that no MWAIT has named (R84, R119, R142, R399). -/

namespace Sys2Proof.Machine

/-- Buffer codes: 0 A, 1 W, 2 C. -/
def Group.buf (g : Group) : Nat → Table Byte
  | 0 => g.abuf | 1 => g.wbuf | _ => g.cbuf

/-- A buffer's bytes replaced. -/
def Group.setBuf (g : Group) (u : Nat) (t : Table Byte) : Group :=
  match u with
  | 0 => { g with abuf := t } | 1 => { g with wbuf := t } | _ => { g with cbuf := t }

/-- Bytes of a buffer from an offset; a byte not written reads 0 (R83). -/
def Group.bytes (g : Group) (u o n : Nat) : List Byte := (List.range n).map (fun i => tget 0 (g.buf u) (o + i))

/-- The key of a buffer's 32-bit word among poisoned words. -/
def bufWord (u o : Nat) : Nat := u * 2 ^ 20 + o / 4

/-- A poisoned 32-bit word lies among these bytes (R101). -/
def Group.poisonIn (g : Group) (u o n : Nat) : Bool :=
  g.bufP.any (fun w => decide (w / 2 ^ 20 = u) && overlaps (w % 2 ^ 20 * 4) 4 o n)

/-- The offset of the first poisoned word among these bytes. -/
def Group.firstPoison (g : Group) (u o n : Nat) : Option Nat :=
  ((List.range (n / 4 + 1)).map (fun i => o / 4 * 4 + 4 * i)).find? (fun a => decide (a < o + n) && g.bufP.contains (bufWord u a))

/-- Bytes written into a buffer: a whole word takes the poison of its data, a part of a poisoned word stays poisoned (R102). -/
def Group.put (g : Group) (u o : Nat) (l : List Byte) (p : Bool) : Group :=
  let t := (cellsAt o l).foldl (fun m b => tset 0 m b.1 b.2) (g.buf u)
  let words := (List.range (l.length / 4 + 2)).map (fun i => o / 4 * 4 + 4 * i)
  let pw := words.foldl (fun q a =>
    if a + 4 ≤ o ∨ o + l.length ≤ a then q
    else if p then ladd q (bufWord u a)
    else if o ≤ a ∧ a + 4 ≤ o + l.length then ldel q (bufWord u a) else q) g.bufP
  { (g.setBuf u t) with bufP := pw }

/-! ### Matrix operations -/

/-- Fields of a matrix record (R340). -/
structure MatRec where
  afmt : Nat
  bfmt : Nat
  asrc : Bool
  bsrc : Bool
  sparse : Bool
  aoff : Nat
  asoff : Nat
  boff : Nat
  bsoff : Nat
  spoff : Nat
  coff : Nat
deriving DecidableEq, Repr

/-- The fields of a matrix record's 64 bytes. -/
def MatRec.read (l : List Byte) : MatRec :=
  let w := leAt l 0 4
  { afmt := bits w 4 4, bfmt := bits w 8 4, asrc := bit w 12, bsrc := bit w 13, sparse := bit w 14,
    aoff := leAt l 4 4, asoff := leAt l 8 4, boff := leAt l 12 4, bsoff := leAt l 16 4, spoff := leAt l 20 4,
    coff := leAt l 24 4 }

/-- Buffer that holds B. -/
def MatRec.bbuf (m : MatRec) : Nat := if m.bsrc then 0 else 1
/-- Bytes of a B tile. -/
def MatRec.bsize (m : MatRec) : Nat := if m.bfmt = 7 then 2048 else 4096
/-- Bytes of a column of B. -/
def MatRec.bcol (m : MatRec) : Nat := if m.bfmt = 7 then 32 else 64
/-- Groups of 32 elements in a step. -/
def MatRec.groups (m : MatRec) : Nat := if m.afmt = 1 then 1 else if m.afmt = 5 then 4 else 2

/-- The offsets of step j (R346). -/
def MatRec.step (m : MatRec) (j : Nat) : MatRec :=
  { m with aoff := m.aoff + 4096 * j, asoff := m.asoff + 256 * j, boff := m.boff + m.bsize * j, bsoff := m.bsoff + 256 * j,
           spoff := m.spoff + 32 * j }

/-- The C tile at an offset: 4,096 words with their poison. -/
def Group.tile (g : Group) (coff : Nat) : List (Nat × Bool) :=
  let here := g.bufP.filter (fun w => decide (w / 2 ^ 20 = 2))
  (List.range 4096).map (fun i => (leAt (g.bytes 2 (coff + 4 * i) 4) 0 4, here.contains (bufWord 2 (coff + 4 * i))))

/-- Bytes of a C tile written, with their poison: the table stays in order without a search for each byte. -/
def Group.putTile (g : Group) (coff : Nat) (t : List (Nat × Bool)) : Group :=
  let cells := (List.range 4096).zip t |>.flatMap (fun x => cellsAt (coff + 4 * x.1) (toBytes x.2.1 4))
  let lo := g.cbuf.takeWhile (fun e => decide (e.1 < coff))
  let hi := g.cbuf.dropWhile (fun e => decide (e.1 < coff + 16384))
  let out := g.bufP.filter (fun w => !(decide (w / 2 ^ 20 = 2) && decide (coff / 4 ≤ w % 2 ^ 20) && decide (w % 2 ^ 20 < coff / 4 + 4096)))
  let bad := ((List.range 4096).zip t).filterMap (fun x => if x.2.2 then some (bufWord 2 (coff + 4 * x.1)) else none)
  { g with cbuf := lo ++ cells.filter (fun e => e.2 != 0) ++ hi, bufP := bad.foldl ladd out }

/-- Row r of the operation is padded (R345). -/
def MatOp.padded (o : MatOp) (r : Nat) : Bool :=
  match o.arows with
  | some l => (l.getD r none).isNone
  | none => false

/-- The result of element i of the operation's C tile is undefined, and the flags on its account are open (R84, R119, R142). -/
def MatOp.opensAt (o : MatOp) (coff i : Nat) : Bool :=
  o.undefRows.getLsbD (i / 64) || o.undefCols.getLsbD (i % 64) || o.undefWords.contains (coff / 4 + i)

/-- The result of element i is undefined: R399 leaves it so, without flags (R9), or another rule does. -/
def MatOp.undefAt (o : MatOp) (coff i : Nat) : Bool := o.loose.getLsbD (i / 64) || o.opensAt coff i

/-- Some result of the operation is undefined with open flags; none is undefined. -/
def MatOp.opens (o : MatOp) : Bool := o.undefRows != 0 || o.undefCols != 0 || !o.undefWords.isEmpty
def MatOp.clear (o : MatOp) : Bool := o.loose == 0 && !o.opens

/-- The words of an operation's C tile whose results are undefined, given free values of draw d (R84, R119). -/
def MatOp.scramble (o : MatOp) (d coff : Nat) (t : List (Nat × Bool)) : List (Nat × Bool) :=
  if o.clear then t
  else ((List.range 4096).zip t).map (fun x =>
    if !o.padded (x.1 / 64) && o.undefAt coff x.1 then ((Config.freeElem d x.1).toNat, x.2.2) else x.2)

/-- C rows of an operation made undefined by a write to a register that it binds, in these lanes (R119). -/
def MatOp.spoil (o : MatOp) (r : Nat) (m : Mask) : MatOp :=
  match o.aregs with
  | some (a, lanes) => if a ≤ r ∧ r < a + 16 then { o with undefRows := o.undefRows ||| (m &&& lanes) } else o
  | none => o

/-! ### Operations already performed -/

/-- What a later event makes of an operation that has been performed and that no MWAIT has named: the results that f marks are
undefined, and the flags gathered on account of those are dropped, to be open ones (R84, R119, R142), or none under R399. -/
def MatOp.again (o : MatOp) (f : MatOp → MatOp) (d : Nat) (g : Group) : MatOp × Group :=
  let x := f o
  let coff := (MatRec.read o.bytes).coff
  if x.clear then (o, g)
  else ({ o with flags := o.flags.zipIdx.map (fun e => if x.undefAt coff e.2 then 0 else e.1) }, g.putTile coff (x.scramble d coff (g.tile coff)))

/-- The same for the performed operations of a batch: the batch, the buffers, and the draws made. -/
def Batch.again (b : Batch) (f : MatOp → MatOp) (d : Nat) (g : Group) : Batch × Group × Nat :=
  let r := b.past.foldl (fun (a : List MatOp × Group × Nat) o =>
    let x := o.again f a.2.2 a.2.1
    (a.1 ++ [x.1], x.2, if (f o).clear then a.2.2 else a.2.2 + 2)) ([], g, d)
  let fl := if b.past.any (fun o => (f o).opens) then (Config.freeValue (d + 1)).truncate 5 else 0
  ({ b with past := r.1, flags := b.flags ||| fl }, r.2)

/-- The performed operations of a warp's batches that are picked, those of the open set among them: the warp, the buffers, the draws. -/
def Warp.again (x : Warp) (pick : Batch → Bool) (f : MatOp → MatOp) (d : Nat) (g : Group) : Warp × Group × Nat :=
  let r := x.batches.foldl (fun (a : List Batch × Group × Nat) b =>
    if pick b then let y := b.again f a.2.2 a.2.1; (a.1 ++ [y.1], y.2) else (a.1 ++ [b], a.2)) ([], g, d)
  let p : Option Batch × Group × Nat := match x.part with
    | some b => if pick b then let y := b.again f r.2.2 r.2.1; (some y.1, y.2) else (some b, r.2)
    | none => (none, r.2)
  ({ x with batches := r.1, part := p.1 }, p.2)

end Sys2Proof.Machine
end

