-- ==== Sys2Proof/Machine/Reach.lean ====
section
/-! DEFINITION. What may keep an access from its home for a time: a lost die link (R466) and a held HBM4E channel (R28, R485). -/

namespace Sys2Proof.Machine

/-- The link between two dies, at its sender. -/
def State.link (s : State) (d p : Nat) : Link := tget Link.reset (s.die d).links p

/-- A link direction changed. -/
def State.setLink (s : State) (d p : Nat) (f : Link → Link) : State :=
  s.setDie d (fun x => { x with links := tset Link.reset x.links p (f (tget Link.reset x.links p)) })

/-- Both directions of the link are up. -/
def State.linkUp (s : State) (d p : Nat) : Bool := (s.link d p).up && (s.link p d).up

/-- Traffic passes between two dies: they are one, or the link between them is up (R466; assumption 79). -/
def State.reaches (s : State) (d h : Nat) : Bool := d == h || s.linkUp d h

/-- Some of the bytes lie in a channel that an operation holds, so that an access to them waits (R485). -/
def State.chanHeld (s : State) (pa n : Nat) : Bool :=
  s.chans.any (fun c => c.2.work.isSome) && (List.range (n / 256 + 2)).any (fun i =>
    let a := if i = 0 then pa else (pa / 256 + i) * 256
    decide (a < pa + n) && (match s.chanOf a with | some k => (s.chan k).work.isSome | none => false))

/-- An access of die d to these bytes cannot be served now: the link to their home is lost (R466), or a channel of theirs is held (R485). -/
def State.unserved (s : State) (d pa n : Nat) : Bool := !s.reaches d (s.homeDie pa) || s.chanHeld pa n

end Sys2Proof.Machine
end

