-- ==== Sys2Proof/Machine/Ops.lean ====
section
/-! DEFINITION. The named operations over warps: registers, issuing, waiting, taking a trap and returning from one,
translation, and parking on a fault. -/

namespace Sys2Proof.Machine

/-- The outcome of a step of this machine. -/
abbrev Out := Host.Outcome State Fault Refusal

/-- Bytes of the virtual address space (R79). -/
abbrev vaMod : Nat := 2 ^ 57

/-- One resident warp changed. -/
def State.setWarp (s : State) (w : Nat) (f : Warp → Warp) : State :=
  match tfind s.warps w with
  | some x => { s with warps := tput s.warps w (f x) }
  | none => s

/-- One workgroup changed. -/
def State.setGroup (s : State) (g : Nat) (f : Group → Group) : State :=
  match tfind s.groups g with
  | some x => { s with groups := tput s.groups g (f x) }
  | none => s

/-- One grid changed. -/
def State.setGrid (s : State) (g : Nat) (f : Grid → Grid) : State :=
  match tfind s.grids g with
  | some x => { s with grids := tput s.grids g (f x) }
  | none => s

/-- One stream changed. -/
def State.setStream (s : State) (n : Nat) (f : Stream → Stream) : State :=
  match tfind s.streams n with
  | some x => { s with streams := tput s.streams n (f x) }
  | none => s

/-! ### Registers -/

/-- Register s r. -/
def Warp.sreg (w : Warp) (r : Nat) : Word := tget 0 w.s r
/-- The q pair whose low half is s r (R212). -/
def Warp.qreg (w : Warp) (r : Nat) : DWord := w.sreg (r + 1) ++ w.sreg r
/-- Element l of register v r. -/
def Warp.vreg (w : Warp) (r l : Nat) : Word := tget 0 w.v (64 * r + l)
/-- Element l of the d pair whose low half is v r. -/
def Warp.dreg (w : Warp) (r l : Nat) : DWord := w.vreg (r + 1) l ++ w.vreg r l
/-- Register k n as stored; k0 is not stored (R42, R247). -/
def Warp.kreg (w : Warp) (n : Nat) : Mask := tget 0 w.k n
/-- Translation register t n. -/
def Warp.treg (w : Warp) (n : Nat) : TReg := tget TReg.invalid w.t n
/-- The handle of an EMPTY register. -/
def Handle.none : Handle := ⟨.empty, []⟩
/-- Handle register h n. -/
def Warp.hreg (w : Warp) (n : Nat) : Handle := tget Handle.none w.h n

/-- Poison of s r, of an element of v r, and of k n (R102). -/
def Warp.sPois (w : Warp) (r : Nat) : Bool := w.sP.getLsbD r
def Warp.vPois (w : Warp) (r l : Nat) : Bool := w.vP.getLsbD (64 * r + l)
def Warp.kPois (w : Warp) (n : Nat) : Bool := w.kP.getLsbD n

/-- s r written; an unpoisoned result clears poison (R102). -/
def Warp.putS (w : Warp) (r : Nat) (x : Word) (p : Bool) : Warp :=
  { w with s := tset 0 w.s r x, sP := bvPut w.sP r p }
/-- A q pair written. -/
def Warp.putQ (w : Warp) (r : Nat) (x : DWord) (p : Bool) : Warp :=
  (w.putS r (x.truncate 32) p).putS (r + 1) ((x >>> 32).truncate 32) p
/-- One element of v r written. -/
def Warp.putV (w : Warp) (r l : Nat) (x : Word) (p : Bool) : Warp :=
  { w with v := tset 0 w.v (64 * r + l) x, vP := bvPut w.vP (64 * r + l) p }
/-- One element of a d pair written. -/
def Warp.putD (w : Warp) (r l : Nat) (x : DWord) (p : Bool) : Warp :=
  (w.putV r l (x.truncate 32) p).putV (r + 1) l ((x >>> 32).truncate 32) p
/-- k n written: bits W to 63 are stored as 0 (R248). -/
def Warp.putK (w : Warp) (width n : Nat) (x : Mask) : Warp :=
  { w with k := tset 0 w.k n (x &&& fullMask width), kP := bvPut w.kP n false }

/-- A register is empty (R93). k0 never is (R94). -/
def Warp.isEmpty (w : Warp) : RegRef → Bool
  | .v r => w.vE.getLsbD r
  | .s r => w.sE.getLsbD r
  | .k r => decide (r ≠ 0) && w.kE.getLsbD r
  | .t r => w.tE.getLsbD r
  | .h r => w.hE.getLsbD r

/-- A register marked empty or full (R93). -/
def Warp.mark (w : Warp) (e : Bool) : RegRef → Warp
  | .v r => { w with vE := bvPut w.vE r e }
  | .s r => { w with sE := bvPut w.sE r e }
  | .k r => { w with kE := bvPut w.kE r e }
  | .t r => { w with tE := bvPut w.tE r e }
  | .h r => { w with hE := bvPut w.hE r e }

/-- Registers marked empty or full. -/
def Warp.markAll (w : Warp) (e : Bool) (l : List RegRef) : Warp := l.foldl (fun w r => w.mark e r) w

/-- A register keeps an instruction from issuing (R94): it is empty, but not for the replay that has to fill it (R308). -/
def Warp.blocks (w : Warp) (r : RegRef) : Bool := w.isEmpty r && !w.owed.contains r

/-- One element written by a completed result. -/
def Warp.write (w : Warp) (width : Nat) : RegWrite → Warp
  | .v r l x p => w.putV r l x p
  | .s r x p => w.putS r x p
  | .k r x => w.putK width r x
  | .t r x => { w with t := tset TReg.invalid w.t r x }
  | .h r x => { w with h := tset Handle.none w.h r x }

/-- Elements written by a completed result. -/
def Warp.writeAll (w : Warp) (width : Nat) (l : List RegWrite) : Warp := l.foldl (fun w x => w.write width x) w

/-- An arrival counter (R90). -/
def Warp.count (w : Warp) : Path → Nat
  | .gld => w.gld | .gst => w.gst | .lrm => w.lrm | .tcp => w.tcp | .tmd => w.tmd

/-- An arrival counter changed. -/
def Warp.setCount (w : Warp) (p : Path) (n : Nat) : Warp :=
  match p with
  | .gld => { w with gld := n } | .gst => { w with gst := n } | .lrm => { w with lrm := n }
  | .tcp => { w with tcp := n } | .tmd => { w with tmd := n }

/-- Lanes of the warp not yet exited: those of its entries and deferred slots (R45). -/
def Warp.alive (w : Warp) : Mask :=
  w.splits.foldl (fun m p =>
    m ||| (if p.st = .free then 0 else p.mask) ||| (if p.defSt = .empty then 0 else p.dmask)) 0

/-- Entry n of the split table. -/
def Warp.split (w : Warp) (n : Nat) : Split := w.splits.getD n Split.free
/-- Entry n changed. -/
def Warp.setSplit (w : Warp) (n : Nat) (f : Split → Split) : Warp := { w with splits := lset w.splits n (f (w.split n)) }

/-- The address of the group's first word, where a stop leaves the split (R225). -/
def Split.first (p : Split) : Nat := (p.hints.head?.map (fun h => h.pc)).getD p.pc
/-- The split set back to the first word of its group, with no hints pending and nothing left of an HSTL's count (R225, R396). -/
def Split.rewind (p : Split) : Split := { p with pc := p.first, hints := [], stall := 0 }

/-- The slot cycle from which the split has been ready without a break: not before the end of an HSTL's count (R42, R396). -/
def Split.readyFrom (p : Split) : Nat := max p.since p.stall

/-- The split on another slot, whose clock reads n. -/
def Split.rebase (p : Split) (n : Nat) : Split := { p with stamp := n, since := n, stall := 0 }

/-! ### Issuing -/

/-- What an issuing split sees: its warp, entry, workgroup, grid, context slot and die. -/
structure Cx where
  w     : Nat
  sp    : Nat
  warp  : Warp
  split : Split
  gid   : Nat
  group : Group
  grid  : Grid
  ctx   : Ctx
  die   : Nat

/-- The context of an entry of a warp, whether or not it may issue. -/
def State.cxOf (s : State) (w sp : Nat) : Option Cx :=
  match tfind s.warps w with
  | none => none
  | some x =>
    match tfind s.groups x.group with
    | none => none
    | some g =>
      match tfind s.grids g.grid with
      | none => none
      | some gr => some ⟨w, sp, x, x.split sp, x.group, g, gr, s.ctx gr.ctx, x.core / Config.dieCores⟩

/-- The clock of an issue slot (R41). -/
def State.slotCyc (s : State) (core slot : Nat) : Nat := tget 0 s.cyc (4 * core + slot)

/-- The clock of the split's slot. -/
def State.clockOf (s : State) (c : Cx) : Nat := s.slotCyc c.warp.core c.warp.slot

/-- The warps of a workgroup in warp order. -/
def State.groupWarps (s : State) (g : Group) : List Warp := g.warps.filterMap (fun w => tfind s.warps w)

/-- Slot-clock cycles at which the deadline of a warp's request passes (R75). -/
def Cx.deadline (c : Cx) : Nat :=
  let k := 4 * c.warp.core + c.warp.slot
  tget 0 c.ctx.reqAt k + c.ctx.pdly

/-- A workgroup's save has been asked for: the request stands, or a warp has already stopped for it (R74). -/
def State.saveAsked (s : State) (c : Cx) : Bool :=
  c.ctx.req || (s.groupWarps c.group).any (fun x => match x.life with
    | .yielded => true
    | .stopped r => r.code == .preempt
    | _ => false)

/-- A forced save of the warp takes effect now: the deadline has passed and traps are not masked (R75, R77). A replay that the warp owes
it makes after it resumes (R78). -/
def State.saveForced (s : State) (c : Cx) : Bool :=
  c.group.st == .running && s.saveAsked c && !c.warp.tm && decide (c.deadline ≤ s.clockOf c)

/-- The context of the selected split if it may issue (R40): its warp runs and is not parked on a fault, the entry is RUN,
waits for nothing and has no stall to count (R396), a sibling's skid has room (R69), no other split has a replay to make (R66),
and no forced save is to take effect first (R77). -/
def issueCx (s : State) : Option Cx :=
  match s.cur with
  | .warp w sp =>
    match s.cxOf w sp with
    | none => none
    | some c =>
      if c.warp.life = .running ∧ c.warp.fault = none ∧ c.split.st = .run ∧ c.split.wait = .ready
          ∧ (c.group.st = .halting → c.warp.skid < 12) ∧ (c.warp.replay.map (fun r => r.1)).getD sp = sp
          ∧ c.split.stall ≤ s.clockOf c ∧ s.saveForced c = false then some c
      else none
  | _ => none

/-- The hint of a kind in the group (R215). -/
def Cx.hint (c : Cx) (kind : Nat) : Option (BitVec 23) := (c.split.hints.find? (fun h => h.kind == kind)).map (fun h => h.payload)

/-- k n as an instruction reads it: k0 is the split's active mask (R247). -/
def Cx.k (c : Cx) (n : Nat) : Mask := if n = 0 then c.split.mask else c.warp.kreg n

/-- The combined mask (R217): the active mask ANDed with the guard; a replay uses the recorded lanes (R225). -/
def Cx.combined (c : Cx) : Mask :=
  match c.warp.replay with
  | some m => m.2.1
  | none =>
    match c.hint 1 with
    | none => c.split.mask
    | some p =>
      let g := c.k (bits p.toNat 0 4)
      c.split.mask &&& (if bit p.toNat 4 then ~~~g else g)

/-- Fields of the group's HMOD (R219); zero without one. -/
def Cx.hmod (c : Cx) : Nat := ((c.hint 3).getD 0).toNat
def Cx.ten (c : Cx) : BitVec 5 := BitVec.ofNat 5 (bits c.hmod 0 5)
def Cx.rmv (c : Cx) : Bool := bit c.hmod 5
def Cx.rm (c : Cx) : Nat := bits c.hmod 6 2
def Cx.scope (c : Cx) : Nat := bits c.hmod 8 3
def Cx.order (c : Cx) : Nat := bits c.hmod 11 2
def Cx.mod8 (c : Cx) : Nat := bits c.hmod 13 8

/-- Which hints an instruction accepts (R224); HSTL and HFE are accepted by all. -/
structure Accept where
  himm : Bool
  hgrd : Bool
  hmod : Bool
  hfil : Bool
  hadd : Bool
  ten  : Bool
  rm   : Bool
  ord  : Nat → Nat → Bool       -- order, scope
  mod8 : Nat → Bool

/-- Only HSTL and HFE. -/
def Accept.none : Accept := ⟨false, false, false, false, false, false, false, fun o s => o == 0 && s == 0, fun m => m == 0⟩

/-- What the common checks of an instruction need to know of it. -/
structure Issue where
  enc    : Bool                 -- the encoding check of the word (R229, check 4 of R223)
  acc    : Accept
  priv   : Bool                 -- a privileged instruction (R410)
  srcs   : List (List RegRef)   -- sources in the order of R220, each one group
  hidden : List RegRef := []    -- registers read that R220 does not number
  dsts   : List RegRef          -- destinations that the instruction waits for (R94)
  poison : Mask                 -- lanes that raise POISON (R102)
  pinfo  : Nat                  -- its INFO (R72)
  guard  : Bool := true         -- a poisoned guard register raises POISON: of no VMOV (R274)

/-- Every register that the instruction reads. -/
def Issue.reads (i : Issue) : List RegRef := i.srcs.flatten ++ i.hidden

/-- The hint is accepted (R223 check 5): HMOD and HFE by their fields. -/
def Issue.accepts (i : Issue) (h : Hint) : Bool :=
  let p := h.payload.toNat
  match h.kind with
  | 0 => i.acc.himm
  | 1 => i.acc.hgrd
  | 2 => true
  | 3 => i.acc.hmod && (i.acc.ten || bits p 0 5 == 0) && (i.acc.rm || !bit p 5) && i.acc.ord (bits p 11 2) (bits p 8 3)
         && i.acc.mod8 (bits p 13 8)
  | 4 => decide (p < 2 ^ i.srcs.length)
  | 5 => i.acc.hfil
  | 6 => i.acc.hadd
  | _ => false

/-- t and h registers never trap on empty (R94, R337). -/
def RegRef.traps : RegRef → Bool
  | .v _ => true | .s _ => true | .k r => decide (r ≠ 0) | .t _ => false | .h _ => false

/-- The group's HFE selects a trap for source n (R220). -/
def Cx.traps (c : Cx) (n : Nat) : Bool := bit ((c.hint 4).getD 0).toNat n

/-- Some source is empty and its FE bit is set (R94, R220). -/
def emptyTrap (c : Cx) (i : Issue) : Bool :=
  (List.range i.srcs.length).any (fun n => c.traps n && (i.srcs.getD n []).any (fun r => r.traps && c.warp.blocks r))

/-- The guard register that the group's HGRD reads; a replay does not read it again (R217, R225). -/
def Cx.guardReg (c : Cx) : Option Nat :=
  if c.warp.replay.isSome then none else (c.hint 1).map (fun p => bits p.toNat 0 4)

/-- Some source for which no trap is selected, some destination, or the guard register, is empty: the split is not ready (R40,
R94). -/
def blocked (c : Cx) (i : Issue) : Bool :=
  (c.guardReg.map (fun n => c.warp.blocks (.k n))).getD false
    || (List.range i.srcs.length).any (fun n => (i.srcs.getD n []).any (fun r => !(c.traps n && r.traps) && c.warp.blocks r))
    || i.hidden.any (fun r => c.warp.blocks r) || i.dsts.any (fun r => c.warp.blocks r)

/-- After an instruction completes at pc: the checks of R52 on the loop stack, top first. -/
def loopEnd : List LoopEnt → Nat → List LoopEnt × Nat
  | [], pc => ([], (pc + 4) % vaMod)
  | e :: r, pc =>
    if e.stop = pc then
      if 1 < e.count then ({ e with count := e.count - 1 } :: r, e.start) else loopEnd r pc
    else (e :: r, (pc + 4) % vaMod)

/-- Loop-stack entries popped by a transfer to the target (R53). -/
def unwind (l : List LoopEnt) (target : Nat) : List LoopEnt :=
  l.dropWhile (fun e => decide (target < e.start) || decide (e.stop < target))

/-- A split past its instruction: stamp renewed, group consumed, and the new pc and loop stack. -/
def Split.moved (p : Split) (pc : Nat) (loops : List LoopEnt) (stamp : Nat) : Split :=
  { p with pc := pc, loops := loops, hints := [], stamp := stamp, promoted := false, since := stamp, stall := 0 }

/-- Bookkeeping of one issue of an instruction that does not complete with it: the slot's cycle passes. -/
def State.tickOnly (s : State) (c : Cx) : State :=
  let s := { s with cyc := tset 0 s.cyc (4 * c.warp.core + c.warp.slot) (s.slotCyc c.warp.core c.warp.slot + 1) }
  s.setWarp c.w (fun x => { x with replay := none, owed := [], last := c.sp })

/-- Bookkeeping of one issue: the slot's cycle passes, and a sibling in its skid counts the instruction (R69). -/
def State.tick (s : State) (c : Cx) : State :=
  let s := { s with cyc := tset 0 s.cyc (4 * c.warp.core + c.warp.slot) (s.slotCyc c.warp.core c.warp.slot + 1) }
  s.setWarp c.w (fun x => { x with
    replay := none, owed := [], last := c.sp, skid := if c.group.st = .halting then x.skid + 1 else x.skid })

/-- The instruction completes: the split goes to the next instruction or round its loop (R52). -/
def State.advance (s : State) (c : Cx) : State :=
  let r := loopEnd c.split.loops c.split.pc
  let s := s.tick c
  s.setWarp c.w (fun x => x.setSplit c.sp (fun p => p.moved r.2 r.1 (s.slotCyc c.warp.core c.warp.slot)))

/-- The instruction completes with a transfer to the target; the loop stack is unwound (R53). -/
def State.jump (s : State) (c : Cx) (target : Nat) : State :=
  let s := s.tick c
  s.setWarp c.w (fun x => x.setSplit c.sp (fun p => p.moved target (unwind p.loops target) (s.slotCyc c.warp.core c.warp.slot)))

/-- The instruction has issued and its split waits there (R40, R335); it counts toward no skid before it completes (R70). -/
def State.hold (s : State) (c : Cx) (wt : Wait) : State :=
  let s := s.tickOnly c
  let n := s.clockOf c
  s.setWarp c.w (fun x => x.setSplit c.sp (fun p => { p with wait := wt, stamp := n, since := n, promoted := false }))

/-- The instruction has issued and its split holds there until the operation ends (R310, R335). -/
def State.holdFor (s : State) (c : Cx) (n : Nat) : State := s.hold c (.op n)

/-- The split waits no longer at its instruction, which has not completed. -/
def State.unhold (s : State) (c : Cx) : State :=
  s.setWarp c.w (fun x => x.setSplit c.sp (fun p => { p with wait := .ready }))

/-- A split that waited at its instruction completes it, and goes to the next or round its loop (R52). It keeps its stamp, which is
that of its issue (R41). -/
def Split.completed (p : Split) : Split :=
  let r := loopEnd p.loops p.pc
  { p with pc := r.2, loops := r.1, hints := [], wait := .ready }

/-- The skid of a sibling of a trapped warp has room for n more instructions (R69). -/
def Warp.skidRoom (w : Warp) (n : Nat) : Bool := w.haltAt.isNone || w.life != .running || decide (w.skid + n ≤ 12)

/-- Every split that satisfies the test completes the instruction that it waits at; a sibling in its skid counts it (R69), but not an
instruction that ends when its 12 are used up, which is one that held its split when the stop reached it (R70). -/
def Warp.pass (w : Warp) (f : Split → Bool) : Warp :=
  { w with
    skid := if w.haltAt.isSome ∧ w.life = .running then min 12 (w.skid + (w.splits.filter f).length) else w.skid
    splits := w.splits.map (fun p => if f p then p.completed else p) }

/-- A change of the issuing warp. -/
def State.onWarp (s : State) (c : Cx) (f : Warp → Warp) : State := s.setWarp c.w f

/-! ### Traps (R69 to R72) -/

/-- Every warp of the workgroup has stopped or exited. -/
def State.allStopped (s : State) (g : Group) : Bool :=
  g.warps.all (fun w => match tfind s.warps w with
    | some x => match x.life with | .running => false | _ => true
    | none => true)

/-- A halting workgroup whose warps have all stopped is halted. -/
def State.settle (s : State) (gid : Nat) : State :=
  match tfind s.groups gid with
  | some g => if g.st = .halting ∧ s.allStopped g then s.setGroup gid (fun g => { g with st := .halted }) else s
  | none => s

/-- An engine instruction at work for its split: a stop discards it (R70). -/
def OpKind.isWork : OpKind → Bool
  | .work _ _ _ => true
  | _ => false

/-- A frame reader of die d begins (R200): the parity under which it counts. -/
def State.readerIn (s : State) (d : Nat) : State × Nat :=
  let p := (s.die d).re % 2
  (s.setDie d (fun x => if p = 0 then { x with c0 := x.c0 + 1 } else { x with c1 := x.c1 + 1 }), p)

/-- A frame reader counted under a parity ends; parity 2 is no reader (R200). -/
def State.readerOut (s : State) (d p : Nat) : State :=
  match p with
  | 0 => s.setDie d (fun x => { x with c0 := x.c0 - 1 })
  | 1 => s.setDie d (fun x => { x with c1 := x.c1 - 1 })
  | _ => s

/-- A split at a stop: one whose issued instruction still completes stays there (R70); any other is set back to the first
word of its group and waits for nothing (R70, R225), but a save keeps what waits at a barrier (R75). -/
def Split.atStop (save : Bool) (keep : List Nat) (p : Split) : Split :=
  if p.st = .park then p
  else match p.wait with
  | .op n => if keep.contains n then p else { p.rewind with wait := .ready }
  | .bar _ => if save then p else { p.rewind with wait := .ready }
  | _ => { p.rewind with wait := .ready }

/-- An instruction that a SQGROW waits for goes on under another number: that of its operation while it is at work, that of its warp while
it is parked or stopped (R174). -/
def State.renumber (s : State) (a b : Nat) : State :=
  { s with ops := s.ops.map (fun (o : Op) => match o.kind with
    | .sqgrow r i sem (some l) => { o with kind := .sqgrow r i sem (some (l.map (fun k => if k = a then b else k))) }
    | _ => o) }

/-- Engine instructions at work for a warp are discarded, their counters lowered and their readers uncounted (R70, R200). -/
def State.dropWork (s : State) (w : Nat) : State :=
  let gone := s.ops.filter (fun o => o.warp == w && o.kind.isWork)
  let s := { s with ops := s.ops.filter (fun o => !(o.warp == w && o.kind.isWork)) }
  gone.foldl (fun s o =>
    let s := (s.renumber o.id w).setWarp w (fun x => match o.path with
      | some (p, n) => (x.markAll false o.full).setCount p (x.count p - n)
      | none => x.markAll false o.full)
    match o.kind with
    | .work _ _ p => s.readerOut o.die p
    | _ => s) s

/-- The registers that waiting MWAITs marked empty (R335). -/
def Warp.mwaitRegs (w : Warp) : List RegRef :=
  w.splits.filterMap (fun p => match p.wait with | .mwait sd _ => some (RegRef.s sd) | _ => none)

/-- A warp stops at an instruction boundary (R69, R70, R75). A replay that it still has to make is made on resume (R66, R78). -/
def State.haltWarp (s : State) (w : Nat) (life : Life) (save : Bool) : State :=
  let s := s.dropWork w
  let keep := s.ops.map (fun o => o.id)
  s.setWarp w (fun x => { (x.markAll false x.mwaitRegs) with life := life, splits := x.splits.map (Split.atStop save keep), mrdys := [] })

/-- A warp stops with the record (R69, R70). -/
def State.stopWarp (s : State) (w : Nat) (r : StopRec) : State := s.haltWarp w (.stopped r) false

/-- Slot-clock cycles of a warp from the primary trap (R72). -/
def Warp.skidCyc (w : Warp) (now : Nat) : Nat := now - w.haltAt.getD now

/-- The record of a trap taken now by the split: in a skid it counts the instructions and the cycles since the primary trap
(R72). -/
def State.stopOf (s : State) (c : Cx) (code : TrapCode) (pc : Nat) (lanes : Mask) (info : Nat) : StopRec :=
  { code := code, skid := c.warp.skid, cyc := c.warp.skidCyc (s.clockOf c), primary := decide (c.group.st = .running), split := c.sp,
    pc := pc, lanes := lanes, info := info }

/-- The primary trapping warp of a workgroup. -/
def State.primaryOf (s : State) (g : Group) : Option (Nat × Warp) :=
  g.warps.findSome? (fun w => (tfind s.warps w).bind (fun x => match x.life with
    | .stopped r => if r.primary then some (w, x) else none
    | _ => none))

/-- Which of several warps that trap in one cycle is primary: the lowest warp index (R69). A warp of another slot whose clock has
not moved since the primary trap traps in the same cycle (assumption 121). -/
def State.settlePrimary (s : State) (c : Cx) (r : StopRec) : State × StopRec :=
  match s.primaryOf c.group with
  | some (p, x) =>
    if c.group.st = .halting ∧ r.skid = 0 ∧ r.cyc = 0 ∧ x.slot ≠ c.warp.slot ∧ c.warp.idx < x.idx then
      (s.setWarp p (fun x => { x with life := match x.life with
        | .stopped r => .stopped { r with primary := false }
        | l => l }), { r with primary := true })
    else (s, r)
  | none => (s, r)

/-- The slot clocks of a workgroup's warps as its primary warp traps (R69). -/
def State.markHalt (s : State) (g : Group) : State :=
  g.warps.foldl (fun s w => s.setWarp w (fun x => { x with haltAt := some (s.slotCyc x.core x.slot) })) s

/-- Ended operations at the head of a path lower their counter and leave, oldest first (R91). -/
def State.lowerPath (s : State) (w : Nat) (p : Path) : Nat → State
  | 0 => s
  | n + 1 =>
    match s.ops.find? (fun o => o.warp == w && (o.path.map (fun q => decide (q.1 = p))).getD false) with
    | some o =>
      if o.kind = .done then
        let s := { s with ops := s.ops.filter (fun x => x.id != o.id) }
        State.lowerPath (s.setWarp w (fun x => x.setCount p (x.count p - (o.path.map (fun q => q.2)).getD 0))) w p n
      else s
    | none => s

/-- Rows of a TCOPY that will never be translated count as landed: the instruction is given up (R67). -/
def State.dropRows (s : State) (w : Nat) : State :=
  let s := { s with ops := s.ops.map (fun (o : Op) => if o.warp = w then
    match o.kind with | .row _ _ _ [] _ => { o with kind := .done } | _ => o else o) }
  s.lowerPath w .tcp s.ops.length

/-- Registers that an ended operation leaves full: not those that another one, or a replay, has still to write (R93, R308). -/
def State.filled (s : State) (w n : Nat) (l : List RegRef) : List RegRef :=
  l.filter (fun r => !((tfind s.warps w).any (fun x => x.owed.contains r))
    && !s.ops.any (fun o => o.id != n && o.warp == w && o.full.contains r))

/-- What a parked load still had to fill is full: its lanes keep their old values (R67, R308). -/
def State.disown (s : State) (w : Nat) : State :=
  let l := ((tfind s.warps w).map (fun x => x.owed)).getD []
  let s := s.setWarp w (fun x => { x with owed := [] })
  s.setWarp w (fun x => x.markAll false (s.filled w 0 l))

/-- The replay that a warp has to make is given up, and with it the counter raise, the TCOPY rows and the empty registers that it kept
(R91). -/
def State.giveUp (s : State) (w : Nat) : State :=
  let s := (s.disown w).setWarp w (fun x => match x.replay with
    | some (_, _, some (p, n)) => { (x.setCount p (x.count p - n)) with replay := none }
    | _ => { x with replay := none })
  s.dropRows w

/-- Taking a trap (R69): the warp stops precisely with its record, its workgroup starts to halt, and a trap in a warp that
masks traps is also a machine check (R412, R436). pc is the PC of the record. A replay that traps is given up, and what a key-value
instruction of the split had kept for its replay goes with it. -/
def State.trapAt (s : State) (c : Cx) (code : TrapCode) (pc : Nat) (lanes : Mask) (info : Nat) : State :=
  let s := if c.warp.tm then s.machineCheck c.die 1 c.grid.ctx else s
  let sr := s.settlePrimary c (s.stopOf c code pc lanes info)
  let mine := (c.warp.replay.map (fun r => r.1)) == some c.sp
  let s := (if mine then sr.1.giveUp c.w else sr.1).stopWarp c.w sr.2
  let s := s.setWarp c.w (fun x => { (x.setSplit c.sp (fun p => { p with pc := pc })) with
    kept := if x.fault.isSome || x.replay.isSome then x.kept else [], attnZ := terase x.attnZ c.sp })
  let s := if c.group.st = .running then s.markHalt c.group else s
  (s.setGroup c.gid (fun g => if g.st = .running then { g with st := .halting, since := (s.die c.die).time } else g)).settle c.gid

/-- A trap at the instruction: its record names the first word of the group (R225). -/
def State.trap (s : State) (c : Cx) (code : TrapCode) (lanes : Mask) (info : Nat) : State :=
  s.trapAt c code c.split.first lanes info

/-- ILLEGAL found by the encoding check: the record names the word itself (R223). -/
def State.illegalWord (s : State) (c : Cx) : State := s.trapAt c .illegal c.split.pc c.split.mask 0

/-- The registers of a group that a batch still binds (R119). -/
def Warp.boundIn (w : Warp) (l : List RegRef) : List Nat :=
  l.filterMap (fun r => match r with
    | .v n => if w.bound.getLsbD n then some n else none
    | _ => none)

/-- A read of bound registers returns undefined values (R119). -/
def Warp.scramble (w : Warp) (draw : Nat) (l : List Nat) : Warp :=
  { w with v := l.foldl (fun m r => (List.range 64).foldl (fun m k =>
      tset 0 m (64 * r + k) (Config.freeElem draw (64 * r + k))) m) w.v }

/-- What an event makes of the operations of a warp that have been performed and that no MWAIT has named. -/
def State.again (s : State) (w : Nat) (pick : Batch → Bool) (f : MatOp → MatOp) : State :=
  match tfind s.warps w with
  | none => s
  | some x => match tfind s.groups x.group with
    | none => s
    | some g =>
      if (x.batches ++ x.part.toList).all (fun b => b.past.isEmpty) then s
      else
        let r := x.again pick f s.free g
        { ((s.setWarp w (fun _ => r.1)).setGroup x.group (fun _ => r.2.1)) with free := r.2.2 }

/-- A write of bound registers in these lanes leaves them undefined, and the dependent results of operations not yet
performed (R119). -/
def Warp.spoil (w : Warp) (l : List Nat) (m : Mask) : Warp :=
  l.foldl (fun w r => { w with
    spoilt := bvPut w.spoilt r true
    openSet := w.openSet.map (fun o => o.spoil r m)
    batches := w.batches.map (fun b => { b with ops := b.ops.map (fun o => o.spoil r m) }) }) w

/-- The effects on a batch of an instruction that has issued: reads of bound registers drew free values, writes spoil them and the results
that depend on them, performed or not. -/
def State.touchBound (s : State) (before : State) (c : Cx) (reads writes : List Nat) : State :=
  let s1 := if reads = [] then s else { s with free := s.free + 1 }
  if s.slotCyc c.warp.core c.warp.slot = before.slotCyc c.warp.core c.warp.slot ∨ writes = [] then s1
  else (s1.setWarp c.w (fun w => w.spoil writes c.combined)).again c.w (fun b => !b.named)
    (fun o => writes.foldl (fun o r => o.spoil r c.combined) o)

/-- A register that every split of the warp shares (R399). -/
def RegRef.shared : RegRef → Bool
  | .v _ => false
  | _ => true

/-- An undefined translation register and an undefined handle (R9, R399). -/
def freeTReg (draw r : Nat) : TReg :=
  let x := fun (k : Nat) => (Config.freeElem draw (1024 + 16 * r + k)).toNat
  ⟨(x 0 + 2 ^ 32 * x 1) % 2 ^ 57, x 2 % 3, bit (x 3) 0, bit (x 3) 1, (x 4 + 2 ^ 32 * x 5) % 2 ^ 52, x 6 % 2 ^ 31, x 8 % 2 ^ 16, bit (x 3) 2, bit (x 3) 3,
    bit (x 3) 4, bit (x 3) 5⟩
def freeHandle (draw r : Nat) : Handle :=
  let x := fun (k : Nat) => (Config.freeElem draw (2048 + 64 * r + k)).toNat
  ⟨if x 0 % 3 = 0 then .empty else if x 0 % 3 = 1 then .valid else .invalid,
    (List.range 32).flatMap (fun k => toBytes (x (1 + k)) 4)⟩

/-- One undefined register as a read finds it. -/
def Warp.freeReg (w : Warp) (draw : Nat) : RegRef → Warp
  | .v _ => w
  | .s r => { w with s := tset 0 w.s r (Config.freeElem draw r) }
  | .k r => { w with k := tset 0 w.k r (Config.freeElem draw (256 + 2 * r) ++ Config.freeElem draw (257 + 2 * r)) }
  | .t r => { w with t := tset TReg.invalid w.t r (freeTReg draw r) }
  | .h r => { w with h := tset Handle.none w.h r (freeHandle draw r) }

/-- The warp as an instruction reads it where code that a divided call reached has left registers undefined (R399). -/
def Warp.soften (w : Warp) (draw : Nat) : Warp := w.loose.foldl (fun x r => x.freeReg draw r) w

/-- Shared registers that the instruction writes in code that a divided call reached become undefined; written elsewhere, they are
defined again (R399). -/
def Warp.writeLoose (w : Warp) (div : Nat) (dsts : List RegRef) : Warp :=
  let l := dsts.filter RegRef.shared
  { w with loose := if div = 0 then w.loose.filter (fun r => !l.contains r) else (w.loose ++ l).eraseDups }

/-- The instruction meets registers that R399 makes undefined, or makes some so. -/
def Cx.divided (c : Cx) (i : Issue) : Bool :=
  !c.warp.loose.isEmpty || (c.split.div != 0 && i.dsts.any RegRef.shared)

/-- The effects of an instruction that has issued on the registers that R399 makes undefined. -/
def State.touchLoose (s : State) (before : State) (c : Cx) (i : Issue) : State :=
  if c.divided i then
    let s1 := { s with free := s.free + 1 }
    if s.slotCyc c.warp.core c.warp.slot = before.slotCyc c.warp.core c.warp.slot then s1
    else s1.setWarp c.w (fun w => w.writeLoose c.split.div i.dsts)
  else s

/-- An instruction's body, with registers bound to a batch read and written as R119 says, and the shared registers of divided code as
R399 says. -/
def withBound (s : State) (c : Cx) (i : Issue) (body : Cx → Out) : Out :=
  let reads := c.warp.boundIn i.reads
  let writes := c.warp.boundIn i.dsts
  if reads = [] ∧ writes = [] ∧ c.divided i = false then body c
  else
    match body { c with warp := (c.warp.scramble s.free reads).soften s.free } with
    | .next s' => .next ((s'.touchBound s c reads writes).touchLoose s c i)
    | o => o

/-- The common checks of an instruction in their order (R68, R223, R94, R102), then its body. A wait leaves the state. -/
def issue (s : State) (f : Cx → Issue) (body : Cx → Out) : Out :=
  match issueCx s with
  | none => .next s
  | some c =>
    let i := f c
    if i.enc = false then .next (s.illegalWord c)
    else
      match c.split.hints.find? (fun h => !i.accepts h) with
      | some h => .next (s.trapAt c .illegal h.pc c.split.mask 0)
      | none =>
        if i.priv = true ∧ c.ctx.priv = false then .next (s.trap c .priv c.split.mask 0)
        else if blocked c i then .next s
        else if emptyTrap c i then .next (s.trap c .emptyrd c.split.mask 0)
        else if i.guard && (c.guardReg.map (fun n => decide (n ≠ 0) && c.warp.kPois n)).getD false then
          .next (s.trap c .poison c.split.mask 0)
        else if i.poison ≠ 0 then .next (s.trap c .poison i.poison i.pinfo)
        else withBound s c i body

/-! ### Pending operations -/

/-- A pending operation of the issuing split. -/
def State.addOp (s : State) (c : Cx) (full : List RegRef) (path : Option (Path × Nat)) (kind : OpKind) : State :=
  { s with ops := s.ops ++ [⟨s.uid, c.w, c.sp, c.die, c.grid.ctx, c.split.first, full, path, kind, 2, c.ctx.asid⟩], uid := s.uid + 1 }

/-- The pending operation of this number. -/
def State.op (s : State) (n : Nat) : Option Op := s.ops.find? (fun o => o.id == n)

/-- A pending operation's remaining work changed. -/
def State.setOp (s : State) (n : Nat) (k : OpKind) : State :=
  { s with ops := s.ops.map (fun o => if o.id = n then { o with kind := k } else o) }

/-- Splits that hold at their instruction for the operation complete it. -/
def Warp.release (w : Warp) (n : Nat) : Warp := w.pass (fun p => decide (p.wait = .op n))

/-- Oldest pending operation of a warp on a path: counters fall in issue order (R91). -/
def State.oldestOn (s : State) (w : Nat) (p : Path) : Option Nat :=
  (s.ops.find? (fun o => o.warp == w && (o.path.map (fun q => decide (q.1 = p))).getD false)).map (fun o => o.id)

/-- The operation is the oldest on its path and may lower its counter (R91). -/
def State.inOrder (s : State) (o : Op) : Bool :=
  match o.path with
  | some (p, _) => s.oldestOn o.warp p == some o.id
  | none => true

/-- The MRDs of an agent are forgotten. -/
def State.dropAsks (s : State) (who : Nat) : State := { s with asks := s.asks.filter (fun a => a.who != who) }

/-- An operation ends: its registers are full, splits that hold for it go on, and its counter is lowered in issue order
(R90, R91, R93). What it asked of the host is forgotten. -/
def State.endOp (s : State) (o : Op) : State :=
  let s := (s.setWarp o.warp (fun x => (x.markAll false (s.filled o.warp o.id o.full)).release o.id)).readerOut o.die o.par
  let s := s.dropAsks o.id
  match o.path with
  | some (p, _) =>
    let s := { s with ops := s.ops.map (fun (x : Op) => if x.id = o.id then { x with kind := .done, full := [], par := 2 } else x) }
    s.lowerPath o.warp p s.ops.length
  | none => { s with ops := s.ops.filter (fun x => x.id != o.id) }

/-- The warp's uid, width and liveness for an operation's completion. -/
def State.widthOf (s : State) (w : Nat) : Nat :=
  match tfind s.warps w with
  | some x => match tfind s.groups x.group with
    | some g => match tfind s.grids g.grid with
      | some gr => gr.w
      | none => 64
    | none => 64
  | none => 64

/-- A result that takes more than one cycle (R93): destinations empty at issue, written by MULTICYCLE_RESULT. The
instruction itself completes. -/
def State.laterAs (s : State) (c : Cx) (full : List RegRef) (kind : OpKind) : State :=
  let s := s.addOp c full none kind
  (s.onWarp c (fun x => x.markAll true full)).advance c

/-- Such a result of a vector or scalar instruction. -/
def State.later (s : State) (c : Cx) (full : List RegRef) (writes : List RegWrite) (flags : BitVec 5) : State :=
  s.laterAs c full (.result writes flags)

/-! ### Translation (R421 to R423) -/

/-- Kind of access for the permission check. -/
inductive Need where
  | load | store | atomic | fetch
deriving DecidableEq, Repr

/-- What a translation gives: the physical address and the leaf's attributes. -/
structure Trans where
  pa   : Nat
  pte  : Nat
  base : Nat                    -- first byte of the page
  size : Nat                    -- 0, 1, 2 (R87)
deriving DecidableEq, Repr

/-- Bytes of a page of the size code (R87). -/
def pageBytes : Nat → Nat
  | 0 => 2 ^ 16
  | 1 => 2 ^ 21
  | _ => 2 ^ 30

/-- A fault of translation: its code and whether the entry was malformed (R423). -/
abbrev WalkFault := FaultCode × Bool

/-- An entry read by a walk, at home (R423). -/
def State.pte (s : State) (a : Nat) : Nat := ofBytes (s.home a 8)

/-- A valid entry breaks R422 at this level (R423). -/
def pteMalformed (level e : Nat) : Bool :=
  let t := bit e 1
  (level == 0 && t) || (3 ≤ level && !t) || bit e 62 ||
  (if t then bits e 2 6 != 0 || bits e 52 10 != 0 || (decide (2 ≤ level) && bits e 8 4 != 0)
   else bits e 11 2 == 3 || bits e 13 3 != 0 || (bit e 10 && level != 0) || (!bit e 10 && bits e 52 10 != 0)
     || (level == 1 && bits e 16 5 != 0) || (level == 2 && bits e 16 14 != 0))

/-- Byte offset of the entry for va in a table of the level (R421). -/
def walkIndex (level va : Nat) : Nat :=
  8 * (match level with
    | 4 => bits va 48 9
    | 3 => bits va 39 9
    | 2 => bits va 30 9
    | 1 => bits va 21 9
    | _ => bits va 16 5)

/-- The walk from a table at a level to a leaf (R421, R423). -/
def walkFrom (s : State) : Nat → Nat → Nat → Except WalkFault (Nat × Nat)
  | 0, table, va =>
    let e := s.pte (table + walkIndex 0 va)
    if !bit e 0 then .error (.notPresent, false)
    else if pteMalformed 0 e then .error (.notPresent, true)
    else .ok (e, 0)
  | n + 1, table, va =>
    let e := s.pte (table + walkIndex (n + 1) va)
    if !bit e 0 then .error (.notPresent, false)
    else if pteMalformed (n + 1) e then .error (.notPresent, true)
    else if bit e 1 then walkFrom s n (bits e 8 44 * 256) va
    else .ok (e, n + 1)

/-- The frame of a leaf: with HOST, host memory behind the OHL port that OHLP names (R18, R422), in the part of the address map that is
that port's (assumption 3). -/
def leafFrame (e a : Nat) : Nat :=
  if bit e 8 then hostBase (b2n (bit e 9)) + a % hostBytes else a

/-- Who translates: a die, 0 to 3, for what is no core's, or core k, as 4 + k. The die, and the core whose L1 TLB serves. -/
def seatDie (a : Nat) : Nat := if a < 4 then a else (a - 4) / Config.dieCores
def seatCore (a : Nat) : Option Nat := if a < 4 then none else some (a - 4)

/-- The warp's core as a translating agent. -/
def Cx.seat (c : Cx) : Nat := 4 + c.warp.core

/-- The TLB entry for an address: of the core's L1 TLB, else of the die's L2 TLB (R21). -/
def State.tlbHit (s : State) (a asid va : Nat) : Option TlbEnt :=
  let hit := fun (t : TlbEnt) => t.asid == asid && decide (t.va = va / pageBytes t.size * pageBytes t.size)
  ((s.die (seatDie a)).tlb.find? (fun t => t.core == seatCore a && hit t)).or ((s.die (seatDie a)).tlb.find? (fun t => t.core.isNone && hit t))

/-- The leaf of an address for a context slot as a die or a core sees it: a TLB entry if one is held, else the walk. A slot whose
PTROOT is 0 has no tables, and its addresses are physical (assumption 4). -/
def State.leaf (s : State) (seat ctx va : Nat) : Except WalkFault Trans :=
  let cx := s.ctx ctx
  let mk := fun (e size : Nat) =>
    let n := pageBytes size
    let frame := if bit e 10 then bits e 16 36 * 65536 else leafFrame e (bits e 16 36 * 65536 / n * n)
    (⟨frame + va % n, e, va / n * n, size⟩ : Trans)
  if cx.ptroot = 0 then .ok ⟨va % 2 ^ 52, 0x3D + field (va / 65536) 16 36, va / 65536 * 65536, 0⟩
  else
    match s.tlbHit seat cx.asid va with
    | some t => .ok (mk t.pte.toNat t.size)
    | none =>
      match walkFrom s 4 cx.ptroot va with
      | .ok (e, level) => .ok (mk e level)
      | .error f => .error f

/-- The leaf permits the access (R423); an atomic needs both R and W. -/
def permits (e : Nat) : Need → Bool
  | .load => bit e 2
  | .store => bit e 3
  | .atomic => bit e 2 && bit e 3
  | .fetch => bit e 4

/-- Translation with its checks in order: NOTPRESENT, PERM, TIERMOVE (R423). -/
def State.translate (s : State) (seat ctx va : Nat) (n : Need) : Except WalkFault Trans :=
  match s.leaf seat ctx (va % vaMod) with
  | .error f => .error f
  | .ok t =>
    if !permits t.pte n then .error (.perm, false)
    else if bit t.pte 7 then .error (.tierMove, false)
    else .ok t

/-- The translation is of the BF16 window (R422): its descriptor's physical address. -/
def Trans.window (t : Trans) : Option Nat :=
  if bit t.pte 10 then some (bits t.pte 16 36 * 65536 + 64 * bits t.pte 52 10) else none

/-! ### Faults (R66, R426 to R428) -/

/-- The words of a fault record (R426). -/
def faultWords (code : FaultCode) (kind : Nat) (malformed : Bool) (pages : List Nat) (asid ctx token pc : Nat)
    (lanes : Mask) (who : Nat) : List Word :=
  let n := pages.length
  let w0 := code.num + field kind 8 4 + field (b2n malformed) 12 1 + field (b2n (decide (4 < n))) 13 1
    + field (min n 4 - 1) 14 2 + field asid 16 16 + field ctx 32 12
  let d := fun (x : Nat) => [BitVec.ofNat 32 x, BitVec.ofNat 32 (x / 2 ^ 32)]
  d w0 ++ [BitVec.ofNat 32 token, 0] ++ d pc ++ d lanes.toNat ++ d (pages.getD 0 0) ++ d (pages.getD 1 0)
    ++ d (pages.getD 2 0) ++ d (pages.getD 3 0) ++ d who ++ List.replicate 14 0

/-- The fault ring of a die is enabled (R428). -/
def Die.fqOn (x : Die) : Bool := decide (4 ≤ x.fqlog2) && decide (x.fqlog2 ≤ 12)
/-- The trap-notice ring of a die is enabled (R428). -/
def Die.tqOn (x : Die) : Bool := decide (4 ≤ x.tqlog2) && decide (x.tqlog2 ≤ 12)

/-- Bytes of 32-bit words. -/
def wordBytes (l : List Word) : List Byte := l.flatMap (fun w => toBytes w.toNat 4)

/-- The ring entry that the next fault record takes: from the tail on, the first that no unresolved record holds (R427). -/
def Die.ringEntry (x : Die) : Nat :=
  let n := 2 ^ x.fqlog2
  ((List.range n).map (fun i => (x.fqtail + i) % n)).find? (fun e => !(x.faults.any (fun r => r.entry == e))) |>.getD (x.fqtail % n)

/-- A fault record enters the die's queue and is written to its entry of the ring in memory (R427). -/
def State.putFault (s : State) (d : Nat) (r : FaultRec) : State :=
  let x := s.die d
  let e := x.ringEntry
  let s := s.setDie d (fun x => { x with faults := x.faults ++ [{ r with entry := e }], fqtail := e + 1 })
  s.writeAt d (x.fqbase + 128 * e) (wordBytes r.words)

/-- A fault record arises; it is held by its agent while the ring is full or disabled (R427, R428). -/
def State.queueFault (s : State) (d ctx : Nat) (r : FaultRec) : State :=
  let x := s.die d
  if x.fqOn && decide (x.faults.length < 2 ^ x.fqlog2) && x.heldFaults.isEmpty then s.putFault d r
  else
    let s := s.setDie d (fun x => { x with heldFaults := x.heldFaults ++ [r] })
    if x.fqOn then s else s.machineCheck d 5 ctx

/-- A token unique on the die until resolved (R426). -/
def State.newToken (s : State) (d : Nat) : State × Nat :=
  let t := (s.die d).token
  (s.setDie d (fun x => { x with token := (t + 1) % 2 ^ 32 }), t)

/-- WHO of a core's agent (R426). -/
def whoCore (core warp split : Nat) : Nat :=
  core % Config.dieCores % 192 + field (core % Config.dieCores / 192) 8 1 + field (core / Config.dieCores) 9 2
    + field warp 11 7 + field split 18 2

/-- What a fault record's PAGE holds for a faulting address (R426, R427): its 64 KiB page, but the row and tier that a KV_ARENA
fault names. -/
def FaultCode.page (f : FaultCode) (va : Nat) : Nat := if f = .kvArena then va else va / 65536 * 65536

/-- The instruction parks its warp on a fault for the unfinished lanes (R66); in a privileged warp it is ACCESS at once
(R411). raised is the counter raise that the instruction keeps (R91). -/
def State.park (s : State) (c : Cx) (code : FaultCode) (kind : Nat) (malformed : Bool) (lanes : Mask) (pages : List Nat)
    (addr : Nat) (raised : Option (Path × Nat)) : State :=
  if c.ctx.priv then
    let s := match raised with
      | some (p, n) => s.onWarp c (fun x => x.setCount p (x.count p - n))
      | none => s
    s.trap c .access lanes addr
  else
    let (s, tok) := s.newToken c.die
    let pg := (pages.map code.page).eraseDups
    let r : FaultRec := ⟨tok, faultWords code kind malformed pg c.ctx.asid c.grid.ctx tok c.split.first lanes
      (whoCore c.warp.core c.warp.idx c.sp), (0, c.w), none, 0⟩
    let s := s.queueFault c.die c.grid.ctx r
    s.onWarp c (fun x => { (x.setSplit c.sp Split.rewind) with
      fault := some ⟨tok, code, kind, malformed, c.sp, c.split.first, lanes, pg, true, none, raised, none, addr, none⟩, replay := none })

end Sys2Proof.Machine
end

