-- ==== Sys2Proof/Machine/Caps.lean ====
section
/-! DEFINITION. Capabilities (R30 to R36). -/

namespace Sys2Proof.Machine

/-- The logical core, die × 384 + cluster × 192 + index, accepts work. -/
def State.inService (s : State) (core : Nat) : Bool :=
  let d := s.die (core / Config.dieCores)
  d.clusters.getLsbD (core % Config.dieCores / Config.clusterCores) && !d.outCores.contains (core % Config.dieCores)

/-- Cores in service. -/
def State.coresIn (s : State) : List Nat := (List.range (Config.dies * Config.dieCores)).filter s.inService

/-- MMA format bits of a core (R31, R36). -/
def State.mmaFmt (s : State) (core : Nat) : Nat :=
  0x0E + (if s.fp6.contains core then 0x10 else 0) + (if s.fp4.contains core then 0xA0 else 0)

/-- The core's matrix path for a format code is enabled (R36). -/
def State.pathOn (s : State) (core code : Nat) : Bool := bit (s.mmaFmt core) code

/-- Lowest rate of any HBM channel; a channel under training stays in service (R493). -/
def State.hbmRate (s : State) : Nat := (List.range 256).foldl (fun m k => min m (s.chan k).rate) 12800

/-- LPDDR capacity in service, in GB. -/
def State.lpddrGb (s : State) : Nat :=
  (List.range 8).foldl (fun n e => if (s.port e).enum && (s.port e).inserv then n + (s.port e).size else n) 0

/-- Every in-service core is in the list. -/
def State.allCores (s : State) (l : List Nat) : Bool := !s.coresIn.isEmpty && s.coresIn.all (fun c => l.contains c)

/-- Every cluster of every die is released (R475 step 3). -/
def State.allReleased (s : State) : Bool := (List.range 4).all (fun d => (s.die d).clusters == 3)

/-- The optional bits that MMA_FMT may come to report now: every cluster is released, and every core in service has passed (R34, R475). -/
def State.fmtNow (s : State) : Nat :=
  (if s.allReleased && s.allCores s.fp6 then 0x10 else 0) + (if s.allReleased && s.allCores s.fp4 then 0xA0 else 0)

/-- A live change is under way (R32, R484, R471, R491). -/
def State.liveNow (s : State) : Bool :=
  s.live || s.chans.any (fun c => c.2.trmode || c.2.work.isSome) || s.ports.any (fun p => p.2.evac)
    || s.dies.any (fun d => d.coresvc.active.isSome)

/-- SERVICE (R32). The far tier counts as accepting page placement while some expander in service is not under evacuation: the model's choice
(assumption 135). -/
def State.service (s : State) : Nat :=
  let trained := decide (12800 ≤ s.hbmRate)
  let lpddr := (List.range 8).any (fun e => (s.port e).enum && (s.port e).inserv && !(s.port e).evac)
  let f6 := bit s.fmtTop 4
  let f4 := bit s.fmtTop 5
  let time := s.dies.all (fun d => d.tstate == .locked)
  let full := trained && lpddr && f6 && f4 && time
    && (List.range 8).all (fun e => (s.port e).enum && (s.port e).inserv)
  b2n full + 2 * b2n trained + 4 * b2n lpddr + 8 * b2n f6 + 16 * b2n f4 + 32 * b2n time + 64 * b2n s.liveNow

/-- A capability by its index for a warp on a core: none when unknown (R30, R31). -/
def State.cap (s : State) (core n : Nat) : Option Nat :=
  match n with
  | 1 => some s.service
  | 3 => some s.coresIn.length
  | 5 => some s.clockMhz
  | 17 => some 512
  | 18 => some s.hbmRate
  | 19 => some s.lpddrGb
  | 20 => some (0x0E + s.fmtTop)
  | 21 => some (s.mmaFmt core)
  | 30 => some ((s.dies.foldl (fun a d => if d.tstate = .locked then a + 2 ^ d.id else a) 0) + 256 * Config.epsilon)
  | 34 => some (1 + 2 * b2n s.ohl1)
  | 35 => some ((List.range 8).foldl (fun a e => if (s.port e).enum && (s.port e).inserv then a + 2 ^ e else a) 0)
  | _ => (Config.fixedCaps.find? (fun p => p.1 == n)).map (fun p => p.2)

end Sys2Proof.Machine
end

