-- ==== Sys2Proof/Machine/Flags.lean ====
section
/-! DEFINITION. Number formats, exact values, rounding and the sticky flags (05_formats.md). -/

namespace Sys2Proof.Machine

/-- The sticky flags in FSTAT's bit order (R146). -/
abbrev Flags := BitVec 5
def flagIV : Flags := 1
def flagDZ : Flags := 2
def flagOF : Flags := 4
def flagUF : Flags := 8
def flagNX : Flags := 16

/-- Rounding modes (R143). -/
def rne : Nat := 0
def rz : Nat := 1
def rup : Nat := 2
def rdn : Nat := 3

/-- An exact value (R137, R144): a NaN with its sign and whether it signals, an infinity, or ±(m + θ) × 2^e where θ is 0
when `more` is false and lies strictly between 0 and 1 when it is true. -/
inductive Num where
  | nan (neg sig : Bool)
  | inf (neg : Bool)
  | fin (neg : Bool) (m : Nat) (e : Int) (more : Bool)
deriving DecidableEq, Repr

/-- A floating-point format (R137, R138): exponent and mantissa bits, bias, infinities, NaNs, and the largest finite value
as maxM × 2^maxQ. -/
structure Fmt where
  eb   : Nat
  mb   : Nat
  bias : Int
  inf  : Bool
  nan  : Bool
  maxM : Nat
  maxQ : Int
deriving DecidableEq, Repr

def fp64 : Fmt := ⟨11, 52, 1023, true, true, 2 ^ 53 - 1, 971⟩
def fp32 : Fmt := ⟨8, 23, 127, true, true, 2 ^ 24 - 1, 104⟩
def bf16 : Fmt := ⟨8, 7, 127, true, true, 255, 120⟩
def e5m2 : Fmt := ⟨5, 2, 15, true, true, 7, 13⟩
def e4m3 : Fmt := ⟨4, 3, 7, false, true, 14, 5⟩
def e2m3 : Fmt := ⟨2, 3, 1, false, false, 15, -1⟩
def e2m1 : Fmt := ⟨2, 1, 1, false, false, 3, 1⟩

/-- The floating-point format of a format code (R136). -/
def fmtOf : Nat → Option Fmt
  | 0 => some fp32 | 1 => some bf16 | 2 => some e4m3 | 3 => some e5m2 | 4 => some e2m3 | 5 => some e2m1 | 8 => some fp64
  | _ => none

/-- Bits of an element of a format code (R136). -/
def fmtBits : Nat → Nat
  | 0 => 32 | 1 => 16 | 2 => 8 | 3 => 8 | 4 => 6 | 5 => 4 | 6 => 8 | 7 => 16 | 8 => 64 | 9 => 32 | 10 => 8 | _ => 0

/-- The exact value of a bit pattern (R137, R138). -/
def Fmt.decode (f : Fmt) (x : Nat) : Num :=
  let mant := bits x 0 f.mb
  let ex := bits x f.mb f.eb
  let neg := bit x (f.mb + f.eb)
  let ones := 2 ^ f.eb - 1
  if f.inf && ex == ones then
    (if mant = 0 then .inf neg else .nan neg (!bit mant (f.mb - 1)))
  else if f.nan && !f.inf && ex == ones && mant == 2 ^ f.mb - 1 then .nan neg false
  else if ex = 0 then .fin neg mant (1 - f.bias - f.mb) false
  else .fin neg (2 ^ f.mb + mant) (ex - f.bias - f.mb) false

/-- A sign bit placed above a format's magnitude. -/
def Fmt.signed (f : Fmt) (neg : Bool) (mag : Nat) : Nat := mag + field (b2n neg) (f.eb + f.mb) 1

/-- The infinity of a format. -/
def Fmt.infBits (f : Fmt) (neg : Bool) : Nat := f.signed neg ((2 ^ f.eb - 1) * 2 ^ f.mb)

/-- The canonical quiet NaN with a sign (R138). -/
def Fmt.qnan (f : Fmt) (neg : Bool) : Nat :=
  f.signed neg (if f.inf then (2 ^ f.eb - 1) * 2 ^ f.mb + 2 ^ (f.mb - 1) else 2 ^ (f.eb + f.mb) - 1)

/-- The largest finite value with a sign. -/
def Fmt.maxBits (f : Fmt) (neg : Bool) : Nat :=
  f.signed neg (if f.inf then (2 ^ f.eb - 1) * 2 ^ f.mb - 1 else if f.nan then 2 ^ (f.eb + f.mb) - 2 else 2 ^ (f.eb + f.mb) - 1)

/-- The quotient n of a magnitude (m + θ) × 2^e by 2^q, whether it is exact, and whether it rounds up under the mode. -/
def roundAt (neg : Bool) (m : Nat) (e : Int) (more : Bool) (q : Int) (rm : Nat) : Nat × Bool :=
  if q ≤ e then
    let n := m <<< (e - q).toNat
    (if more && ((rm == rup && !neg) || (rm == rdn && neg)) then n + 1 else n, !more)
  else
    let k := (q - e).toNat
    let n := m >>> k
    let r := m % 2 ^ k
    let half := 2 ^ (k - 1)
    let exact := r == 0 && !more
    let up := match rm with
      | 0 => decide (half < r) || (r == half && (more || n % 2 == 1))
      | 1 => false
      | 2 => !neg && !exact
      | _ => neg && !exact
    (if up then n + 1 else n, exact)

/-- RoundTo of R144 and R162: the bits of the result and the flags it raises. A NaN keeps its sign. -/
def roundTo (f : Fmt) (rm : Nat) (sat : Bool) : Num → Nat × Flags
  | .nan neg sig =>
    if f.nan then (f.qnan neg, if sig then flagIV else 0) else (f.signed neg 0, flagIV)
  | .inf neg => if f.inf && !sat then (f.infBits neg, 0) else (f.maxBits neg, flagIV)
  | .fin neg m e more =>
    if m = 0 ∧ more = false then (f.signed neg 0, 0)
    else
      let top : Int := if m = 0 then e - 1 else e + (Nat.log2 m : Int)
      let q := max (top - f.mb) (1 - f.bias - f.mb)
      let r := roundAt neg m e more q rm
      let n := r.1
      if decide (f.maxQ < q) || (decide (q = f.maxQ) && decide (f.maxM < n)) then
        let fl := flagOF ||| flagNX
        if sat || !f.inf || rm == rz || (rm == rup && neg) || (rm == rdn && !neg) then (f.maxBits neg, fl)
        else (f.infBits neg, fl)
      else
        let fl : Flags := if r.2 then 0 else if n < 2 ^ f.mb then flagNX ||| flagUF else flagNX
        if n < 2 ^ f.mb then (f.signed neg n, fl)
        else if n = 2 ^ (f.mb + 1) then (f.signed neg ((q + f.mb + 1 + f.bias).toNat * 2 ^ f.mb), fl)
        else (f.signed neg ((q + f.mb + f.bias).toNat * 2 ^ f.mb + (n - 2 ^ f.mb)), fl)

/-- The invalid result: the canonical quiet NaN with sign 0, and IV (R145). -/
def invalid : Num × Flags := (.nan false false, flagIV)

/-- NaN operands of an operation (R145): some result if any operand is a NaN. -/
def nanOf (l : List Num) : Option (Num × Flags) :=
  if l.any (fun x => match x with | .nan _ _ => true | _ => false) then
    some (.nan false false, if l.any (fun x => match x with | .nan _ true => true | _ => false) then flagIV else 0)
  else none

/-- The sign of a value. -/
def Num.neg : Num → Bool
  | .nan n _ => n
  | .inf n => n
  | .fin n _ _ _ => n

/-- The value with its sign turned. -/
def Num.negate : Num → Num
  | .nan n s => .nan n s
  | .inf n => .inf (!n)
  | .fin n m e x => .fin (!n) m e x

/-- Zero, exactly. -/
def Num.isZero : Num → Bool
  | .fin _ 0 _ false => true
  | _ => false

def Num.isNan : Num → Bool
  | .nan _ _ => true
  | _ => false

def Num.isFinite : Num → Bool
  | .fin _ _ _ _ => true
  | _ => false

/-- The signed integer of an exact dyadic at an exponent no greater than its own. -/
def scaled (neg : Bool) (m : Nat) (e q : Int) : Int :=
  let x : Int := (m <<< (e - q).toNat : Nat)
  if neg then -x else x

/-- The exact sum, with the zero signs of R282; rm is the rounding mode that the sum will be rounded under. -/
def addNum (rm : Nat) (a b : Num) : Num × Flags :=
  match nanOf [a, b] with
  | some r => r
  | none =>
    match a, b with
    | .inf x, .inf y => if x = y then (.inf x, 0) else invalid
    | .inf x, _ => (.inf x, 0)
    | _, .inf y => (.inf y, 0)
    | .fin n m e _, .fin n' m' e' _ =>
      let q := min e e'
      let x := scaled n m e q + scaled n' m' e' q
      if x = 0 then
        if m = 0 ∧ m' = 0 ∧ n = n' then (.fin n 0 0 false, 0) else (.fin (rm == rdn) 0 0 false, 0)
      else (.fin (decide (x < 0)) x.natAbs q false, 0)
    | _, _ => invalid

/-- The exact product (R145). -/
def mulNum (a b : Num) : Num × Flags :=
  match nanOf [a, b] with
  | some r => r
  | none =>
    let s := a.neg != b.neg
    match a, b with
    | .fin _ m e _, .fin _ m' e' _ => (.fin s (m * m') (e + e') false, 0)
    | _, _ => if a.isZero || b.isZero then invalid else (.inf s, 0)

/-- The quotient to 2^−200 of its leading bit, the rest noted in `more` (R145). -/
def divNum (a b : Num) : Num × Flags :=
  match nanOf [a, b] with
  | some r => r
  | none =>
    let s := a.neg != b.neg
    match a, b with
    | .inf _, .inf _ => invalid
    | .inf _, _ => (.inf s, 0)
    | _, .inf _ => (.fin s 0 0 false, 0)
    | .fin _ m e _, .fin _ m' e' _ =>
      if m' = 0 then (if m = 0 then invalid else (.inf s, flagDZ))
      else
        let k := 200 + Nat.log2 m'
        (.fin s ((m <<< k) / m') (e - e' - k) ((m <<< k) % m' != 0), 0)
    | _, _ => invalid

/-- The order of two numbers that are not NaN: −1, 0 or 1; −0 equals +0. -/
def cmpNum (a b : Num) : Int :=
  match a, b with
  | .inf x, .inf y => if x = y then 0 else if x then -1 else 1
  | .inf x, _ => if x then -1 else 1
  | _, .inf y => if y then 1 else -1
  | .fin n m e _, .fin n' m' e' _ =>
    let q := min e e'
    let d := scaled n m e q - scaled n' m' e' q
    if d < 0 then -1 else if d = 0 then 0 else 1
  | _, _ => 0

/-- The order that puts −0 below +0 (R283, R179). -/
def ltSigned (a b : Num) : Bool :=
  decide (cmpNum a b < 0) || (decide (cmpNum a b = 0) && a.neg && !b.neg)

/-- Floor of the square root, bit by bit from 2^k down. -/
def isqrtFrom : Nat → Nat → Nat → Nat
  | 0, n, acc => if (acc + 1) * (acc + 1) ≤ n then acc + 1 else acc
  | k + 1, n, acc =>
    let t := acc + 2 ^ (k + 1)
    isqrtFrom k n (if t * t ≤ n then t else acc)

/-- Floor of the square root. -/
def isqrt (n : Nat) : Nat := isqrtFrom (Nat.log2 n / 2) n 0

/-- √x for x > 0 (R153). -/
def sqrtPos (m : Nat) (e : Int) : Num :=
  let k : Nat := if e % 2 = 0 then 200 else 201
  let n := m <<< k
  let r := isqrt n
  .fin false r ((e - k) / 2) (r * r != n)

/-- 1/√x for x > 0 (R153). -/
def rsqrtPos (m : Nat) (e : Int) : Num :=
  let base := 400 + 2 * Nat.log2 m
  let k : Nat := if e % 2 = 0 then base else base + 1
  -- √(2^k / m) × 2^((−e − k) / 2)
  let n := 2 ^ k / m
  let r := isqrt n
  .fin false r ((-e - k) / 2) (r * r != n || 2 ^ k % m != 0)

/-- Σ 1/(i 2^i) for i from n down to 1, to p fraction bits: ln 2. -/
def ln2Sum : Nat → Nat → Nat
  | 0, _ => 0
  | i + 1, p => 2 ^ p / ((i + 1) * 2 ^ (i + 1)) + ln2Sum i p

/-- ln 2 to p fraction bits, short by less than p units. -/
def ln2 (p : Nat) : Nat := ln2Sum p p

/-- 1 + t/1 (1 + t/2 (1 + …)) with n terms, to p fraction bits. -/
def expHorner : Nat → Nat → Nat → Nat → Nat
  | 0, _, _, p => 2 ^ p
  | n + 1, i, t, p => 2 ^ p + ((t * expHorner n (i + 1) t p) >>> p) / i

/-- 2^(f/2^p) for 0 ≤ f < 2^p, to p fraction bits, within 2^16 units. -/
def exp2Frac (f p : Nat) : Nat := expHorner (p / 2) 1 ((f * ln2 p) >>> p) p

/-- 2^x of a finite x (R153), to 152 bits. -/
def exp2Fin (neg : Bool) (m : Nat) (e : Int) : Num :=
  if 0 ≤ e ∧ 20 < e ∧ m ≠ 0 then (if neg then .fin false 1 (-100000) true else .fin false 1 100000 true)
  else
    let k := (-e).toNat
    let x : Int := if neg then -(m <<< e.toNat : Nat) else (m <<< e.toNat : Nat)
    let n := x / (2 ^ k : Int)
    let fr := (x - n * 2 ^ k).toNat
    if fr = 0 then .fin false 1 (max (-100000) (min 100000 n)) false
    else if n < -100000 then .fin false 1 (-100000) true
    else if 100000 < n then .fin false 1 100000 true
    else
      let p := 224
      let f := if k ≤ p then fr <<< (p - k) else fr >>> (k - p)
      let y := exp2Frac f p
      let lo := max (2 ^ p) (y - 2 ^ 20)
      let hi := min (2 ^ (p + 1) - 1) (y + 2 ^ 20)
      -- lo and hi agree above bit 40 for every operand of the part's formats (assumption 9)
      .fin false ((if lo >>> 40 = hi >>> 40 then lo else y) >>> 40) (n - p + 40) true

/-- Σ z^(2i+1)/(2i+1) by Horner: z2 is z², n terms left, the next odd divisor d. -/
def atanhHorner : Nat → Nat → Nat → Nat → Nat
  | 0, _, _, _ => 0
  | n + 1, d, z2, p => 2 ^ p / d + (z2 * atanhHorner n (d + 2) z2 p) >>> p

/-- log2 of m × 2^e, m > 0 (R153), to about 150 bits. That the exact zero of LOG2 of 1 is +0 is the model's choice (assumption 149). -/
def log2Pos (m : Nat) (e : Int) : Num :=
  let l := Nat.log2 m
  let top : Int := e + l
  if m = 2 ^ l then .fin (decide (top < 0)) top.natAbs 0 false
  else
    let p := 320
    let y := m <<< p >>> l                       -- in [1, 2) with p fraction bits
    let z := (y - 2 ^ p) * 2 ^ p / (y + 2 ^ p)
    let g := 2 * (z * atanhHorner (p / 3) 1 ((z * z) >>> p) p) / ln2 p
    let v : Int := top * 2 ^ p + g
    .fin (decide (v < 0)) (v.natAbs >>> 60) (60 - p) true

/-- The functions of R153. -/
inductive MathFn where
  | exp2 | log2 | rcp | rsq | sqrt
deriving DecidableEq, Repr

/-- The exact value of a function with its special values and flags (R153). -/
def mathNum (f : MathFn) (x : Num) : Num × Flags :=
  match nanOf [x] with
  | some r => r
  | none =>
    match f, x with
    | .exp2, .inf n => (if n then .fin false 0 0 false else .inf false, 0)
    | .exp2, .fin n m e _ => (exp2Fin n m e, 0)
    | .rcp, .inf n => (.fin n 0 0 false, 0)
    | .rcp, .fin n m e _ => if m = 0 then (.inf n, flagDZ) else divNum (.fin false 1 0 false) (.fin n m e false)
    | .sqrt, .fin n m e _ => if m = 0 then (x, 0) else if n then invalid else (sqrtPos m e, 0)
    | .sqrt, .inf n => if n then invalid else (x, 0)
    | .rsq, .inf n => if n then invalid else (.fin false 0 0 false, 0)
    | .rsq, .fin n m e _ => if m = 0 then (.inf n, flagDZ) else if n then invalid else (rsqrtPos m e, 0)
    | .log2, .inf n => if n then invalid else (x, 0)
    | .log2, .fin n m e _ => if m = 0 then (.inf true, flagDZ) else if n then invalid else (log2Pos m e, 0)
    | _, _ => invalid

/-- An exact value with the flags of its operation, rounded once; flags are ORed. -/
def roundNum (f : Fmt) (rm : Nat) (r : Num × Flags) : Nat × Flags :=
  let x := roundTo f rm false r.1
  (x.1, x.2 ||| r.2)

/-- FP32 operations under RNE, on bit patterns (R144). -/
def f32add (a b : Nat) : Nat × Flags := roundNum fp32 rne (addNum rne (fp32.decode a) (fp32.decode b))
def f32mul (a b : Nat) : Nat × Flags := roundNum fp32 rne (mulNum (fp32.decode a) (fp32.decode b))
def f32div (a b : Nat) : Nat × Flags := roundNum fp32 rne (divNum (fp32.decode a) (fp32.decode b))
def f32sub (a b : Nat) : Nat × Flags := roundNum fp32 rne (addNum rne (fp32.decode a) (fp32.decode b).negate)
def f32fn (f : MathFn) (a : Nat) : Nat × Flags := roundNum fp32 rne (mathNum f (fp32.decode a))

/-- a × b + c rounded once (R282); 0 × ∞ gives the invalid result whatever c holds. -/
def fmaNum (rm : Nat) (a b c : Num) : Num × Flags :=
  match mulNum a b with
  | (p, fl) =>
    if fl ≠ 0 ∧ a.isNan = false ∧ b.isNan = false then invalid
    else match nanOf [a, b, c] with
      | some r => r
      | none => addNum rm p c

/-- The smaller or larger operand, −0 below +0, NaN by R145 (R283). -/
def minMaxNum (max : Bool) (a b : Num) : Num × Flags :=
  match nanOf [a, b] with
  | some r => r
  | none => (if ltSigned a b == max then b else a, 0)

/-- Comparisons of R283 and whether each sets IV. -/
inductive FCmp where
  | eq | lt | le | un
deriving DecidableEq, Repr

/-- The comparison and its IV (R283). -/
def compareNum (k : FCmp) (a b : Num) : Bool × Flags :=
  let sig := match nanOf [a, b] with | some (_, f) => f | none => 0
  let un := a.isNan || b.isNan
  match k with
  | .eq => (!un && decide (cmpNum a b = 0), sig)
  | .un => (un, sig)
  | .lt => (!un && decide (cmpNum a b < 0), if un then flagIV else 0)
  | .le => (!un && decide (cmpNum a b ≤ 0), if un then flagIV else 0)

/-- The class word of VFCLS (R284). -/
def classOf (f : Fmt) (x : Nat) : Nat :=
  match f.decode x with
  | .nan _ sig => if sig then 2 ^ 8 else 2 ^ 9
  | .inf n => if n then 1 else 2 ^ 7
  | .fin n m _ _ =>
    if m = 0 then (if n then 2 ^ 3 else 2 ^ 4)
    else if m < 2 ^ f.mb then (if n then 2 ^ 2 else 2 ^ 5)
    else if n then 2 ^ 1 else 2 ^ 6

/-- A float rounded by rm to an integer of n bits (R149). -/
def floatToInt (rm n : Nat) : Num → Nat × Flags
  | .nan _ _ => (0, flagIV)
  | .inf neg => (if neg then 2 ^ (n - 1) else 2 ^ (n - 1) - 1, flagIV)
  | .fin neg m e more =>
    if 70 < e ∧ m ≠ 0 then (if neg then 2 ^ (n - 1) else 2 ^ (n - 1) - 1, flagIV)
    else
      let r := roundAt neg m e more 0 rm
      let v : Int := if neg then -(r.1 : Int) else r.1
      if v < -(2 ^ (n - 1) : Int) then (2 ^ (n - 1), flagIV)
      else if (2 ^ (n - 1) : Int) ≤ v then (2 ^ (n - 1) - 1, flagIV)
      else (toBits v n, if r.2 then 0 else flagNX)

/-- An exact integer as a value. -/
def intNum (x : Int) : Num := .fin (decide (x < 0)) x.natAbs 0 false

/-- The exact value of an E8M0 code (R139, R150). -/
def e8m0Num (x : Nat) : Num := if x % 256 = 255 then .nan false false else .fin false 1 ((x % 256 : Int) - 127) false

/-- Floor of log2 of a positive magnitude. -/
def topBit (m : Nat) (e : Int) : Int := e + Nat.log2 m

/-- Conversion to E8M0 (R150). -/
def toE8m0 : Num → Nat × Flags
  | .nan _ _ => (255, flagIV)
  | .inf _ => (255, flagIV)
  | .fin _ m e _ =>
    if m = 0 then (0, flagUF ||| flagNX)
    else
      let k := topBit m e
      if k < -127 then (0, flagUF ||| flagNX)
      else if 127 < k then (254, flagOF ||| flagNX)
      else ((k + 127).toNat, if m = 2 ^ Nat.log2 m then 0 else flagNX)

/-- Integer width of a format code: INT8, or code 9 as INT32 or, with wide, INT64. -/
def intWidth (code : Nat) (wide : Bool) : Option Nat :=
  if code = 6 then some 8 else if code = 9 then some (if wide then 64 else 32) else none

/-- Convert of R149 and R150: source bits to target bits. -/
def convert (src tgt : Nat) (swide twide : Bool) (rm : Nat) (sat : Bool) (x : Nat) : Nat × Flags :=
  match intWidth src swide with
  | some n =>
    let v := sext x n
    match intWidth tgt twide with
    | some k =>
      let lo : Int := -(2 ^ (k - 1) : Int)
      let hi : Int := 2 ^ (k - 1) - 1
      if v < lo then (toBits lo k, flagIV) else if hi < v then (toBits hi k, flagIV) else (toBits v k, 0)
    | none =>
      if tgt = 10 then toE8m0 (intNum v)
      else match fmtOf tgt with
        | some f => roundTo f rm sat (intNum v)
        | none => (0, 0)
  | none =>
    let v : Num := if src = 10 then e8m0Num x else match fmtOf src with
      | some f => f.decode (x % 2 ^ fmtBits src)
      | none => .fin false 0 0 false
    match intWidth tgt twide with
    | some k => floatToInt rm k v
    | none =>
      if tgt = 10 then toE8m0 v
      else match fmtOf tgt with
        | some f => roundTo f rm sat v
        | none => (0, 0)

/-! ### Block scaling (R151, R152) -/

/-- A value times 2^(s − 127). -/
def scaleNum (x : Num) (s : Nat) : Num :=
  match x with
  | .fin n m e more => .fin n m (e + (s : Int) - 127) more
  | y => y

/-- MXDecode (R162). -/
def mxDecode (code s x : Nat) : Num :=
  match fmtOf code with
  | none => .nan false false
  | some f =>
    let v := f.decode (x % 2 ^ fmtBits code)
    if s = 255 || v.isNan then .nan false false else scaleNum v s

/-- emax of R152. -/
def emaxOf : Nat → Int
  | 3 => 15 | 2 => 8 | _ => 2

/-- floor(log2) of the largest magnitude, none when every value is zero. -/
def topOf (l : List Num) : Option Int :=
  l.foldl (fun acc x => match x with
    | .fin _ m e _ => if m = 0 then acc else match acc with
      | none => some (topBit m e)
      | some k => some (max k (topBit m e))
    | _ => acc) none

/-- MXQuant (R152): the scale, the elements and the flags. -/
def mxQuant (code : Nat) (l : List Num) : Nat × List Nat × Flags :=
  match fmtOf code with
  | none => (127, [], 0)
  | some f =>
    let k : Int := match topOf l with
      | none => 0
      | some t => max (-127) (min 127 (t - emaxOf code))
    let r := l.map (fun x => roundTo f rne true (match x with | .fin n m e more => .fin n m (e - k) more | y => y))
    ((k + 127).toNat, r.map (fun p => p.1), r.foldl (fun a p => a ||| p.2) 0)

/-! ### The codebook (R141, R142) -/

/-- The key of a code tuple: Σ (2 c + 1)² over the components of a 16-bit entry (R142). -/
def cbKey (x : Nat) : Nat :=
  (List.range 8).foldl (fun a j => a + (2 * bits x (2 * j) 2 + 1) ^ 2) 0

/-- The reset CBMAG: the first 256 code tuples in order of key and then value (R142). -/
def cbReset : List Nat :=
  [0x0, 0x1, 0x4, 0x10, 0x40, 0x100, 0x400, 0x1000, 0x4000, 0x5, 0x11, 0x14, 0x41, 0x44, 0x50, 0x101] ++
  [0x104, 0x110, 0x140, 0x401, 0x404, 0x410, 0x440, 0x500, 0x1001, 0x1004, 0x1010, 0x1040, 0x1100, 0x1400, 0x4001, 0x4004] ++
  [0x4010, 0x4040, 0x4100, 0x4400, 0x5000, 0x2, 0x8, 0x15, 0x20, 0x45, 0x51, 0x54, 0x80, 0x105, 0x111, 0x114] ++
  [0x141, 0x144, 0x150, 0x200, 0x405, 0x411, 0x414, 0x441, 0x444, 0x450, 0x501, 0x504, 0x510, 0x540, 0x800, 0x1005] ++
  [0x1011, 0x1014, 0x1041, 0x1044, 0x1050, 0x1101, 0x1104, 0x1110, 0x1140, 0x1401, 0x1404, 0x1410, 0x1440, 0x1500, 0x2000, 0x4005] ++
  [0x4011, 0x4014, 0x4041, 0x4044, 0x4050, 0x4101, 0x4104, 0x4110, 0x4140, 0x4401, 0x4404, 0x4410, 0x4440, 0x4500, 0x5001, 0x5004] ++
  [0x5010, 0x5040, 0x5100, 0x5400, 0x8000, 0x6, 0x9, 0x12, 0x18, 0x21, 0x24, 0x42, 0x48, 0x55, 0x60, 0x81] ++
  [0x84, 0x90, 0x102, 0x108, 0x115, 0x120, 0x145, 0x151, 0x154, 0x180, 0x201, 0x204, 0x210, 0x240, 0x402, 0x408] ++
  [0x415, 0x420, 0x445, 0x451, 0x454, 0x480, 0x505, 0x511, 0x514, 0x541, 0x544, 0x550, 0x600, 0x801, 0x804, 0x810] ++
  [0x840, 0x900, 0x1002, 0x1008, 0x1015, 0x1020, 0x1045, 0x1051, 0x1054, 0x1080, 0x1105, 0x1111, 0x1114, 0x1141, 0x1144, 0x1150] ++
  [0x1200, 0x1405, 0x1411, 0x1414, 0x1441, 0x1444, 0x1450, 0x1501, 0x1504, 0x1510, 0x1540, 0x1800, 0x2001, 0x2004, 0x2010, 0x2040] ++
  [0x2100, 0x2400, 0x4002, 0x4008, 0x4015, 0x4020, 0x4045, 0x4051, 0x4054, 0x4080, 0x4105, 0x4111, 0x4114, 0x4141, 0x4144, 0x4150] ++
  [0x4200, 0x4405, 0x4411, 0x4414, 0x4441, 0x4444, 0x4450, 0x4501, 0x4504, 0x4510, 0x4540, 0x4800, 0x5005, 0x5011, 0x5014, 0x5041] ++
  [0x5044, 0x5050, 0x5101, 0x5104, 0x5110, 0x5140, 0x5401, 0x5404, 0x5410, 0x5440, 0x5500, 0x6000, 0x8001, 0x8004, 0x8010, 0x8040] ++
  [0x8100, 0x8400, 0x9000, 0x16, 0x19, 0x25, 0x46, 0x49, 0x52, 0x58, 0x61, 0x64, 0x85, 0x91, 0x94, 0x106] ++
  [0x109, 0x112, 0x118, 0x121, 0x124, 0x142, 0x148, 0x155, 0x160, 0x181, 0x184, 0x190, 0x205, 0x211, 0x214, 0x241]

/-- CB2Decode (R141): the eight weights of an index under a scale. mag gives CBMAG's entries. -/
def cb2Decode (mag : Nat → Nat) (index s : Nat) : List Num :=
  let row := mag (bits index 0 8)
  let sgn := bits index 8 7
  (List.range 8).map (fun j =>
    if s = 255 then .nan false false
    else
      let neg := if j = 7 then popcount sgn 7 % 2 == 1 else bit sgn j
      -- quarters: ±(4 c + 2) + OFS
      let c : Int := 4 * bits row (2 * j) 2 + 2
      let q : Int := (if neg then -c else c) + b2n (bit index 15)
      .fin (decide (q < 0)) q.natAbs ((s : Int) - 127 - 2) false)

end Sys2Proof.Machine
end

