-- ==== Sys2Proof/Machine/Operands.lean ====
section
/-! DEFINITION. Operand forms: which registers an instruction reads and writes and in what order (R220), which hints it
accepts (R224), its immediates (R211, R216), poison in its sources (R102, R239, R274), and the shared shapes of an
instruction that acts once and of one that acts lane by lane. -/

namespace Sys2Proof.Machine

/-! ### Registers as sources -/

/-- s r as one source. -/
def sref (r : Nat) : List RegRef := [.s r]
/-- A q pair as one source (R212). -/
def qref (r : Nat) : List RegRef := [.s r, .s (r + 1)]
/-- A group of n s registers as one source. -/
def sgroup (r n : Nat) : List RegRef := (List.range n).map (fun i => RegRef.s (r + i))
/-- A group of n v registers as one source. -/
def vref (r n : Nat) : List RegRef := (List.range n).map (fun i => RegRef.v (r + i))
/-- An s register or a q pair. -/
def sqref (wide : Bool) (r : Nat) : List RegRef := if wide then qref r else sref r

/-- Registers v r to v (r + n − 1) exist in this launch (R212). -/
def Cx.vok (c : Cx) (r n : Nat) : Bool := decide (r + n ≤ c.grid.vregs)

/-- An s or k register of the list is poisoned; k0 never is. -/
def Cx.onePoison (c : Cx) (l : List RegRef) : Bool :=
  l.any (fun r => match r with
    | .s n => c.warp.sPois n
    | .k n => decide (n ≠ 0) && c.warp.kPois n
    | _ => false)

/-- A v element of the list is poisoned in the lane. -/
def Cx.lanePoison (c : Cx) (l : List RegRef) (lane : Nat) : Bool :=
  l.any (fun r => match r with
    | .v n => c.warp.vPois n lane
    | _ => false)

/-- Lanes of the combined mask that use a poisoned source (R102, R274). -/
def Cx.poisonLanes (c : Cx) (srcs : List (List RegRef)) : Mask :=
  let l := srcs.flatten
  if c.onePoison l then c.combined else maskOf ((lanes c.combined).filter (fun n => c.lanePoison l n))

/-! ### Accepted hints (R224) -/

/-- Scalar arithmetic and branches: HIMM. -/
def accImm : Accept := { Accept.none with himm := true }
/-- Vector integer, V3: HGRD and MOD8 by its own test; HADD for VMAD only. -/
def accVec (mod8 : Nat → Bool) (hadd : Bool) : Accept := { Accept.none with hgrd := true, hmod := true, mod8 := mod8, hadd := hadd }
/-- Vector integer, VI. -/
def accVecImm (mod8 : Nat → Bool) : Accept := { accVec mod8 false with himm := true }
/-- Vector float: TEN, RMV and RM; HADD for VFMA only. -/
def accFloat (hadd : Bool) : Accept := { Accept.none with hgrd := true, hmod := true, ten := true, rm := true, hadd := hadd }
/-- Conversion: TEN, MOD8, and RM for VCVT (R285). -/
def accConv (rm : Bool) (mod8 : Nat → Bool) : Accept :=
  { Accept.none with hgrd := true, hmod := true, ten := true, rm := rm, mod8 := mod8 }
/-- Cross-lane: TEN, MOD8, HFIL. -/
def accCross (mod8 : Nat → Bool) : Accept :=
  { Accept.none with hgrd := true, hmod := true, ten := true, mod8 := mod8, hfil := true }
/-- Memory forms: HIMM, HGRD, an order and scope test and a MOD8 test. -/
def accMem (ord : Nat → Nat → Bool) (mod8 : Nat → Bool) : Accept :=
  { Accept.none with himm := true, hgrd := true, hmod := true, ord := ord, mod8 := mod8 }
/-- Major 0x27 and major 0x30: an HMOD whose fields are zero (R317, R333). -/
def accNoMod : Accept := { Accept.none with hmod := true }
/-- No modifier byte. -/
def noMod8 (m : Nat) : Bool := m == 0

/-! ### Immediates -/

/-- The payload of the group's HIMM. -/
def Cx.ihi (c : Cx) : Option Nat := (c.hint 0).map (fun p => p.toNat)

/-- An immediate field of w bits, extended by HIMM and sign-extended (R211, R216). -/
def Cx.imm (c : Cx) (w x : Nat) : Int :=
  match c.ihi with
  | none => sext x w
  | some p => sext (p * 2 ^ w + x) (w + 23)

/-- The second source of a scalar instruction: an s register or q pair, or the HIMM value (R245). -/
def Cx.sb (c : Cx) (n b : Nat) : BitVec n :=
  match c.ihi with
  | some p => BitVec.ofInt n (sext p 23)
  | none => (c.warp.qreg b).truncate n

/-- An s register or q pair as n bits. -/
def Cx.sa (c : Cx) (n a : Nat) : BitVec n := (c.warp.qreg a).truncate n

/-- A v element or d pair as n bits. -/
def Cx.va (c : Cx) (n a l : Nat) : BitVec n := (c.warp.dreg a l).truncate n

/-- The second source of a V3 instruction (R210): a vector element, or a scalar used in every lane. -/
def Cx.vb (c : Cx) (n b : Nat) (bs : Bool) (l : Nat) : BitVec n := if bs then c.sa n b else c.va n b l

/-- The addend of VMAD and VFMA: the HADD register, else the old destination (R222). -/
def Cx.addend (c : Cx) (n d l : Nat) : BitVec n :=
  match c.hint 6 with
  | some p => c.vb n (bits p.toNat 0 7) (bit p.toNat 7) l
  | none => c.va n d l

/-- The addend as a source (R220), with the check of its register (R212, R222). -/
def Cx.addendRef (c : Cx) (wide : Bool) (d : Nat) : List RegRef × Bool :=
  let n := if wide then 2 else 1
  match c.hint 6 with
  | some p =>
    let r := bits p.toNat 0 7
    let ev := !wide || r % 2 == 0
    if bit p.toNat 7 then (sqref wide r, ev) else (vref r n, ev && c.vok r n)
  | none => (vref d n, true)

/-! ### Writes -/

/-- A v element or d pair written with a value of 32 or 64 bits. -/
def vwrite (wide : Bool) (r l x : Nat) (p : Bool) : List RegWrite :=
  if wide then [.v r l (BitVec.ofNat 32 x) p, .v (r + 1) l (BitVec.ofNat 32 (x / 2 ^ 32)) p]
  else [.v r l (BitVec.ofNat 32 x) p]

/-- An s register or q pair written. -/
def swrite (wide : Bool) (r x : Nat) (p : Bool) : List RegWrite :=
  if wide then [.s r (BitVec.ofNat 32 x) p, .s (r + 1) (BitVec.ofNat 32 (x / 2 ^ 32)) p] else [.s r (BitVec.ofNat 32 x) p]

/-! ### Instructions that act once -/

/-- What the common checks see of an instruction that acts once on scalar sources: poison in any of them raises POISON with
the active mask (R239). -/
def once (enc : Bool) (acc : Accept) (c : Cx) (srcs : List (List RegRef)) (dsts : List RegRef) : Issue :=
  { enc := enc, acc := acc, priv := false, srcs := srcs, dsts := dsts,
    poison := if c.onePoison srcs.flatten then c.split.mask else 0, pinfo := 0 }

/-- A result of one cycle: registers written, the instruction complete. -/
def State.now (s : State) (c : Cx) (w : List RegWrite) : State := (s.onWarp c (fun x => x.writeAll c.grid.w w)).advance c

/-! ### Instructions that act lane by lane -/

/-- What the common checks see of an instruction that acts lane by lane. -/
def perLane (enc : Bool) (acc : Accept) (c : Cx) (srcs : List (List RegRef)) (dsts : List RegRef) : Issue :=
  { enc := enc, acc := acc, priv := false, srcs := srcs, dsts := dsts, poison := c.poisonLanes srcs, pinfo := 0 }

/-- The end of an instruction that acts lane by lane: nothing under an empty combined mask (R217); ARITH when a lane raises a
flag that TEN enables, with nothing written (R148); else its destinations are empty until the result is written (R273). The
triples are a lane, its writes and its flags. -/
def State.vecDone (s : State) (c : Cx) (dsts : List RegRef) (res : List (Nat × List RegWrite × Flags)) : State :=
  if c.combined = 0 then s.advance c
  else
    let bad := maskOf ((res.filter (fun r => r.2.2 &&& c.ten != 0)).map (fun r => r.1))
    if bad ≠ 0 then s.trap c .arith bad 0
    else s.later c dsts (res.flatMap (fun r => r.2.1)) (res.foldl (fun f r => f ||| r.2.2) 0)

/-- Bits of a k register: those of the combined mask new, the others kept (R278). -/
def Cx.kmerge (c : Cx) (d : Nat) (new : List Nat) : Mask := (c.warp.kreg d &&& ~~~c.combined) ||| maskOf new

/-- The end of an instruction that writes one bit of a k register for each lane (R278, R283). The triples are a lane, its
bit and its flags. -/
def State.maskDone (s : State) (c : Cx) (d : Nat) (res : List (Nat × Bool × Flags)) : State :=
  if c.combined = 0 then s.advance c
  else
    let bad := maskOf ((res.filter (fun r => r.2.2 &&& c.ten != 0)).map (fun r => r.1))
    if bad ≠ 0 then s.trap c .arith bad 0
    else s.later c [.k d] [.k d (c.kmerge d ((res.filter (fun r => r.2.1)).map (fun r => r.1)))]
      (res.foldl (fun f r => f ||| r.2.2) 0)

end Sys2Proof.Machine
end

