-- ==== Sys2Proof/Machine/Kv.lean ====
section
/-! DEFINITION. The key-value arena: sentence records, slot words, frames and their elements (R163 to R178). -/

namespace Sys2Proof.Machine

/-! ### Reaching memory by virtual address -/

/-- The physical addresses of n bytes from a virtual address, byte by byte; the first fault with its page. -/
def State.vaBytes (s : State) (d ctx va : Nat) (n : Need) : Nat → Except (WalkFault × Nat) (List Nat)
  | 0 => .ok []
  | k + 1 =>
    match s.translate d ctx (va % vaMod) n with
    | .error f => .error (f, va % vaMod / 65536 * 65536)
    | .ok t =>
      match State.vaBytes s d ctx (va + 1) n k with
      | .ok l => .ok (t.pa :: l)
      | .error e => .error e

/-- Bytes of physical memory as die d sees them, at listed addresses. -/
def State.viewAt (s : State) (d : Nat) (l : List Nat) : List Byte := l.map (fun a => s.viewByte d a)

/-- Some listed byte lies in a poisoned word. -/
def State.poisonAt (s : State) (l : List Nat) : Bool := l.any (fun a => s.poisoned a 1)

/-! ### The sentence record (R169, R170) -/

/-- A sentence record as read. -/
structure SentRec where
  slots : Nat
  n     : Nat
  oldSlots : Nat
  oldN  : Nat
  fwd   : Bool
  bound : Nat
  h     : Nat
  dsel  : Nat
  gm1   : Nat
  lm1   : Nat
  sinks : Nat
  len   : Nat
  thr   : List Nat
  cold  : Nat
  age   : List Nat
  cage  : Nat
  hot   : Nat
  hwin  : Nat
  den   : Bool
  ten   : Bool
  gen   : Nat
deriving DecidableEq, Repr

/-- The record's fields from its 128 bytes (R169). -/
def SentRec.read (l : List Byte) : SentRec :=
  let a := leAt l 0 16
  let g := leAt l 16 8
  { slots := bits a 0 40, n := bits a 40 5, oldSlots := bits a 48 40, oldN := bits a 88 5, fwd := bit a 93,
    bound := bits a 96 17, h := bits g 0 6, dsel := bits g 6 2, gm1 := bits g 8 4, lm1 := bits g 12 3,
    sinks := bits g 24 5, len := leAt l 24 3 % 2 ^ 23, thr := [leAt l 32 4, leAt l 36 4, leAt l 40 4],
    cold := leAt l 44 4, age := [leAt l 48 1, leAt l 49 1, leAt l 50 1], cage := leAt l 51 1, hot := leAt l 52 2,
    hwin := leAt l 54 1, den := bit (leAt l 55 1) 0, ten := bit (leAt l 55 1) 1, gen := leAt l 56 4 }

/-- ARRAY of a later reading replaces that of the first (R171). -/
def SentRec.withArray (r new : SentRec) : SentRec :=
  { r with slots := new.slots, n := new.n, oldSlots := new.oldSlots, oldN := new.oldN, fwd := new.fwd, bound := new.bound }

/-- The record is valid (R170); values outside a field's column count as reserved. -/
def sentValid (l : List Byte) : Bool :=
  let a := leAt l 0 16
  let g := leAt l 16 8
  let r := SentRec.read l
  bits a 45 3 == 0 && bits a 94 2 == 0 && bits a 113 15 == 0 && bits a 0 12 == 0 && bits a 48 12 == 0
    && bit g 15 == false && bits g 20 4 == 0 && bits g 29 35 == 0 && bits (leAt l 24 8) 23 41 == 0
    && bits (leAt l 55 1) 2 6 == 0 && leAt l 60 68 == 0
    && r.dsel != 3 && bits g 16 4 == 6 && r.h != 0 && decide (r.h ≤ 32) && decide (r.sinks ≤ 16)
    && decide (r.n ≤ 16) && decide (r.len ≤ 64 * 2 ^ r.n)
    && (!r.fwd || (r.n == r.oldN + 1 && decide (r.bound ≤ 2 ^ r.oldN)))
    && (!r.ten || r.hwin != 0)

/-- Width D of a head (R169). -/
def SentRec.d (r : SentRec) : Nat := 64 * 2 ^ r.dsel
/-- Layers Λ. -/
def SentRec.layers (r : SentRec) : Nat := r.lm1 + 1
/-- Query heads G of a key-value head. -/
def SentRec.g (r : SentRec) : Nat := r.gm1 + 1
/-- Pages P (R172). -/
def SentRec.pages (r : SentRec) : Nat := ceilDiv r.len 64
/-- Bytes of a page summary (R172). -/
def SentRec.sumSize (r : SentRec) : Nat := r.layers * r.h * r.d * 4
/-- Elements E of a frame (R166). -/
def SentRec.elems (r : SentRec) : Nat := r.layers * 2 * r.h * 64 * r.d

/-! ### Frames (R165, R166) -/

/-- Format code of a stage. -/
def stageFmt : Nat → Nat
  | 0 => 1 | 1 => 2 | 2 => 4 | _ => 5

/-- ELEMOFF of a frame of E elements at a stage (R166). -/
def elemOff (e stage : Nat) : Nat := 4096 * ceilDiv (512 + (if stage = 0 then 0 else e / 32)) 4096

/-- Granules of a frame (R166). -/
def frameGranules (e stage : Nat) : Nat := ceilDiv (elemOff e stage + e * fmtBits (stageFmt stage) / 8) 4096

/-- Physical base of a part of the arena and its granules. -/
def Ctx.part (c : Ctx) (far : Bool) : Nat × Nat := if far then (c.afar, c.afarsz) else (c.anear, c.anearsz)

/-- The physical address of a frame of so many granules, none if some granule lies outside the part (R163, R165). -/
def Ctx.frame (c : Ctx) (far : Bool) (f granules : Nat) : Option Nat :=
  if f + granules ≤ (c.part far).2 then some ((c.part far).1 + 4096 * f) else none

/-- The physical address of near-arena bytes, none if some byte lies outside the near part (R165). -/
def Ctx.nearBytes (c : Ctx) (o n : Nat) : Option Nat := if o + n ≤ 4096 * c.anearsz then some (c.anear + o) else none

/-- Byte and bit width of block b: its 32 elements lie at these offsets of the frame (R166). -/
def blockBytes (e stage b : Nat) : List Nat :=
  let n := 4 * fmtBits (stageFmt stage)
  (List.range n).map (fun i => elemOff e stage + b * n + i)

/-! ### Slots (R173, R176 to R178) -/

/-- A page slot word (R176). -/
structure Slot where
  frame : Nat
  tier  : Bool
  stage : Nat
  present : Bool
  moving : Bool
  declining : Bool
  pinned : Bool
  nonfinite : Bool
  forwarded : Bool
  sgen  : Nat
  mass  : Nat
  selcnt : Nat
  age   : Nat
deriving DecidableEq, Repr

/-- A slot word from its 16 bytes (R176). -/
def Slot.read (l : List Byte) : Slot :=
  let x := leAt l 0 16
  { frame := bits x 0 32, tier := bit x 32, stage := bits x 33 2, present := bit x 35, moving := bit x 36,
    declining := bit x 37, pinned := bit x 38, nonfinite := bit x 39, forwarded := bit x 40, sgen := bits x 48 16,
    mass := bits x 64 32, selcnt := bits x 96 16, age := bits x 112 8 }

/-- A slot word's 16 bytes (R176). -/
def Slot.bytes (w : Slot) : List Byte :=
  toBytes (w.frame % 2 ^ 32 + field (b2n w.tier) 32 1 + field w.stage 33 2 + field (b2n w.present) 35 1
    + field (b2n w.moving) 36 1 + field (b2n w.declining) 37 1 + field (b2n w.pinned) 38 1
    + field (b2n w.nonfinite) 39 1 + field (b2n w.forwarded) 40 1 + field w.sgen 48 16 + field w.mass 64 32
    + field w.selcnt 96 16 + field w.age 112 8) 16

/-- The word is valid (R177). -/
def slotValid (l : List Byte) : Bool :=
  let w := Slot.read l
  bits (leAt l 0 16) 41 7 == 0 && bits (leAt l 0 16) 120 8 == 0 && !(w.moving && w.declining)
    && (w.present || !(w.moving || w.declining || w.pinned || w.nonfinite))

/-- What stops a reading of the arena: INFO of an ACCESS (R173, R178), or KVARENA with its granule and tier (R165). -/
inductive KvStop where
  | access (info : Nat)
  | arena (granule : Nat) (far : Bool)
deriving DecidableEq, Repr

/-- Where slot i stands: the near-arena offset of its array's base, log2 of its slots, and the index (R173). -/
def slotPlace (r : SentRec) (i : Nat) : Except KvStop (Nat × Nat) :=
  let p := if r.fwd && decide (r.bound ≤ i) then (r.oldSlots, r.oldN) else (r.slots, r.n)
  if 2 ^ p.2 ≤ i then .error (.access i) else .ok p

/-- The physical address of the slot word in an array at a near-arena offset. -/
def slotAddr (c : Ctx) (base i : Nat) : Except KvStop Nat :=
  match c.nearBytes (base + 16 * i) 16 with
  | some a => .ok a
  | none => .error (.arena ((base + 16 * i) / 4096) false)

/-- ResolveSlot (R173): the base of the word's array in the near arena, the log2 of its slots, and the bytes read. r is the reading of
ARRAY that places the slot; a forwarding word sends on to the array that fwd names. read gives 16 bytes of physical memory. -/
def resolveSlotAt (c : Ctx) (read : Nat → List Byte) (r fwd : SentRec) (i : Nat) : Except KvStop (Nat × Nat × List Byte) :=
  match slotPlace r i with
  | .error e => .error e
  | .ok p =>
    match slotAddr c p.1 i with
    | .error e => .error e
    | .ok a =>
      let w := read a
      if (Slot.read w).forwarded then
        match slotAddr c fwd.slots i with
        | .error e => .error e
        | .ok a' => .ok (fwd.slots, fwd.n, read a')
      else .ok (p.1, p.2, w)

/-- ResolveSlot of a reader, which takes the whole of it from one reading of ARRAY (R173). -/
def resolveSlot (c : Ctx) (read : Nat → List Byte) (r : SentRec) (i : Nat) : Except KvStop (Nat × Nat × List Byte) :=
  resolveSlotAt c read r r i

/-- ResolveSlot with the check of R178: the array's base and log2, the word, valid. -/
def readSlot (c : Ctx) (read : Nat → List Byte) (r : SentRec) (i : Nat) : Except KvStop (Nat × Nat × Slot) :=
  match resolveSlot c read r i with
  | .error e => .error e
  | .ok (b, n, w) => if slotValid w then .ok (b, n, Slot.read w) else .error (.access (b + 16 * i))

/-- The near-arena offset of slot i's summary (R172). -/
def summaryOff (r : SentRec) (base n i : Nat) : Nat := base + 16 * 2 ^ n + i * r.sumSize

/-- The frame of a present slot: its physical address (R165). -/
def slotFrame (c : Ctx) (r : SentRec) (w : Slot) : Except KvStop Nat :=
  match c.frame w.tier w.frame (frameGranules r.elems w.stage) with
  | some a => .ok a
  | none => .error (.arena w.frame w.tier)

/-- The decoded elements of block b of a frame, exactly (R166, R196): read gives bytes of physical memory. -/
def frameBlock (read : Nat → Byte) (frame e stage b : Nat) : List Num :=
  let x := ofBytes ((blockBytes e stage b).map (fun o => read (frame + o)))
  let code := stageFmt stage
  let w := fmtBits code
  (List.range 32).map (fun j =>
    if stage = 0 then bf16.decode (bits x (16 * j) 16)
    else mxDecode code (read (frame + 512 + b)).toNat (bits x (w * j) w))

/-- TOKSIZE[t] of a frame (R167). -/
def tokSize (read : Nat → Byte) (frame t : Nat) : Nat := (read (frame + 2 * t)).toNat + 256 * (read (frame + 2 * t + 1)).toNat

/-- Index of element (l, kv, h, t, d) (R166). -/
def elemIndex (r : SentRec) (l kv h t d : Nat) : Nat := (((l * 2 + kv) * r.h + h) * 64 + t) * r.d + d

/-- The record's 128 bytes at a virtual address, read by die d under a context, or the fault with its page. -/
def State.readRec (s : State) (d ctx va : Nat) : Except (WalkFault × Nat) (List Nat) := s.vaBytes d ctx va .load 128

/-- The record as its home holds it now, or as read before where it has no translation: its ARRAY sends on the atomics that meet a
forwarding word (R173). -/
def State.recNow (s : State) (d ctx recd : Nat) (r : SentRec) : SentRec :=
  match s.readRec d ctx recd with
  | .ok l => r.withArray (SentRec.read (l.map (fun a => memByte s.mem a)))
  | .error _ => r

/-- The slot word that an atomic of an engine or an instruction reaches at its home (R173). -/
def State.homeSlot (s : State) (d ctx recd : Nat) (r : SentRec) (i : Nat) : Except KvStop (Nat × Nat × List Byte) :=
  resolveSlotAt (s.ctx ctx) (fun a => s.home a 16) r (s.recNow d ctx recd r) i

/-- An atomic change of slot i's word at its home (R173, R178), written by die d. An invalid or unreachable word is left. -/
def State.slotAtomic (s : State) (d ctx recd : Nat) (r : SentRec) (i : Nat) (f : Slot → Option Slot) : State :=
  match s.homeSlot d ctx recd r i with
  | .error _ => s
  | .ok (b, _, w) =>
    if slotValid w then
      match f (Slot.read w), slotAddr (s.ctx ctx) b i with
      | some x, .ok a => if x.bytes = w then s else s.writeAt d a x.bytes
      | _, _ => s
    else s

end Sys2Proof.Machine
end

