-- ==== Sys2Proof/Machine/Window.lean ====
section
/-! DEFINITION. The BF16 window onto block-scaled data (R97 to R100). -/

namespace Sys2Proof.Machine

/-- A window descriptor (R97). Reserved fields are not read, and a format code other than 2, 4 and 5 decodes as that code does elsewhere, for
R97 gives neither a fate (assumption 142). -/
structure WinDesc where
  base  : Nat
  elem  : Nat
  scale : Nat
  count : Nat
  fmt   : Nat
  kv    : Bool
  recd  : Nat
  slot  : Nat
deriving DecidableEq, Repr

/-- A descriptor's fields from its 64 bytes; KVREF is the record's address and then the slot index (assumption 20). -/
def WinDesc.read (l : List Byte) : WinDesc :=
  let c := leAt l 24 8
  { base := leAt l 0 8 % 2 ^ 57, elem := leAt l 8 8 % 2 ^ 57, scale := leAt l 16 8 % 2 ^ 57, count := bits c 0 40,
    fmt := bits c 40 4, kv := bit c 44, recd := leAt l 32 8 % 2 ^ 57, slot := leAt l 40 4 }

/-- A stored block: its format code (1 for the BF16 of a stage-0 page), the bits from one element to the next, the physical addresses
of its elements' bytes and of its scale. -/
structure WinBlock where
  fmt   : Nat
  step  : Nat
  elems : List Nat
  scale : Option Nat
  busy  : Bool                  -- a page whose frame is being replaced (R201)
  pois  : Bool                  -- its record or slot word is poisoned (R102)
deriving DecidableEq, Repr

/-- Bits from one element to the next: frames pack (R166), other storage gives an E2M3 element a byte (R136). -/
def winStep (kv : Bool) (fmt : Nat) : Nat := if !kv && fmt == 4 then 8 else fmtBits fmt

/-- The physical bytes of a block. -/
def WinBlock.bytes (b : WinBlock) : List Nat := b.elems ++ b.scale.toList

/-- What stops a window access: a fault with its page, KVARENA, or ACCESS. -/
inductive WinStop where
  | fault (f : WalkFault) (page : Nat)
  | kv (k : KvStop)
deriving DecidableEq, Repr

/-- Block b of the view, its bases resolved now (R97, R166, R173). -/
def State.winBlock (s : State) (d ctx : Nat) (w : WinDesc) (b : Nat) (n : Need) : Except WinStop WinBlock :=
  if w.kv then
    match s.readRec d ctx w.recd with
    | .error e => .error (.fault e.1 e.2)
    | .ok pas =>
      let l := s.viewAt d pas
      if !sentValid l then .error (.kv (.access w.recd))
      else
        let r := SentRec.read l
        match readSlot (s.ctx ctx) (fun a => s.view d a 16) r w.slot with
        | .error k => .error (.kv k)
        | .ok (base, _, sl) =>
          if !sl.present then .error (.kv (.access w.slot))
          else match slotFrame (s.ctx ctx) r sl with
            | .error k => .error (.kv k)
            | .ok f =>
              let word := match slotAddr (s.ctx ctx) base w.slot with | .ok a => s.poisoned a 16 | .error _ => false
              .ok ⟨stageFmt sl.stage, winStep true (stageFmt sl.stage), (blockBytes r.elems sl.stage b).map (fun o => f + o),
                if sl.stage = 0 then none else some (f + 512 + b), sl.moving || sl.declining, word || s.poisonAt pas⟩
  else
    let k := 4 * winStep false w.fmt
    match s.vaBytes d ctx (w.elem + k * b) n k with
    | .error e => .error (.fault e.1 e.2)
    | .ok es =>
      match s.vaBytes d ctx (w.scale + b) n 1 with
      | .error e => .error (.fault e.1 e.2)
      | .ok sc => .ok ⟨w.fmt, winStep false w.fmt, es, sc.head?, false, false⟩

/-! ### Races with the stored bytes (R100) -/

/-- Global bytes that a pending operation still writes at its home. -/
def OpKind.writesAt (k : OpKind) (a : Nat) : Bool :=
  let f := fun (l : List LaneAcc) (z : Nat) => l.any (fun x => x.win.isNone && decide (x.pa ≤ a) && decide (a < x.pa + z))
  match k with
  | .atom _ l z _ _ _ => f l z
  | .stt l z _ _ _ _ _ _ _ _ => f l z
  | .row _ _ _ l true => f l 16
  | _ => false

/-- The write records of a warp's pending stores. -/
def State.writesOf (s : State) (w : Nat) : List Nat :=
  s.ops.filterMap (fun o => if o.warp = w then (match o.kind with
    | .store n _ _ _ => some n
    | .engine n _ _ => some n
    | _ => none) else none)

/-- A write of another agent than the warp to the block's storage is on its way (R100). -/
def State.raced (s : State) (w : Nat) (b : WinBlock) : Bool :=
  s.posted.any (fun x => !(s.writesOf w).contains x.id && x.bytes.any (fun c => b.bytes.contains c.1))
    || s.ops.any (fun o => o.warp != w && b.bytes.any (fun a => o.kind.writesAt a))

/-- The block is left undefined (R100): free bytes at its home, and of the writes on their way nothing. -/
def State.looseBlock (s : State) (d : Nat) (b : WinBlock) : State :=
  let r := s.freeBytes b.bytes.length
  let w := r.1.posted.map (fun (x : Write) => { x with bytes := x.bytes.filter (fun c => !b.bytes.contains c.1) })
  let s := { r.1 with posted := w }
  s.writeNow d (b.bytes.zip r.2) []

/-- The block as an alias access of the warp finds it: undefined where a write to its storage races the access (R100). -/
def State.meetBlock (s : State) (w d : Nat) (b : WinBlock) : State := if s.raced w b then s.looseBlock d b else s

/-- FLAGS bits of the descriptor (R97): IV, OF, UF, NX from flags in FSTAT's order. -/
def winFlags (f : Flags) : Nat :=
  b2n (f &&& flagIV != 0) + 2 * b2n (f &&& flagOF != 0) + 4 * b2n (f &&& flagUF != 0) + 8 * b2n (f &&& flagNX != 0)

/-- FLAGS bits ORed into the descriptor at its home, atomically: the die's writes on their way come first (R97, R105). -/
def State.winRaise (s : State) (d desc : Nat) (f : Flags) : State :=
  if winFlags f = 0 then s
  else
    let s := s.flushTo d s.uid
    let old := memByte s.mem (desc + 56)
    let new := old ||| BitVec.ofNat 8 (winFlags f)
    if new = old then s else s.writeAt d (desc + 56) [new]

/-- BF16 bits of one stored element with its flags (R98). -/
def winElem (fmt scale x : Nat) : Nat × Flags :=
  if fmt = 1 then (x % 2 ^ 16, 0)
  else
    let neg := bit x (fmtBits fmt - 1)
    match mxDecode fmt scale x with
    | .nan _ _ => (bf16.qnan neg, flagIV)
    | v => roundTo bf16 rne false v

/-- Element j of a block as stored, from bytes of physical memory, so many bits from element to element. -/
def blockElem (fmt step : Nat) (l : List Byte) (j : Nat) : Nat := bits (ofBytes l) (step * j) (fmtBits fmt)

/-- The physical bytes that element j of a block is read from: those that hold a bit of it, and its scale. -/
def WinBlock.elemBytes (b : WinBlock) (j : Nat) : List Nat :=
  let lo := b.step * j / 8
  ((b.elems.drop lo).take ((b.step * j + fmtBits b.fmt - 1) / 8 + 1 - lo)) ++ b.scale.toList

/-- A window read of n bytes at va by a warp, 0 for another agent (R98): the bytes, which of its 4-byte elements read a poisoned word
and the flags. An element reads the words that hold its bits and its block's scale, and a key-value page its record and slot word
(assumption 141). An element outside the view is a free value (R97 states none). -/
def State.winRead (s : State) (w d ctx desc va n : Nat) : Except WinStop (List Byte × List Nat × Flags × State) :=
  let x := WinDesc.read (s.view d desc 64)
  (List.range (n / 2)).foldl (fun acc i =>
    match acc with
    | .error e => .error e
    | .ok (l, p, f, s) =>
      let e := (va - x.base) / 2 + i
      if va < x.base ∨ x.count ≤ e then
        let (y, s) := s.draw
        .ok (l ++ toBytes y.toNat 2, p, f, s)
      else
        match s.winBlock d ctx x (e / 32) .load with
        | .error k => .error k
        | .ok b =>
          let s := s.meetBlock w d b
          let sc := match b.scale with | some a => (s.viewByte d a).toNat | none => 0
          let r := winElem b.fmt sc (blockElem b.fmt b.step (s.viewAt d b.elems) (e % 32))
          .ok (l ++ toBytes r.1 2, if b.pois || s.poisonAt (b.elemBytes (e % 32)) then ladd p (i / 2) else p, f ||| r.2, s))
    (.ok ([], [], 0, s))

/-- New contents of a block after some elements are replaced with BF16 values (R99): scale and element codes with flags. A stage-0 page
stores BF16 and has no scale for R99's 0xFF: it takes the bits as they are, a NaN or an infinity among them, and raises no flag
(assumption 127). -/
def winBlockNew (fmt scale : Nat) (old : List Nat) (put : List (Nat × Nat)) : Nat × List Nat × Flags :=
  if fmt = 1 then (0, put.foldl (fun l p => lset l p.1 p.2) old, 0)
  else
    let dec := old.map (fun x => mxDecode fmt scale x)
    let new := put.foldl (fun l p => lset l p.1 (bf16.decode p.2)) dec
    if new.all Num.isFinite then
      let q := mxQuant fmt new
      (q.1, q.2.1, q.2.2 &&& (flagOF ||| flagNX))
    else (255, List.replicate 32 0, flagIV)

/-- Codes laid so many bits apart over the old contents; bits between elements keep their values (assumption 125). -/
def layCodes (fmt step old : Nat) (l : List Nat) : Nat :=
  match l with
  | [] => 0
  | x :: r => x % 2 ^ fmtBits fmt + bits old (fmtBits fmt) (step - fmtBits fmt) * 2 ^ fmtBits fmt
      + layCodes fmt step (old / 2 ^ step) r * 2 ^ step

/-- Codes packed at their natural width (R136, R166). -/
def packCodes (fmt : Nat) (l : List Nat) : List Byte := toBytes (layCodes fmt (fmtBits fmt) 0 l) (4 * fmtBits fmt)

/-- One block's read-modify-write at its home (R99); elements named are replaced. Where another write to the block's storage races it, the
block is left undefined (R100). R196 step 4 writes a frame's header; an alias write
makes no new frame, and the header of the old one stands (assumption 126). -/
def State.winWriteBlock (s : State) (warp d ctx desc : Nat) (w : WinDesc) (b : Nat) (put : List (Nat × Nat)) (poison : Bool) : State :=
  match s.winBlock d ctx w b .store with
  | .error _ => s
  | .ok k =>
    if s.raced warp k then s.looseBlock d k else
    let s := s.flushTo d s.uid
    let bytes := k.elems.map (fun a => memByte s.mem a)
    let sc := match k.scale with | some a => (memByte s.mem a).toNat | none => 0
    let old := (List.range 32).map (fun j => blockElem k.fmt k.step bytes j)
    let r := winBlockNew k.fmt sc old put
    let cells := k.elems.zip (toBytes (layCodes k.fmt k.step (ofBytes bytes) r.2.1) (4 * k.step))
      ++ (k.scale.toList.map (fun a => (a, BitVec.ofNat 8 r.1)))
    let s := s.writeNow d cells (cells.map (fun c => (c.1, 1, poison || k.pois)))
    s.winRaise d desc r.2.2

/-- Elements of a window write: the element index, BF16 bits and poison of each lane, in lane order. -/
def winPuts (w : WinDesc) (accs : List LaneAcc) : List (Nat × Nat × Bool) :=
  accs.flatMap (fun a => (List.range (a.data.length / 2)).map (fun i => ((a.va - w.base) / 2 + i, leAt a.data (2 * i) 2, a.poison.contains (i / 2))))

/-- The blocks of a key-value page that a write would reach are being replaced, so it waits at the home (R201); the slot word is read
there. -/
def State.winBusy (s : State) (d ctx : Nat) (accs : List LaneAcc) : Bool :=
  let s := if accs.all (fun a => a.win.isNone) then s else s.applyAll d
  accs.any (fun a => match a.win with
    | some desc =>
      let w := WinDesc.read (s.view d desc 64)
      w.kv && (match s.winBlock d ctx w ((a.va - w.base) / 64) .store with | .ok k => k.busy | .error _ => false)
    | none => false)

/-- Window writes of several lanes by a warp, 0 for another agent, block by block (R99, R307), after a device-scope acquire of the slot
words (R198). A poisoned element poisons the blocks that it reaches and no other (R102). -/
def State.winWrite (s : State) (warp d ctx : Nat) (accs : List LaneAcc) : State :=
  if accs = [] then s
  else
    ((accs.filterMap (fun a => a.win)).eraseDups).foldl (fun s desc =>
      let w := WinDesc.read (s.view d desc 64)
      let mine := accs.filter (fun a => a.win == some desc && decide (w.base ≤ a.va))
      let puts := (winPuts w mine).filter (fun p => decide (p.1 < w.count))
      (((puts.map (fun p => p.1 / 32)).eraseDups)).foldl (fun s b =>
        let here := puts.filter (fun p => p.1 / 32 == b)
        s.winWriteBlock warp d ctx desc w b (here.map (fun p => (p.1 % 32, p.2.1))) (here.any (fun p => p.2.2))) s) (s.applyAll d)

/-- A KV window descriptor is among the lanes': its access counts as a frame reader (R200). -/
def State.kvLanes (s : State) (d : Nat) (accs : List LaneAcc) : Bool :=
  accs.any (fun a => match a.win with
    | some desc => (WinDesc.read (s.view d desc 64)).kv
    | none => false)

end Sys2Proof.Machine
end

