-- ==== Sys2Proof/Machine/Access.lean ====
section
/-! DEFINITION. What the memory instructions share: addresses of lanes (R88, R304), their translation and checks (R306), the
waits of program order, release and acquire (R108, R112), and parking on faults (R66). -/

namespace Sys2Proof.Machine

/-- The offset of lane l: the element of the offset register, sign-extended, plus the scaled immediate (R304). -/
def Cx.offset (c : Cx) (vo w im z l : Nat) : Int := (c.warp.vreg vo l).toInt + c.imm w im * z

/-- Base plus offset, modulo 2^57. -/
def vaAt (base : Nat) (off : Int) : Nat := (((base : Int) + off) % (vaMod : Int)).toNat

/-- Where a lane's access goes: an access with the page's atomic capability, or a fault with its address. -/
inductive Reach where
  | ok (a : LaneAcc) (ac : Bool)
  | fault (lane : Nat) (code : FaultCode) (malformed : Bool) (va : Nat)
deriving DecidableEq, Repr

/-- The register's frame permits the access (R88). -/
def TReg.permits (t : TReg) : Need → Bool
  | .load => t.rd | .store => t.wr | .atomic => t.rd && t.wr | .fetch => false

/-- The lane's access is served by the register's frame (R88). -/
def TReg.covers (t : TReg) (off : Int) (z : Nat) : Bool :=
  t.valid && !t.stale && decide (0 ≤ off) && decide (off + z ≤ t.limit)

/-- The stores that a lane's data makes (R102): the whole of it, then each of its poisoned elements. -/
def LaneAcc.spans (a : LaneAcc) (z : Nat) : List (Nat × Nat × Bool) :=
  (a.pa, z, false) :: a.poison.map (fun i => (a.pa + 4 * i, min z 4, true))

/-- One lane's path under R88. A lane that the register's frame serves is not translated, and R87 keeps no PMODE: what R422 asks of its
poison is read from the leaf of its address, and is that of PMODE 0 where there is none (assumption 128). -/
def State.reach (s : State) (d ctx : Nat) (t : TReg) (n : Need) (z lane : Nat) (off : Int) : Reach :=
  let va := vaAt t.base off
  if t.covers off z then
    let pm := match s.leaf d ctx va with | .ok x => bits x.pte 11 2 | .error _ => 0
    if t.permits n then .ok ⟨lane, va, t.pa + off.toNat, [], [], none, pm, some t.asid⟩ t.ac else .fault lane .perm false va
  else match s.translate d ctx va n with
    | .ok x => .ok ⟨lane, va, x.pa, [], [], x.window, bits x.pte 11 2, none⟩ (bit x.pte 5)
    | .error f => .fault lane f.1 f.2 va

/-- The lane's address lies in the BF16 window, whether or not the access is permitted (R100). -/
def State.inWindow (s : State) (d ctx : Nat) (t : TReg) (z : Nat) (off : Int) : Bool :=
  !t.covers off z && (match s.leaf d ctx (vaAt t.base off) with | .ok x => x.window.isSome | .error _ => false)

/-- Accesses among the lanes' paths. -/
def oksOf (l : List Reach) : List LaneAcc := l.filterMap (fun r => match r with | .ok a _ => some a | _ => none)

/-- The address that a lane reaches for (R72), 0 for a lane not listed. -/
def vaOfLane : List Reach → Nat → Nat
  | [], _ => 0
  | .ok a _ :: r, n => if a.lane = n then a.va else vaOfLane r n
  | .fault l _ _ va :: r, n => if l = n then va else vaOfLane r n

/-- Faults among the lanes' paths: lane, code, malformed, address. -/
def faultsOf (l : List Reach) : List (Nat × FaultCode × Bool × Nat) :=
  l.filterMap (fun r => match r with | .fault n f m p => some (n, f, m, p) | _ => none)

/-- The address of the fault that a list gives a lane. -/
def faultVa (l : List (Nat × FaultCode × Bool × Nat)) (n : Nat) : Nat := ((l.find? (fun f => f.1 == n)).map (fun f => f.2.2.2)).getD 0

/-- The instruction parks on its lanes' faults; the record's code is that of the lowest lane (R426), whose address is kept for
the ACCESS that the fault may become (R67, R72). -/
def State.parkOn (s : State) (c : Cx) (kind : Nat) (f : List (Nat × FaultCode × Bool × Nat)) (m : Mask)
    (raised : Option (Path × Nat)) (va : Nat → Nat) : State :=
  match sortBy (fun (a b : Nat × FaultCode × Bool × Nat) => decide (a.1 < b.1)) f with
  | [] => s
  | x :: _ => s.park c x.2.1 kind x.2.2.1 m (f.map (fun y => y.2.2.2)) (va x.1) raised

/-- The instruction is a replay that has kept its raise of the counter (R91). -/
def Cx.keeps (c : Cx) (p : Path) : Bool :=
  match c.warp.replay with
  | some (_, _, some (q, _)) => q == p
  | _ => false

/-- The arrival counter has room for n more, or the raise was kept by a parked instruction (R91). -/
def Cx.room (c : Cx) (p : Path) (n : Nat) : Bool := c.keeps p || decide (c.warp.count p + n ≤ 255)

/-- A counter raised by n, unless the replayed instruction kept its raise (R91). -/
def State.raise (s : State) (c : Cx) (p : Path) (n : Nat) : State :=
  if c.keeps p then s else s.onWarp c (fun w => w.setCount p (w.count p + n))

/-- An instruction that counts on a path, if on any, parks at issue on a fault of an address and keeps its raise (R91). -/
def State.parkCounted (s : State) (c : Cx) (path : Option Path) (kind : Nat) (e : WalkFault × Nat) : State :=
  match path with
  | some p => (s.raise c p 1).park c e.1.1 kind e.1.2 c.split.mask [e.2] e.2 (some (p, 1))
  | none => s.park c e.1.1 kind e.1.2 c.split.mask [e.2] e.2 none

/-- A pending operation, whose registers are empty until it ends; its number is returned. -/
def State.begin (s : State) (c : Cx) (full : List RegRef) (path : Option (Path × Nat)) (kind : OpKind) : State × Nat :=
  ((s.addOp c full path kind).onWarp c (fun w => w.markAll true full), s.uid)

/-- An instruction that parks on a fault leaves its destinations empty until its replay has filled them (R93, R308). -/
def State.owe (s : State) (c : Cx) (l : List RegRef) : State :=
  if c.ctx.priv then s else s.onWarp c (fun w => { (w.markAll true l) with owed := l })

/-- The operation of this number counts as a frame reader of die d until it ends, where it reads a KV window (R200). -/
def State.readKv (s : State) (d id : Nat) (accs : List LaneAcc) : State :=
  if s.kvLanes d accs then
    let r := s.readerIn d
    { r.1 with ops := r.1.ops.map (fun o => if o.id = id then { o with par := r.2 } else o) }
  else s

/-- The access is of the lane; an engine of the warp has none and is ordered with every lane (R120, R121). -/
def LaneAcc.ofLane (a : LaneAcc) (lane : Option Nat) : Bool :=
  match lane with
  | some l => a.lane == l
  | none => true

/-- Global bytes that a pending operation of the warp still has to touch, and that a later access of the lane must find touched
(R108, R120): loads, atomics, tensed loads and rows. A load made again after a save has no translation yet and may touch any. -/
def OpKind.touches (k : OpKind) (lane : Option Nat) (pa n : Nat) : Bool :=
  let f := fun (l : List LaneAcc) (z : Nat) (g : LaneAcc → Bool) => l.any (fun a => a.win.isNone && g a && overlaps a.pa z pa n)
  match k with
  | .load l z _ _ _ _ form _ => (form == 0 && f l z (fun a => a.ofLane lane)) || (form == 2 && l.any (fun a => a.ofLane lane))
  | .atom _ l z _ _ _ => f l z (fun a => a.ofLane lane)
  | .ldt l z _ _ _ arrived got _ =>
    f l z (fun a => a.ofLane lane && !got.contains a.lane) || (arrived == [64] && l.any (fun a => a.ofLane lane))
  | .row _ _ _ l _ => f l 16 (fun _ => true)
  | _ => false

/-- The operation only reads rows: rows have no order among themselves (R120). -/
def OpKind.readsRows (k : OpKind) : Bool :=
  match k with
  | .row _ _ _ _ sc => !sc
  | _ => false

/-- An operation of the warp older than n has still to touch the bytes before the lane's access may (R108). -/
def State.before (s : State) (w n : Nat) (lane : Option Nat) (pa z : Nat) : Bool :=
  s.ops.any (fun o => o.warp == w && decide (o.id < n) && o.kind.touches lane pa z)

/-- The same for a row that the tile-copy engine reads: it waits for no other such row (R120). -/
def State.beforeRow (s : State) (w n pa : Nat) : Bool :=
  s.ops.any (fun o => o.warp == w && decide (o.id < n) && !o.kind.readsRows && o.kind.touches none pa 16)

/-- The warp has a pending access that must come before the lanes' store or atomic (R108). -/
def State.behind (s : State) (w : Nat) (l : List LaneAcc) (z : Nat) : Bool :=
  l.any (fun a => a.win.isNone && s.before w s.uid (some a.lane) a.pa z)

/-- The operation writes the window when it is performed (R99, R120, R121). -/
def OpKind.winWrites (k : OpKind) : Bool :=
  match k with
  | .store _ l _ _ => l.any (fun a => a.win.isSome)
  | .engine _ l _ => !l.isEmpty
  | .row _ _ _ l sc => sc && l.any (fun a => a.win.isSome)
  | _ => false

/-- The warp has window writes older than n not yet performed (R99, R108). -/
def State.winOlder (s : State) (w n : Nat) : Bool := s.ops.any (fun o => o.warp == w && decide (o.id < n) && o.kind.winWrites)

/-- The warp has window writes not yet performed (R99, R108). -/
def State.winPending (s : State) (w : Nat) : Bool := s.winOlder w s.uid

/-- A release of the warp waits for the operation: it is an access not yet performed (R112, R318). A tensed store is one until each
of its lanes is held at its home or done there (R132). -/
def OpKind.holdsRelease (k : OpKind) : Bool :=
  match k with
  | .load _ _ _ _ _ _ _ _ => true
  | .atom _ _ _ _ _ _ => true
  | .remote _ _ _ _ _ => true
  | .row _ _ _ _ _ => true
  | .engine _ _ _ => true
  | .slotReq _ _ _ _ _ _ => true
  | .ldt _ _ _ _ _ _ _ _ => true
  | .stt l _ _ _ _ _ held gone _ _ => l.any (fun a => !(held.any (fun h => h.1 == a.lane) || gone.contains a.lane))
  | .store _ l _ _ => l.any (fun a => a.win.isSome)
  | _ => false

/-- What a release at a scope orders is performed for every agent in the scope (R112): the warp's pending accesses have
ended, and for scopes 5 and 6 every write of the die is applied on every die. -/
def State.released (s : State) (w d scope : Nat) : Bool :=
  !(s.ops.any (fun o => o.warp == w && o.kind.holdsRelease)) && (decide (scope < 5) || s.drained d)

/-- The write-back of a system-scope release (R123). -/
def State.sysRelease (s : State) (d scope : Nat) : State := if scope = 6 then s.writeBackSeen d else s

/-- A write of another die has yet to come to die d over a lost link, so that no acquire of device scope takes effect there (R112, R466). -/
def State.acquireHeld (s : State) (d : Nat) : Bool :=
  s.wlog.any (fun w => w.performed && !w.applied.contains d && (s.homesOf w.bytes).any (fun h => !s.reaches h d))

/-- An acquire at a scope can take effect on die d. -/
def State.acquires (s : State) (d scope : Nat) : Bool := decide (scope < 5) || !s.acquireHeld d

/-- An acquire at a scope on a die (R112). -/
def State.acquire (s : State) (d scope : Nat) : State := if 5 ≤ scope then s.applyAll d else s

/-! ### Private blocks as global memory (R86) -/

/-- A private block (R85): its virtual range, and the frames of its pages, each as virtual address, physical address and bytes. -/
structure PrivBlock where
  base : Nat
  size : Nat
  frames : List (Nat × Nat × Nat)
deriving DecidableEq, Repr

/-- The frames of the pages of a virtual range; a page without a translation has none (R421). -/
def State.framesOf (s : State) (d ctx va n : Nat) : List (Nat × Nat × Nat) :=
  (List.range (n / 65536 + 2)).filterMap (fun i =>
    let lo := max va ((va / 65536 + i) * 65536)
    let hi := min (va + n) ((va / 65536 + i + 1) * 65536)
    if hi ≤ lo then none
    else match s.leaf d ctx (lo % vaMod) with
      | .ok t => if t.window.isSome then none else some (lo, t.pa, hi - lo)
      | .error _ => none)

/-- The private blocks of the workgroups, resident or saved. -/
def State.privBlocks (s : State) : List PrivBlock :=
  s.groups.filterMap (fun g => match tfind s.grids g.2.grid with
    | some gr =>
      if gr.priv = 0 then none
      else
        let n := g.2.warps.length * gr.w * (ceilDiv gr.priv 4 * 4)
        some ⟨g.2.priv, n, s.framesOf (g.2.core / Config.dieCores) gr.ctx g.2.priv n⟩
    | none => none)

/-- Physical bytes of the block are among those of the range. -/
def PrivBlock.meets (b : PrivBlock) (pa n : Nat) : Bool := b.frames.any (fun f => overlaps f.2.1 f.2.2 pa n)

/-- The bytes lie in a private block. -/
def State.inPriv (s : State) (pa n : Nat) : Bool := s.privBlocks.any (fun b => b.meets pa n)

/-- The address that R85 gives a physical byte of a private block. -/
def State.privOf (s : State) (pa : Nat) : Option Nat :=
  s.privBlocks.findSome? (fun b => b.frames.findSome? (fun f =>
    if f.2.1 ≤ pa ∧ pa < f.2.1 + f.2.2 then some (f.1 + (pa - f.2.1)) else none))

/-- A global access by die d reads these bytes: those of a private block are undefined (R86). -/
def State.stirPriv (s : State) (d pa n : Nat) : State :=
  if s.inPriv pa n then
    let r := s.freeBytes n
    r.1.writeNow d (((cellsAt pa r.2)).filter (fun c => s.inPriv c.1 1)) []
  else s

/-- The module's own read of memory bytes by die d meets what every read meets: private blocks (R86), an injector that waits for a read
(R445). -/
def State.meetRead (s : State) (d pa n : Nat) : State := (s.stirPriv d pa n).injectMem pa n true

/-- A global access writes these ranges: the contents of the private blocks that they touch are undefined (R86). -/
def State.spillPriv (s : State) (l : List (Nat × Nat)) : State :=
  let hit := s.privBlocks.filter (fun b => l.any (fun r => b.meets r.1 r.2))
  if hit = [] then s
  else { s with privMem := s.privMem.filter (fun c => !(hit.any (fun b => overlaps b.base b.size c.1 1))) }

/-- The access leaves the module or reaches no memory, so that it may abort (R124). -/
def State.outbound (s : State) (pa : Nat) : Bool := s.isHost pa || !s.installed pa

/-- The order field asks for an acquire, or a release (R111). -/
def ordAcq (o : Nat) : Bool := o == 1 || o == 3
def ordRel (o : Nat) : Bool := o == 2 || o == 3

/-- The writes of one lane's loaded bytes (R305): poison is given for each 4 bytes. -/
def loadWrites (vd lane z : Nat) (sx : Bool) (l : List Byte) (p : Nat → Bool) : List RegWrite :=
  if z ≤ 4 then
    let x := ofBytes l
    [.v vd lane (BitVec.ofNat 32 (if sx then toBits (sext x (8 * z)) 32 else x)) (p 0)]
  else (List.range (z / 4)).map (fun i => RegWrite.v (vd + i) lane (BitVec.ofNat 32 (leAt l (4 * i) 4)) (p i))

/-- The data of a store or atomic: the low z bytes of the group's elements, lowest register first (R305). -/
def Cx.groupBytes (c : Cx) (r z l : Nat) : List Byte :=
  ((List.range (ceilDiv z 4)).flatMap (fun i => toBytes (c.warp.vreg (r + i) l).toNat 4)).take z

/-- The elements of the group that are poisoned in lane l (R102). -/
def Cx.groupPoison (c : Cx) (r z l : Nat) : List Nat := (List.range (ceilDiv z 4)).filter (fun i => c.warp.vPois (r + i) l)

/-- Registers of a data group of z bytes. -/
def groupRegs (z : Nat) : Nat := ceilDiv z 4

/-- The checks that global M-form instructions share before translation (R306 steps 3 to 5), or the trap. win is what the
form does in the window: true where it accepts it. -/
def State.memChecks (s : State) (c : Cx) (t : TReg) (z : Nat) (offs : List (Nat × Int)) (win : Bool) : Option State :=
  if !t.valid then some (s.trap c .access c.combined 0)
  else
    let bad := offs.filter (fun p => vaAt t.base p.2 % z != 0)
    let inw := offs.filter (fun p => s.inWindow c.seat c.grid.ctx t z p.2)
    let low := fun (l : List (Nat × Int)) => (l.head?.map (fun p => vaAt t.base p.2)).getD 0
    let mask := fun (l : List (Nat × Int)) => maskOf (l.map (fun p => p.1))
    if !bad.isEmpty then some (s.trap c .misalign (mask bad) (low bad))
    else if inw.isEmpty then none
    else if !win then some (s.trap c .access (mask inw) (low inw))
    else if z = 1 then some (s.trap c .misalign (mask inw) (low inw))
    else none

/-- The address of the lowest lane that raises POISON in a memory instruction: its offset register is poisoned, so the
address is computed from the poisoned element (R72). -/
def Cx.poisonInfo (c : Cx) (base : Nat) (vo w im z : Nat) (m : Mask) : Nat :=
  if m = 0 then 0 else vaAt base (c.offset vo w im z (lowLane m))

end Sys2Proof.Machine
end

