-- ==== Sys2Proof/Machine/Memory.lean ====
section
/-! DEFINITION. Global and private loads and stores, atomics and compare-and-swap, and the steps in which they complete
(majors 0x20, 0x21, 0x24 to 0x26; R304 to R314). -/

namespace Sys2Proof.Machine

/-! ### Global loads and stores -/

/-- MOD8 of LD and ST: bit 0 is NA (R310). -/
def naMod8 (m : Nat) : Bool := decide (m < 2)
/-- Orders of a load (R310). -/
def loadOrd (o sc : Nat) : Bool := decide (o ≤ 1) && (o != 0 || sc == 0)
/-- Orders of a store (R310). -/
def storeOrd (o sc : Nat) : Bool := (o == 0 || o == 2) && (o != 0 || sc == 0)

/-- Window lanes read at issue: each access with its data and poison, the flags by descriptor; or what stops a lane. -/
def State.winLoads (s : State) (w d ctx z : Nat) : List LaneAcc → State × List LaneAcc × List (Nat × WinStop)
  | [] => (s, [], [])
  | a :: r =>
    match a.win with
    | none => let x := State.winLoads s w d ctx z r; (x.1, a :: x.2.1, x.2.2)
    | some desc =>
      match s.winRead w d ctx desc a.va z with
      | .error e => let x := State.winLoads s w d ctx z r; (x.1, x.2.1, (a.lane, e) :: x.2.2)
      | .ok (l, p, f, s') =>
        let x := State.winLoads (s'.winRaise d desc f) w d ctx z r
        (x.1, { a with data := l, poison := p } :: x.2.1, x.2.2)

/-- Lanes that the window stops as faults (R165); those it stops with ACCESS, with INFO (R170, R178). -/
def winFaults (l : List (Nat × WinStop)) : List (Nat × FaultCode × Bool × Nat) :=
  l.filterMap (fun x => match x.2 with
    | .fault f page => some (x.1, f.1, f.2, page)
    | .kv (.arena g far) => some (x.1, .kvArena, false, g + field (b2n far) 32 1)
    | .kv (.access _) => none)
def winAccess (l : List (Nat × WinStop)) : List (Nat × Nat) :=
  l.filterMap (fun x => match x.2 with | .kv (.access i) => some (x.1, i) | _ => none)

/-- Lanes of a load whose page traps the poison that they would read (R422). -/
def State.hardLanes (s : State) (l : List LaneAcc) (z : Nat) : List LaneAcc :=
  l.filter (fun a => a.win.isNone && a.pmode == 1 && s.poisoned a.pa z)

/-- LD (R304 to R309): n bytes into the group at vd. -/
def memLoad (wf : Bool) (z : Nat) (sx : Bool) (vd t vo : Nat) (im : BitVec 5) (s : State) : Out :=
  let n := groupRegs z
  issue s (fun c =>
    let i := perLane (wf && c.vok vo 1 && c.vok vd n) (accMem loadOrd naMod8) c [[.t t], vref vo 1] (vref vd n)
    { i with pinfo := c.poisonInfo (c.warp.treg t).base vo 5 im.toNat z i.poison }) (fun c =>
    let tr := c.warp.treg t
    let offs := (lanes c.combined).map (fun l => (l, c.offset vo 5 im.toNat z l))
    if c.combined = 0 then .next (s.advance c)
    else if c.room .gld 1 = false then .next s
    else match s.memChecks c tr z offs true with
      | some s' => .next s'
      | none =>
        let rs := offs.map (fun p => s.reach c.seat c.grid.ctx tr .load z p.1 p.2)
        let hard := s.hardLanes (oksOf rs) z
        if (oksOf rs).any (fun a => a.win.isSome) && s.winPending c.w then .next s
        else if hard ≠ [] then
          .next (s.trap c .poison (maskOf (hard.map (fun a => a.lane))) ((hard.head?.map (fun a => a.va)).getD 0))
        else
          let s1 := if (oksOf rs).any (fun a => a.win.isSome) then s.applyAll c.die else s
          let (s1, oks, stops) := s1.winLoads c.w c.die c.grid.ctx z (oksOf rs)
          let acc := winAccess stops
          if acc ≠ [] then .next (s.trap c .access (maskOf (acc.map (fun x => x.1))) ((acc.head?.map (fun x => x.2)).getD 0))
          else
            let faults := faultsOf rs ++ winFaults stops
            let own := if faults = [] ∨ c.ctx.priv then 1 else 0
            let s1 := s1.raise c .gld 1
            let iss : Reissue := ⟨tr.base, c.imm 5 im.toNat * z, bit c.mod8 0⟩
            let (s2, id) := if oks = [] then (s1, 0) else
              s1.begin c (vref vd n) (some (.gld, own)) (.load oks z sx vd c.order c.scope 0 iss)
            let s2 := s2.readKv c.die id oks
            if faults ≠ [] then
              .next ((s2.parkOn c 0 faults (maskOf (faults.map (fun f => f.1)))
                (if oks ≠ [] ∧ c.ctx.priv then none else some (.gld, 1)) (vaOfLane rs)).owe c (vref vd n))
            else if c.order = 1 ∨ oks.any (fun a => a.win.isNone && s.outbound a.pa) then .next (s2.holdFor c id)
            else .next (s2.advance c))

/-- Window lanes of a store that their block stops (R165, R170, R178). -/
def State.winStops (s : State) (d ctx : Nat) (l : List LaneAcc) : List (Nat × WinStop) :=
  l.filterMap (fun a => match a.win with
    | some desc =>
      let w := WinDesc.read (s.view d desc 64)
      if a.va < w.base ∨ w.count ≤ (a.va - w.base) / 2 then none
      else match s.winBlock d ctx w ((a.va - w.base) / 64) .store with
        | .error e => some (a.lane, e)
        | .ok _ => none
    | none => none)

/-- ST (R304 to R309): z bytes of the group at vd. A release waits first for what it orders (R112). -/
def memStore (wf : Bool) (z : Nat) (vd t vo : Nat) (im : BitVec 5) (s : State) : Out :=
  let n := groupRegs z
  issue s (fun c =>
    let i := perLane (wf && c.vok vo 1 && c.vok vd n) (accMem storeOrd naMod8) c [[.t t], vref vo 1, vref vd n] []
    let p := c.poisonLanes [vref vo 1]
    { i with poison := p, pinfo := c.poisonInfo (c.warp.treg t).base vo 5 im.toNat z p }) (fun c =>
    let tr := c.warp.treg t
    let offs := (lanes c.combined).map (fun l => (l, c.offset vo 5 im.toNat z l))
    if c.combined = 0 then .next (s.advance c)
    else if c.room .gst 1 = false then .next s
    else match s.memChecks c tr z offs true with
      | some s' => .next s'
      | none =>
        let rs := offs.map (fun p => s.reach c.seat c.grid.ctx tr .store z p.1 p.2)
        let oks := (oksOf rs).map (fun (a : LaneAcc) => { a with
          data := c.groupBytes vd z a.lane
          poison := c.groupPoison vd z a.lane })
        let s0 := if oks.any (fun a => a.win.isSome) then s.applyAll c.die else s
        let stops := s0.winStops c.die c.grid.ctx oks
        let acc := winAccess stops
        if s.behind c.w oks z = true ∨ (c.order = 2 ∧ s.released c.w c.die c.scope = false) then .next s
        else if acc ≠ [] then
          .next (s.trap c .access (maskOf (acc.map (fun x => x.1))) ((acc.head?.map (fun x => x.2)).getD 0))
        else
          let faults := faultsOf rs ++ winFaults stops
          let bad := stops.map (fun x => x.1)
          let go := oks.filter (fun a => !bad.contains a.lane)
          let plain := go.filter (fun a => a.win.isNone)
          let own := if faults = [] ∨ c.ctx.priv then 1 else 0
          let s1 := (if c.order = 2 then s0.sysRelease c.die c.scope else s0).raise c .gst 1
          let (s2, wid) := if plain = [] then (s1, 0) else
            s1.post c.die (plain.flatMap (fun a => cellsAt a.pa a.data)) (plain.flatMap (fun a => a.spans z))
          let s3 := if go = [] then s2 else
            (s2.begin c [] (some (.gst, own)) (.store wid go z (decide (c.order = 2 ∧ c.scope = 6)))).1.readKv c.die s2.uid go
          if faults ≠ [] then
            .next (s3.parkOn c 1 faults (maskOf (faults.map (fun f => f.1)))
              (if go ≠ [] ∧ c.ctx.priv then none else some (.gst, 1)) (vaOfLane rs))
          else .next (s3.advance c))

/-! ### Private memory (R85, R86) -/

/-- S of R85. -/
def Grid.privSize (g : Grid) : Nat := ceilDiv g.priv 4 * 4
/-- The private address of byte o of a thread (R85). -/
def privAddr (base threads i o : Nat) : Nat := base + o / 4 * 4 * threads + 4 * i + o % 4
/-- T of R85 for the warp's workgroup. -/
def Cx.threads (c : Cx) : Nat := c.group.warps.length * c.grid.w
/-- The addresses of n private bytes of a lane from offset o. -/
def Cx.privBytes (c : Cx) (l o n : Nat) : List Nat :=
  (List.range n).map (fun i => privAddr c.group.priv c.threads (c.warp.idx * c.grid.w + l) (o + i))

/-- The private checks (R85, R306): alignment, then limits. -/
def State.privChecks (s : State) (c : Cx) (z : Nat) (offs : List (Nat × Int)) : Option State :=
  let bad := offs.filter (fun p => p.2 % (z : Int) != 0)
  let out := offs.filter (fun p => decide (p.2 < 0) || decide ((c.grid.privSize : Int) < p.2 + z))
  let low := fun (l : List (Nat × Int)) => toBits ((l.head?.map (fun p => p.2)).getD 0) 64
  let mask := fun (l : List (Nat × Int)) => maskOf (l.map (fun p => p.1))
  if !bad.isEmpty then some (s.trap c .misalign (mask bad) (low bad))
  else if !out.isEmpty then some (s.trap c .access (mask out) (low out))
  else none

/-- A private load (R85, R309). -/
def privLoad (wf : Bool) (z : Nat) (sx : Bool) (vd vo : Nat) (im : BitVec 5) (s : State) : Out :=
  let n := groupRegs z
  issue s (fun c =>
    let i := perLane (wf && c.vok vo 1 && c.vok vd n) (accMem loadOrd naMod8) c [vref vo 1] (vref vd n)
    { i with pinfo := toBits (c.offset vo 5 im.toNat z (lowLane i.poison)) 64 }) (fun c =>
    let offs := (lanes c.combined).map (fun l => (l, c.offset vo 5 im.toNat z l))
    if c.combined = 0 then .next (s.advance c)
    else if c.room .gld 1 = false then .next s
    else match s.privChecks c z offs with
      | some s' => .next s'
      | none =>
        let accs := offs.map (fun p => (⟨p.1, p.2.toNat, 0, [], [], none, 0, none⟩ : LaneAcc))
        let (s1, id) := (s.raise c .gld 1).begin c (vref vd n) (some (.gld, 1))
          (.load accs z sx vd c.order c.scope 1 ⟨0, c.imm 5 im.toNat * z, bit c.mod8 0⟩)
        .next (if c.order = 1 then s1.holdFor c id else s1.advance c))

/-- The warp has a private load pending that touches one of these offsets in a lane. -/
def State.privBehind (s : State) (w z : Nat) (offs : List (Nat × Int)) : Bool :=
  s.ops.any (fun o => o.warp == w && match o.kind with
    | .load l y _ _ _ _ 1 _ => l.any (fun a => offs.any (fun p => p.1 == a.lane && overlaps a.va y p.2.toNat z))
    | _ => false)

/-- Poison of the 64-bit words of private memory after one lane's store to these bytes, of which some 4-byte elements are poisoned (R102): a
whole word stored clears its poison, a narrow store leaves it, and a poisoned element poisons its word. -/
def privPoison (q : List Nat) (l : List Nat) (p : List Nat) : List Nat :=
  let q := ((l.map (fun a => a / 8)).eraseDups).foldl (fun q w =>
    if (List.range 8).all (fun i => l.contains (8 * w + i)) then ldel q w else q) q
  p.foldl (fun q i => ((l.drop (4 * i)).take 4).foldl (fun q a => ladd q (a / 8)) q) q

/-- A private store (R85, R309): the thread sees it at once, and it is counted until performed. -/
def privStore (wf : Bool) (z : Nat) (vd vo : Nat) (im : BitVec 5) (s : State) : Out :=
  let n := groupRegs z
  issue s (fun c =>
    let i := perLane (wf && c.vok vo 1 && c.vok vd n) (accMem storeOrd naMod8) c [vref vo 1, vref vd n] []
    let p := c.poisonLanes [vref vo 1]
    { i with poison := p, pinfo := toBits (c.offset vo 5 im.toNat z (lowLane p)) 64 }) (fun c =>
    let offs := (lanes c.combined).map (fun l => (l, c.offset vo 5 im.toNat z l))
    if c.combined = 0 then .next (s.advance c)
    else if c.room .gst 1 = false then .next s
    else match s.privChecks c z offs with
      | some s' => .next s'
      | none =>
        if s.privBehind c.w z offs = true ∨ (c.order = 2 ∧ s.released c.w c.die c.scope = false) then .next s
        else
          let cells : List Host.Cell := offs.flatMap (fun p => (c.privBytes p.1 p.2.toNat z).zip (c.groupBytes vd z p.1))
          let pois := offs.foldl (fun q p =>
            privPoison q (c.privBytes p.1 p.2.toNat z) (c.groupPoison vd z p.1)) s.privP
          let s1 := (if c.order = 2 then s.sysRelease c.die c.scope else s).raise c .gst 1
          let s1 := { s1 with privMem := cells.foldl (fun (m : List Host.Cell) (b : Host.Cell) => tput m b.1 b.2) s1.privMem,
                              privP := pois }
          .next ((s1.begin c [] (some (.gst, 1)) .privStore).1.advance c))

/-! ### Atomics -/

/-- The new value of an atomic from the old value, the data and their size, with flags; none writes nothing (R312, R313). -/
def atomNew (f : AtomFn) (z m : Nat) (data : List Byte) : Option Nat × Flags :=
  let x := leAt data 0 z
  let pick := fun (b : Bool) => (some (if b then x else m), (0 : Flags))
  match f with
  | .add => (some ((m + x) % 2 ^ (8 * z)), 0)
  | .and => (some (m &&& x), 0)
  | .or => (some (m ||| x), 0)
  | .xor => (some (m ^^^ x), 0)
  | .min => pick (decide (sext x 32 < sext m 32))
  | .max => pick (decide (sext m 32 < sext x 32))
  | .minU => pick (decide (x < m))
  | .maxU => pick (decide (m < x))
  | .exch => (some x, 0)
  | .fadd => let r := f32add m x; (some r.1, r.2)
  | .cas => (if m = x then some (leAt data z z) else none, 0)

/-- Orders of an atomic: an order at a scope, or neither (R314). -/
def atomOrd (o sc : Nat) : Bool := o != 0 || sc == 0

/-- ATOM and CAS (R312 to R314). The group at vd has n registers; ret says whether the old value returns. -/
def memAtom (wf : Bool) (f : AtomFn) (z : Nat) (ret : Bool) (vd t vo : Nat) (im : BitVec 5) (s : State) : Out :=
  let size := if f = .cas then 2 * z else z
  let n := groupRegs size
  issue s (fun c =>
    let i := perLane (wf && c.vok vo 1 && c.vok vd n) (accMem atomOrd noMod8) c [[.t t], vref vo 1, vref vd n]
      (if ret then vref vd n else [])
    { i with pinfo := c.poisonInfo (c.warp.treg t).base vo 5 im.toNat z i.poison }) (fun c =>
    let tr := c.warp.treg t
    let path : Path := if ret then .gld else .gst
    let offs := (lanes c.combined).map (fun l => (l, c.offset vo 5 im.toNat z l))
    if c.combined = 0 then .next (s.advance c)
    else if c.room path 1 = false then .next s
    else match s.memChecks c tr z offs false with
      | some s' => .next s'
      | none =>
        let rs := offs.map (fun p => s.reach c.seat c.grid.ctx tr .atomic z p.1 p.2)
        let faults := faultsOf rs
        let oks := (oksOf rs).map (fun (a : LaneAcc) => { a with data := c.groupBytes vd size a.lane })
        let low := rs.filterMap (fun r => match r with | .ok a ac => if ac then none else some a | _ => none)
        if faults ≠ [] then
          .next (((s.raise c path 1).parkOn c 2 faults c.combined (some (path, 1)) (vaOfLane rs)).owe c (if ret then vref vd n else []))
        else if c.order ≠ 0 ∧ c.scope = 6 ∧ low ≠ [] then
          .next (s.trap c .atomcap (maskOf (low.map (fun a => a.lane))) ((low.head?.map (fun a => a.va)).getD 0))
        else if s.behind c.w oks z = true ∨ (ordRel c.order ∧ s.released c.w c.die c.scope = false) then .next s
        else
          let s1 := (if ordRel c.order then s.sysRelease c.die c.scope else s).raise c path 1
          let (s2, id) := s1.begin c (if ret then vref vd n else []) (some (path, 1))
            (.atom f oks z (if ret then some vd else none) c.order c.scope)
          if ordAcq c.order ∨ oks.any (fun a => s.outbound a.pa) then .next (s2.holdFor c id) else .next (s2.advance c))

/-- The lanes of an atomic performed in ascending order on home values (R307): new bytes of the cells, the old value of each
lane with its poison, and the flags. -/
def State.atomLanes (s : State) (f : AtomFn) (z : Nat) (l : List LaneAcc) :
    List Host.Cell × List (Nat × Nat × Bool) × Flags :=
  l.foldl (fun acc a =>
    let m := ofBytes ((List.range z).map (fun i => (tfind acc.1 (a.pa + i)).getD (memByte s.mem (a.pa + i))))
    let r := atomNew f z m a.data
    let cells := match r.1 with
      | some x => (cellsAt a.pa (toBytes x z)).foldl (fun t b => tput t b.1 b.2) acc.1
      | none => acc.1
    (cells, acc.2.1 ++ [(a.lane, m, s.poisoned a.pa z)], acc.2.2 ||| r.2)) ([], [], 0)

/-- The spans of an atomic's writes: poisoned memory stays poisoned unless an exchange covers its word (R102). -/
def State.atomSpans (s : State) (f : AtomFn) (z : Nat) (l : List LaneAcc) : List (Nat × Nat × Bool) :=
  l.map (fun a => (a.pa, z, s.poisoned a.pa z && !(f == .exch && z == 8)))

/-! ### Completion -/

/-- A pending private byte read: a free value where the thread has written none (R86). -/
def State.privRead (s : State) : List Nat → State × List Byte
  | [] => (s, [])
  | a :: r =>
    match tfind s.privMem a with
    | some b => let x := State.privRead s r; (x.1, b :: x.2)
    | none =>
      let d := s.draw
      let x := State.privRead d.2 r
      (x.1, d.1.truncate 8 :: x.2)

/-- The physical core that serves a logical one as an error-log entry names it (R444, R490). -/
def State.pcore (s : State) (core : Nat) : Nat :=
  let d := core / Config.dieCores
  let i := core % Config.dieCores
  (tfind (s.die d).phys i).getD (i % 192) + field (i / 192) 8 1 + field d 9 2

/-- The core of a warp. -/
def State.coreOf (s : State) (w : Nat) : Nat := ((tfind s.warps w).map (fun x => x.core)).getD 0

/-- The addresses of the poisoned words among bytes of memory. -/
def State.poisonWords (s : State) (pa n : Nat) : List Nat :=
  (s.memP.filter (fun w => decide (w * 8 < pa + n) && decide (pa < w * 8 + 8))).map (fun w => 8 * w)

/-- The page's poison handling of the bytes that a lane has read (R422): under PMODE 2 those of an access that meets a poisoned word are
zero and unpoisoned, and each such word is logged. -/
def State.pmodeBytes (s : State) (o : Op) (a : LaneAcc) (z : Nat) (l : List Byte) : State × List Byte × (Nat → Bool) :=
  if s.poisoned a.pa z && a.pmode == 2 then
    ((s.poisonWords a.pa z).foldl (fun s w =>
      s.logError o.die (s.arrayOf w) true false true (s.pcore (s.coreOf o.warp)) w 0 (s.ctx o.ctx).asid o.ctx) s,
      List.replicate z 0, fun _ => false)
  else (s, l, fun i => s.poisoned (a.pa + 4 * i) (min z 4))

/-- What a lane's load reads, with its poison by 4 bytes: the bytes that its die sees, or what its window access read at issue. -/
def State.loadBytes (s : State) (o : Op) (a : LaneAcc) (z : Nat) : State × List Byte × (Nat → Bool) :=
  if a.win.isSome then (s, a.data, fun i => a.poison.contains i)
  else
    let s := s.meetRead o.die a.pa z
    s.pmodeBytes o a z (s.view o.die a.pa z)

/-- The loads of an operation performed: registers of the warp written. -/
def State.performLoad (s : State) (o : Op) (accs : List LaneAcc) (z : Nat) (sx : Bool) (vd form : Nat) : State :=
  let wd := s.widthOf o.warp
  if form = 1 then
    match s.cxOf o.warp o.split with
    | none => s
    | some c => accs.foldl (fun s a =>
        let l := c.privBytes a.lane a.va z
        let (s, b) := s.privRead l
        let p := fun (i : Nat) => ((l.drop (4 * i)).take 4).any (fun x => s.privP.contains (x / 8))
        s.setWarp o.warp (fun w => w.writeAll wd (loadWrites vd a.lane z sx b p))) s
  else accs.foldl (fun s a =>
    let (s, b, p) := s.loadBytes o a z
    s.setWarp o.warp (fun w => w.writeAll wd (loadWrites vd a.lane z sx b p))) s

/-- A load made again after a save walks afresh for each lane (R440): its accesses, or the faults that park the warp. -/
def State.reissueLanes (s : State) (o : Op) (accs : List LaneAcc) : List Reach :=
  accs.map (fun a =>
    match s.translate (4 + s.coreOf o.warp) o.ctx a.va .load with
    | .ok x => Reach.ok { a with pa := x.pa, win := x.window, pmode := bits x.pte 11 2 } true
    | .error f => .fault a.lane f.1 f.2 (a.va / 65536 * 65536))

/-- An operation leaves unfinished: its registers keep their values and are full, its counter falls. -/
def State.dropOp (s : State) (o : Op) : State :=
  let s := s.setOp o.id .done
  let s := (s.setWarp o.warp (fun x => { (x.markAll false (s.filled o.warp o.id o.full)) with
    splits := x.splits.map (fun p => if p.wait = .op o.id then { p with wait := .ready } else p) })).readerOut o.die o.par
  let s := { s with ops := s.ops.map (fun (x : Op) => if x.id = o.id then { x with full := [], par := 2 } else x) }
  match o.path with
  | some (p, _) => s.lowerPath o.warp p s.ops.length
  | none => { s with ops := s.ops.filter (fun x => x.id != o.id) }

/-- A load made again that is stopped: its registers keep their values, and the trap names the load (assumption 71). -/
def State.trapReissue (s : State) (o : Op) (c : Cx) (code : TrapCode) (m : Mask) (addr : Nat) : State :=
  (s.dropOp o).trapAt c code o.pc m addr

/-- A load made again that faults parks the warp at the load (R66); in a privileged warp it is ACCESS (R411). -/
def State.parkReissue (s : State) (o : Op) (accs : List LaneAcc) (f : Nat × FaultCode × Bool × Nat)
    (more : List (Nat × FaultCode × Bool × Nat)) : State :=
  match s.cxOf o.warp o.split with
  | none => s
  | some c =>
    let m := maskOf ((f :: more).map (fun y => y.1))
    let addr := ((accs.find? (fun a => a.lane == f.1)).map (fun a => a.va)).getD 0
    if c.warp.fault.isSome ∨ c.warp.life ≠ .running then s
    else if c.ctx.priv then s.trapReissue o c .access m addr
    else
      let (s, tok) := s.newToken o.die
      let pg := ((f :: more).map (fun y => f.2.1.page y.2.2.2)).eraseDups
      let r : FaultRec := ⟨tok, faultWords f.2.1 0 f.2.2.1 pg c.ctx.asid o.ctx tok o.pc m
        (whoCore c.warp.core c.warp.idx o.split), (0, o.warp), none, 0⟩
      let s := s.queueFault o.die o.ctx r
      s.setWarp o.warp (fun w => { w with
        fault := some ⟨tok, f.2.1, 0, f.2.2.1, o.split, o.pc, m, pg, true, none, none, some o.id, addr, none⟩ })

/-- The lanes of a load made again, once each has its translation and the poison of its page is judged (R422, R440). -/
def State.reissueInto (s : State) (o : Op) (accs : List LaneAcc) (z : Nat) (go : List LaneAcc → State) : State :=
  let rs := s.reissueLanes o accs
  match faultsOf rs with
  | f :: more => s.parkReissue o accs f more
  | [] =>
    match s.hardLanes (oksOf rs) z, s.cxOf o.warp o.split with
    | a :: r, some c => s.trapReissue o c .poison (maskOf ((a :: r).map (fun x => x.lane))) a.va
    | _, _ => go (oksOf rs)

/-- A load that is to be made again and has no translation yet (R440): form 2 of a global load, lane 64 alone arrived of an LDT. -/
def State.reissueLoad (s : State) (o : Op) : State :=
  match o.kind with
  | .load accs z sx vd order scope 2 iss =>
    s.reissueInto o accs z (fun l =>
      let s := if l.any (fun a => a.win.isSome) then s.applyAll o.die else s
      let x := s.winLoads o.warp o.die o.ctx z l
      (x.1.setOp o.id (.load x.2.1 z sx vd order scope 0 iss)).readKv o.die o.id x.2.1)
  | .ldt accs z vd n acq arrived got iss =>
    if arrived = [64] then s.reissueInto o accs z (fun l => s.setOp o.id (.ldt l z vd n acq [] got iss)) else s
  | _ => s

/-- A load's lanes are performed, unless an older access of the thread or an abort must come first (R90, R108, R124). -/
def State.loadDone (s : State) (o : Op) (accs : List LaneAcc) (z : Nat) (sx : Bool) (vd order scope form : Nat) : State :=
  if form = 2 then s.reissueLoad o
  else if form = 0 ∧ accs.any (fun a => a.win.isNone && (!s.installed a.pa || s.before o.warp o.id (some a.lane) a.pa z)) = true then s
  else
    let s := if order = 1 then s.acquire o.die scope else s
    (s.performLoad o accs z sx vd form).endOp o

/-- The physical byte lies in a virtual range under the die's translations; pages without one are skipped (R319). -/
def State.rangeHas (s : State) (d ctx va len pa : Nat) : Bool :=
  (List.range (len / 65536 + 2)).any (fun i =>
    let p := (va / 65536 + i) * 65536
    match s.leaf d ctx (p % vaMod) with
    | .ok t => decide (t.pa ≤ pa) && decide (pa < t.pa + 65536) && decide (va ≤ p + (pa - t.pa)) && decide (p + (pa - t.pa) < va + len)
    | .error _ => false)

/-- The dirty lines of a virtual range in the die's L2 are written back (R319). -/
def State.cwbRange (s : State) (d ctx va len : Nat) : State :=
  s.clean (fun e => bit e.2.1 d
    && (List.range lineBytes).any (fun i => s.rangeHas d ctx va len (e.1 / lineBytes * lineBytes + i)))

/-! ### Window accesses and private blocks that a write meets (R86, R100) -/

/-- The lanes of a pending access to the BF16 window. -/
def OpKind.winLanes (k : OpKind) : List LaneAcc :=
  let f := fun (l : List LaneAcc) => l.filter (fun a => a.win.isSome)
  match k with
  | .load l _ _ _ _ _ 0 _ => f l
  | .store _ l _ _ => f l
  | .engine _ l _ => f l
  | _ => []

/-- A loaded lane in a block whose storage a write races: its data is undefined (R100). -/
def OpKind.loosen (k : OpKind) (lane : Nat) (l : List Byte) : OpKind :=
  match k with
  | .load accs z sx vd o sc f i =>
    .load (accs.map (fun (a : LaneAcc) => if a.lane = lane ∧ a.win.isSome then { a with data := l } else a)) z sx vd o sc f i
  | k => k

/-- The block that a pending window access of an operation reaches, if a write to these ranges of physical bytes races it. -/
def State.racedBlock (s : State) (o : Op) (a : LaneAcc) (l : List (Nat × Nat)) : Option WinBlock :=
  match a.win with
  | none => none
  | some desc =>
    let w := WinDesc.read (s.view o.die desc 64)
    match s.winBlock o.die o.ctx w ((a.va - w.base) / 64) .load with
    | .ok b => if b.bytes.any (fun x => l.any (fun r => decide (r.1 ≤ x) && decide (x < r.1 + r.2))) then some b else none
    | .error _ => none

/-- A write to these bytes by an agent meets the pending window accesses of the others: the block is left undefined, and so is what a
load has read of it (R100). -/
def State.raceWindow (s : State) (w : Nat) (l : List (Nat × Nat)) : State :=
  ((s.ops.filter (fun o => o.warp != w)).flatMap (fun o => o.kind.winLanes.map (fun a => (o, a)))).foldl (fun s x =>
    match s.racedBlock x.1 x.2 l with
    | none => s
    | some b =>
      let r := (s.looseBlock x.1.die b).freeBytes x.2.data.length
      { r.1 with ops := r.1.ops.map (fun (o : Op) => if o.id = x.1.id then { o with kind := o.kind.loosen x.2.lane r.2 } else o) }) s

/-- A write to global memory at these ranges is about to be performed: what it does to window accesses under way and to private
blocks. -/
def State.meetWrite (s : State) (w : Nat) (l : List (Nat × Nat)) : State := (s.raceWindow w l).spillPriv l

/-- The ranges of lanes that reach global memory outside the window. -/
def plainRanges (l : List LaneAcc) (z : Nat) : List (Nat × Nat) := (l.filter (fun a => a.win.isNone)).map (fun a => (a.pa, z))

/-- The write of this number reaches bytes at which no memory is installed, so it cannot be performed (R124). -/
def State.writeAborts (s : State) (n : Nat) : Bool :=
  s.posted.any (fun w => w.id == n && w.bytes.any (fun c => !s.installed c.1))

/-- Ranges of the stores of a write on its way. -/
def State.writeRanges (s : State) (n : Nat) : List (Nat × Nat) :=
  ((s.posted.find? (fun w => w.id == n)).map (fun w => w.spans.map (fun x => (x.1, x.2.1)))).getD []

/-- The thread, or for an engine the warp, has an older store to the bytes that its home has not performed (R108). -/
def State.storeBefore (s : State) (w n : Nat) (lane : Option Nat) (pa z : Nat) : Bool :=
  s.ops.any (fun o => o.warp == w && decide (o.id < n) && match o.kind with
    | .store _ l y _ => l.any (fun a => a.ofLane lane && a.win.isNone && overlaps a.pa y pa z)
    | .engine x _ _ => (s.writeRanges x).any (fun r => overlaps r.1 r.2 pa z)
    | _ => false)

/-- The writes of an engine instruction are performed (R121): in global memory, then in the window; its flags reach FSTAT. -/
def State.engineEnd (s : State) (o : Op) (w : Nat) (accs : List LaneAcc) (f : Flags) : State :=
  let s := s.meetWrite o.warp (s.writeRanges w)
  let s := if w = 0 then s else s.flushTo o.die w
  let s := s.winWrite o.warp o.die o.ctx accs
  (s.setWarp o.warp (fun x => { x with fstat := x.fstat ||| f })).endOp o

/-- Window lanes of a write may not be written yet: an older write of the warp to the window comes first (R108, R121), or their page is
being replaced (R201). -/
def State.winWaits (s : State) (o : Op) (accs : List LaneAcc) : Bool :=
  accs.any (fun a => a.win.isSome) && (s.winOlder o.warp o.id || s.winBusy o.die o.ctx accs)

/-- STORE_PERFORMED (R90, R104): the store enters home order, or its window lanes are written at their home after the warp's older writes
of the window (R99, R108), and GST falls in order. -/
def execStorePerformed (n : Nat) (s : State) : Out :=
  match s.op n with
  | none => .next s
  | some o =>
    match o.kind with
    | .store w accs z sys =>
      if (accs.any (fun a => a.win.isNone && !s.installed a.pa) || s.winWaits o accs) = true then .next s
      else
        let s := s.meetWrite o.warp (plainRanges accs z)
        let s := if w = 0 then s else s.flushTo o.die w
        let s := if sys then accs.foldl (fun s a => s.writeBack o.die a.pa 16) s else s
        let s := s.winWrite o.warp o.die o.ctx (accs.filter (fun a => a.win.isSome))
        .next (s.endOp o)
    | .privStore => .next (s.endOp o)
    | .cwb va len => .next ((s.cwbRange o.die o.ctx va len).endOp o)
    | .engine w accs f =>
      if (s.writeAborts w || s.winWaits o accs) = true then .next s else .next (s.engineEnd o w accs f)
    | _ => .next s

/-- ATOMIC_PERFORMED (R109, R314): every lane is performed at its home; the old values return; .FADD's flags are ORed into
FSTAT as the counter is lowered (R314); an acquire takes effect. -/
def execAtomicPerformed (n : Nat) (s : State) : Out :=
  match s.op n with
  | none => .next s
  | some o =>
    match o.kind with
    | .atom f accs z ret order scope =>
      if accs.any (fun a => !s.installed a.pa || s.before o.warp n (some a.lane) a.pa z) = true ∨ (f = .fadd ∧ s.inOrder o = false)
      then .next s
      else
        let s0 := (accs.foldl (fun s a => s.meetRead o.die a.pa z) s).meetWrite o.warp (plainRanges accs z)
        let s0 := s0.flushTo o.die s0.uid
        let r := s0.atomLanes f z accs
        let s1 := if r.1 = [] then s0 else s0.writeNow o.die r.1 (s0.atomSpans f z accs)
        let s1 := if ordRel order && scope == 6 then accs.foldl (fun s a => s.writeBack o.die a.pa 16) s1 else s1
        let s2 := match ret with
          | some vd => r.2.1.foldl (fun (s : State) (a : Nat × Nat × Bool) => s.setWarp o.warp (fun w =>
              w.writeAll (s.widthOf o.warp) (loadWrites vd a.1 z false (toBytes a.2.1 z) (fun _ => a.2.2)))) s1
          | none => s1
        let s3 := s2.setWarp o.warp (fun w => { w with fstat := w.fstat ||| r.2.2 })
        let s4 := if ordAcq order then s3.acquire o.die scope else s3
        .next (s4.endOp o)
    | _ => .next s

/-- WRITE_APPLY (R105). -/
def execWriteApply (die n : Nat) (s : State) : Out := .next (s.applyWrite die n)

/-- MULTICYCLE_RESULT (R93, R147): the result is written, its registers are full, its flags are ORed into FSTAT. -/
def execMulticycleResult (n : Nat) (s : State) : Out :=
  match s.op n with
  | none => .next s
  | some o =>
    let done := fun (w : List RegWrite) (f : Flags) =>
      ((s.setWarp o.warp (fun x => { (x.writeAll (s.widthOf o.warp) w) with fstat := x.fstat ||| f })).endOp o)
    match o.kind with
    | .result w f => .next (done w f)
    | .cb w f => .next (done w f)
    | .ldl w _ _ _ _ _ => .next (done w 0)
    | _ => .next s

/-- The lanes of an operation whose access leaves the module or reaches no memory (R124). An engine's write has no lane, and only its
physical address is known (assumption 38). -/
def OpKind.outboundLanes (k : OpKind) (s : State) : List LaneAcc :=
  let f := fun (l : List LaneAcc) => l.filter (fun a => a.win.isNone && s.outbound a.pa)
  match k with
  | .load l _ _ _ _ _ 0 _ => f l
  | .atom _ l _ _ _ _ => f l
  | .store _ l _ _ => f l
  | .row _ _ _ l _ => f l
  | .ldt l _ _ _ _ _ got _ => f (l.filter (fun a => !got.contains a.lane))
  | .stt l _ _ _ _ _ _ gone _ _ => f (l.filter (fun a => !gone.contains a.lane))
  | .engine w _ _ => (s.writeRanges w).filterMap (fun r =>
    if s.outbound r.1 then some ⟨64, r.1, r.1, [], [], none, 0, none⟩ else none)
  | _ => []

/-- A tensed store ends when each of its lanes is done and its notice, if one is due, has reached the issuer (R316, R376). -/
def State.sttSettle (s : State) (n : Nat) : State :=
  match s.op n with
  | some o => match o.kind with
    | .stt l _ _ _ lf _ _ gone late noticed =>
      if l.all (fun a => gone.contains a.lane) && (late == 0 || !lf || noticed) then s.endOp o else s
    | _ => s
  | none => s

/-- A PEER is recorded pending; the first is kept (R92, R124, assumption 38). -/
def Warp.pendPeer (w : Warp) (m : Mask) (addr : Nat) : Warp := { w with peer := w.peer.or (some (m, addr)) }

/-- The bytes of a write on its way that reach no memory of the module are discarded (R124). -/
def State.discardOut (s : State) (n : Nat) : State :=
  { s with posted := s.posted.map (fun (x : Write) => if x.id = n then
      { x with bytes := x.bytes.filter (fun b => !s.outbound b.1), spans := x.spans.filter (fun p => !s.outbound p.1) } else x) }

/-- A pending operation's outbound access aborts (R124). A load, ATOM, CAS or LDT raises PEER at its instruction, which holds its split.
Of a posted store, an STT or an engine's write the outbound lanes are discarded and PEER is pending (R92, assumption 38); what it has in the
module's memory is performed as before, and without any its counter falls at once. A row of a TCOPY is discarded whole. -/
def State.abortOp (s : State) (o : Op) : State :=
  let bad := o.kind.outboundLanes s
  let m := maskOf (bad.map (fun a => a.lane))
  let addr := (bad.head?.map (fun a => a.va)).getD 0
  if bad = [] then s
  else
    let told := s.setWarp o.warp (fun w => w.pendPeer m addr)
    let rest := fun (l : List LaneAcc) => l.filter (fun a => !bad.any (fun b => b.lane == a.lane))
    match o.kind with
    | .store w accs z sys =>
      if rest accs = [] then ((told.discardOut w).flushTo o.die w).endOp o
      else (told.discardOut w).setOp o.id (.store w (rest accs) z sys)
    | .stt l z t rel lf queued held gone late noticed =>
      let on := fun (k : Nat) => !bad.any (fun b => b.lane == k)
      let k := OpKind.stt (rest l) z t rel lf (queued.filter on) (held.filter (fun h => on h.1)) (gone.filter on) late noticed
      (told.setOp o.id k).sttSettle o.id
    | .row _ _ _ _ _ => told.endOp o
    | .engine w _ _ => told.discardOut w
    | _ =>
      match s.cxOf o.warp o.split with
      | none => s.dropOp o
      | some c =>
        let held := c.split.wait == .op o.id && c.warp.life == .running
        let s := s.dropOp o
        if held then s.trap c .peer m addr else s

end Sys2Proof.Machine
end

