-- ==== Sys2Proof/Machine/Tensed.lean ====
section
/-! DEFINITION. Tensed loads and stores and the steps at their homes: majors 0x28 and 0x29 (R128 to R134, R315, R316, R376,
R489). -/

namespace Sys2Proof.Machine

/-- The time of a tensed access: the q pair that MOD8.TQ names (R315). -/
def Cx.tensedTime (c : Cx) : Nat := (c.warp.qreg (2 * bits c.mod8 0 6)).toNat

/-- Home dies of the lanes. -/
def State.homesOfAccs (s : State) (l : List LaneAcc) : List Nat := (List.range 4).filter (fun d => l.any (fun a => s.homeDie a.pa == d))

/-- A die's discipline is LOCKED (R128). -/
def State.isLocked (s : State) (d : Nat) : Bool := (s.die d).tstate == .locked

/-- The checks of R129, once for the instruction. -/
def State.tensedChecks (s : State) (c : Cx) (l : List LaneAcc) : Option State :=
  if !s.isLocked c.die || (s.homesOfAccs l).any (fun d => !s.isLocked d) then
    some (s.trap c .timeunl c.combined 0)
  else if (s.die c.die).time + Config.horizon < c.tensedTime then some (s.trap c .timehz c.combined 0)
  else none

/-- LDT and STT up to their issue (R306, R315, R316). go takes the lanes' accesses. -/
def tensed (wf : Bool) (store : Bool) (z : Nat) (vd t vo : Nat) (im : BitVec 5) (s : State)
    (go : Cx → List LaneAcc → State → State) : Out :=
  let n := groupRegs z
  issue s (fun c =>
    let pair := qref (2 * bits c.mod8 0 6)
    let acc := accMem (fun o sc => sc == 0 && (o == 0 || o == (if store then 2 else 1)))
      (fun m => bits m 7 1 == 0 && (store || bits m 6 1 == 0))
    let i := perLane (wf && c.vok vo 1 && c.vok vd n) acc c
      ([[.t t], vref vo 1] ++ (if store then [vref vd n] else []) ++ [pair]) (if store then [] else vref vd n)
    let p := c.poisonLanes [vref vo 1, pair]
    { i with poison := p, pinfo := c.poisonInfo (c.warp.treg t).base vo 5 im.toNat z p }) (fun c =>
    let tr := c.warp.treg t
    let offs := (lanes c.combined).map (fun l => (l, c.offset vo 5 im.toNat z l))
    if c.combined = 0 then .next (s.advance c)
    else if c.room .tmd 1 = false then .next s
    else match s.memChecks c tr z offs false with
      | some s' => .next s'
      | none =>
        let rs := offs.map (fun p => s.reach c.seat c.grid.ctx tr (if store then .store else .load) z p.1 p.2)
        let faults := faultsOf rs
        let oks := oksOf rs
        if faults ≠ [] then
          .next (((s.raise c .tmd 1).parkOn c (if store then 1 else 0) faults c.combined (some (.tmd, 1)) (vaOfLane rs)).owe c
            (if store then [] else vref vd n))
        else match s.tensedChecks c oks with
          | some s' => .next s'
          | none =>
            let hard := if store then [] else s.hardLanes oks z
            if hard ≠ [] then
              .next (s.trap c .poison (maskOf (hard.map (fun a => a.lane))) ((hard.head?.map (fun a => a.va)).getD 0))
            else if store ∧ s.behind c.w oks z = true then .next s
            else .next (go c oks (s.raise c .tmd 1)))

/-- LDT (R315, R316). -/
def tensedLoad (wf : Bool) (z vd t vo : Nat) (im : BitVec 5) (s : State) : Out :=
  tensed wf false z vd t vo im s (fun c l s =>
    let iss : Reissue := ⟨(c.warp.treg t).base, c.imm 5 im.toNat * z, false⟩
    let (s1, id) := s.begin c (vref vd (groupRegs z)) (some (.tmd, 1))
      (.ldt l z vd c.tensedTime (c.order == 1) [] [] iss)
    if c.order = 1 ∨ l.any (fun a => s.outbound a.pa) then s1.holdFor c id else s1.advance c)

/-- STT (R315, R316). -/
def tensedStore (wf : Bool) (z vd t vo : Nat) (im : BitVec 5) (s : State) : Out :=
  tensed wf true z vd t vo im s (fun c l s =>
    let l := l.map (fun (a : LaneAcc) => { a with
      data := c.groupBytes vd z a.lane
      poison := c.groupPoison vd z a.lane })
    let k := OpKind.stt l z c.tensedTime (c.order == 2) (bit c.mod8 6) [] [] [] 0 false
    (s.begin c [] (some (.tmd, 1)) k).1.advance c)

/-- LDT.W (R315). -/
def execLdtW (d : BitVec 7) (t : BitVec 3) (vo : BitVec 7) (im : BitVec 5) (s : State) : Out :=
  tensedLoad true 4 d.toNat t.toNat vo.toNat im s
/-- LDT.D (R315). -/
def execLdtD (d : BitVec 7) (t : BitVec 3) (vo : BitVec 7) (im : BitVec 5) (s : State) : Out :=
  tensedLoad (even d) 8 d.toNat t.toNat vo.toNat im s
/-- LDT.Q (R315). -/
def execLdtQ (d : BitVec 7) (t : BitVec 3) (vo : BitVec 7) (im : BitVec 5) (s : State) : Out :=
  tensedLoad (mult 4 d) 16 d.toNat t.toNat vo.toNat im s
/-- STT.W (R315). -/
def execSttW (d : BitVec 7) (t : BitVec 3) (vo : BitVec 7) (im : BitVec 5) (s : State) : Out :=
  tensedStore true 4 d.toNat t.toNat vo.toNat im s
/-- STT.D (R315). -/
def execSttD (d : BitVec 7) (t : BitVec 3) (vo : BitVec 7) (im : BitVec 5) (s : State) : Out :=
  tensedStore (even d) 8 d.toNat t.toNat vo.toNat im s
/-- STT.Q (R315). -/
def execSttQ (d : BitVec 7) (t : BitVec 3) (vo : BitVec 7) (im : BitVec 5) (s : State) : Out :=
  tensedStore (mult 4 d) 16 d.toNat t.toNat vo.toNat im s

/-! ### At the home, where each lane is an access of its own (R316) -/

/-- The access of a lane. -/
def accOf (l : List LaneAcc) (lane : Nat) : Option LaneAcc := l.find? (fun a => a.lane == lane)

/-- The lane's home is the die. -/
def State.laneOn (s : State) (l : List LaneAcc) (d lane : Nat) : Bool :=
  match accOf l lane with
  | some a => s.homeDie a.pa == d
  | none => false

/-- The lanes of a tensed access that are homed on a die, ascending. -/
def State.lanesOn (s : State) (l : List LaneAcc) (d : Nat) : List Nat := (l.map (fun a => a.lane)).filter (s.laneOn l d)

/-- Tensed stores that a die holds (R134): each lane is one. -/
def State.heldOn (s : State) (d : Nat) : Nat :=
  s.ops.foldl (fun n o => match o.kind with
    | .stt l _ _ _ _ _ held _ _ _ => n + (held.filter (fun h => s.laneOn l d h.1)).length
    | _ => n) 0

/-- A higher lane of the store writes the same bytes, so this lane's value is never seen (R307). -/
def shadowed (l : List LaneAcc) (a : LaneAcc) : Bool := l.any (fun b => decide (a.lane < b.lane) && b.pa == a.pa)

/-- One lane of a tensed store enters home order (R130). -/
def State.sttWrite (s : State) (o : Op) (l : List LaneAcc) (z lane : Nat) : State :=
  match accOf l lane with
  | none => s
  | some a =>
    if shadowed l a then s
    else
      let s := s.meetWrite o.warp [(a.pa, z)]
      s.writeNow o.die (cellsAt a.pa a.data) (a.spans z)

/-- A late store is counted and logged once at its home (R131, R376, R489). -/
def State.logLate (s : State) (o : Op) (d t addr : Nat) : State :=
  s.setDie d (fun x =>
    let late := min (x.time - t) (2 ^ 32 - 1)
    { x with
      late := (x.late + 1) % 2 ^ 64
      lateLog := tput (tput x.lateLog (2 * x.lnext) (BitVec.ofNat 64 addr)) (2 * x.lnext + 1)
        (BitVec.ofNat 64 (late + field o.die 32 2 + field o.ctx 36 12))
      lnext := (x.lnext + 1) % 16 })

/-- A lane that has reached its home and found space: held while home time is at most T, else late (R130, R131). -/
def State.sttTake (s : State) (o : Op) (d lane : Nat) : State :=
  match o.kind with
  | .stt l z t rel lf queued held gone late noticed =>
    let queued := queued.filter (fun x => x != lane)
    if (s.die d).time ≤ t then
      ({ s with uid := s.uid + 1 }).setOp o.id (.stt l z t rel lf queued (held ++ [(lane, s.uid)]) gone late noticed)
    else
      let known := (s.lanesOn l d).any (fun k => late.getLsbD k)
      let s1 := s.sttWrite o l z lane
      let s2 := if known then s1 else s1.logLate o d t (((accOf l lane).map (fun a => a.va)).getD 0)
      (s2.setOp o.id (.stt l z t rel lf queued held (lane :: gone) (late ||| maskOf [lane]) noticed)).sttSettle o.id
  | _ => s

/-- What a tensed store with .REL orders has been applied on every die (R132). -/
def State.sttReady (s : State) (o : Op) (rel : Bool) : Bool :=
  !rel || (!(s.ops.any (fun x => x.warp == o.warp && decide (x.id < o.id) && x.kind.holdsRelease)) && s.drained o.die)

/-- STT_ARRIVAL (R130, R134): the lowest lane on its way to the die reaches it; without space there it waits in its link queue. That each
lane finds space for itself is the model's choice (assumption 133). -/
def execSttArrival (n die : Nat) (s : State) : Out :=
  match s.op n with
  | none => .next s
  | some o =>
    match o.kind with
    | .stt l z t rel lf queued held gone late noticed =>
      match (s.lanesOn l die).find? (fun k => !queued.contains k && !held.any (fun h => h.1 == k) && !gone.contains k) with
      | none => .next s
      | some k =>
        if s.sttReady o rel = false then .next s
        else if Config.tensedSpace ≤ s.heldOn die then .next (s.setOp n (.stt l z t rel lf (queued ++ [k]) held gone late noticed))
        else .next (s.sttTake o die k)
    | _ => .next s

/-- TENSED_STORE_ADMIT (R134): the lane that has waited longest at the die finds space. -/
def execTensedStoreAdmit (n die : Nat) (s : State) : Out :=
  match s.op n with
  | none => .next s
  | some o =>
    match o.kind with
    | .stt l _ _ _ _ queued _ _ _ _ =>
      match queued.find? (s.laneOn l die) with
      | none => .next s
      | some k => if s.heldOn die < Config.tensedSpace then .next (s.sttTake o die k) else .next s
    | _ => .next s

/-- Some store held on the die must become visible before this one: an earlier T, or the same T and an earlier arrival
(R130). -/
def State.sttBehind (s : State) (d t seq : Nat) : Bool :=
  s.ops.any (fun o => match o.kind with
    | .stt l _ u _ _ _ held _ _ _ => held.any (fun h => s.laneOn l d h.1 && (decide (u < t) || (u == t && decide (h.2 < seq))))
    | _ => false)

/-- STT_VISIBLE (R130, R134): the lane that has been held longest on the die becomes visible as home time reaches T; each store released
while the die is not LOCKED is counted. -/
def execSttVisible (n die : Nat) (s : State) : Out :=
  match s.op n with
  | none => .next s
  | some o =>
    match o.kind with
    | .stt l z t rel lf queued held gone late noticed =>
      match held.find? (fun h => s.laneOn l die h.1) with
      | none => .next s
      | some h =>
        if (s.die die).time < t ∨ s.sttBehind die t h.2 = true then .next s
        else
          let s1 := if s.isLocked die then s else s.setDie die (fun x => { x with ulrel := (x.ulrel + 1) % 2 ^ 64 })
          let s2 := s1.sttWrite o l z h.1
          .next ((s2.setOp n (.stt l z t rel lf queued (held.filter (fun x => x.1 != h.1)) (h.1 :: gone) late noticed)).sttSettle n)
    | _ => .next s

/-- LATE_NOTICE (R376): one LATE is pending at the issuer, with the lanes of the first late store, before TMD falls (R316). -/
def execLateNotice (n : Nat) (s : State) : Out :=
  match s.op n with
  | none => .next s
  | some o =>
    match o.kind with
    | .stt l z t rel lf queued held gone late noticed =>
      if late = 0 ∨ !lf ∨ noticed ∨ !(l.all (fun a => gone.contains a.lane)) then .next s
      else
        let s1 := s.setWarp o.warp (fun w => { w with late := some (w.late.getD late) })
        .next ((s1.setOp n (.stt l z t rel lf queued held gone late true)).sttSettle n)
    | _ => .next s

/-- LDT_ARRIVAL (R132): the lowest lane on its way to the die reaches it. -/
def execLdtArrival (n die : Nat) (s : State) : Out :=
  match s.op n with
  | none => .next s
  | some o =>
    match o.kind with
    | .ldt l z vd t acq arrived got iss =>
      match (s.lanesOn l die).find? (fun k => !arrived.contains k) with
      | none => .next s
      | some k => if arrived = [64] then .next s else .next (s.setOp n (.ldt l z vd t acq (k :: arrived) got iss))
    | _ => .next s

/-- A store held on the die that is due by time t covers some of the bytes (R132). -/
def State.heldOver (s : State) (d t pa z : Nat) : Bool :=
  s.ops.any (fun o => match o.kind with
    | .stt l y u _ _ _ held _ _ _ => decide (u ≤ t) && held.any (fun h => s.laneOn l d h.1 &&
        (match accOf l h.1 with | some a => overlaps a.pa y pa z | none => false))
    | _ => false)

/-- The thread's older accesses to the lane's bytes are not all performed, so that its load is not either (R108). -/
def State.ldtBehind (s : State) (o : Op) (z : Nat) (a : LaneAcc) : Bool :=
  s.before o.warp o.id (some a.lane) a.pa z || s.storeBefore o.warp o.id (some a.lane) a.pa z

/-- The lanes of a tensed load at a die that may be performed: arrived, not performed, and behind no older access of their thread. -/
def State.ldtReady (s : State) (o : Op) (z : Nat) (l : List LaneAcc) (arrived got : List Nat) : List LaneAcc :=
  l.filter (fun a => arrived.contains a.lane && !got.contains a.lane && !s.ldtBehind o z a)

/-- LDT_PERFORMED (R132): the lowest lane that waits at the die reads home values at home time N or later, after every store held there
that is due by N, and with it the other such lanes at its address (R307). -/
def execLdtPerformed (n die : Nat) (s : State) : Out :=
  match s.op n with
  | none => .next s
  | some o =>
    match o.kind with
    | .ldt l z vd t acq arrived got iss =>
      match (s.ldtReady o z l arrived got).find? (fun a => s.homeDie a.pa == die) with
      | none => .next s
      | some a =>
        if (s.die die).time < t ∨ s.heldOver die t a.pa z = true then .next s
        else
          let s0 := s.meetRead o.die a.pa z
          let mine := (s.ldtReady o z l arrived got).filter (fun b => b.pa == a.pa)
          let s1 := mine.foldl (fun s b =>
            let x := s.pmodeBytes o b z (s0.home a.pa z)
            x.1.setWarp o.warp (fun w => w.writeAll (s.widthOf o.warp) (loadWrites vd b.lane z false x.2.1 x.2.2))) s0
          let got := mine.map (fun b => b.lane) ++ got
          let s2 := s1.setOp n (.ldt l z vd t acq arrived got iss)
          if l.all (fun a => got.contains a.lane) then
            .next ((if acq then s2.acquire o.die 5 else s2).endOp o)
          else .next s2
    | _ => .next s

/-- The times at which something that a die holds is due: visible times of held stores, not-before times of loads that have arrived. -/
def State.dueOn (s : State) (d : Nat) : List Nat :=
  s.ops.flatMap (fun o => match o.kind with
    | .stt l _ t _ _ _ held _ _ _ => if held.any (fun h => s.laneOn l d h.1) then [t] else []
    | .ldt l _ _ t _ arrived got _ => if l.any (fun a => arrived.contains a.lane && !got.contains a.lane && s.homeDie a.pa == d) then [t] else []
    | _ => [])

end Sys2Proof.Machine
end

