-- ==== Sys2Proof/Machine/DieTime.lean ====
section
/-! DEFINITION. The die-time discipline (R127, R128, R467, R468) and the reports of a change of SERVICE (R449, R475). -/

namespace Sys2Proof.Machine

/-- A change under which SERVICE may change: the host is told of the new value (R449 kind 4). What MMA_FMT reports rises with it and never
falls (R34). -/
def State.reporting (s : State) (f : State → State) : State :=
  let t := f s
  let t := { t with fmtTop := t.fmtTop ||| t.fmtNow }
  if t.service = s.service then t else t.note 4 2 (toBytes t.service 4)

/-- What die d knows of die p. -/
def Die.peer (x : Die) (p : Nat) : Peer := tget Peer.reset x.peers p

/-- What die d knows of die p changed. -/
def State.setPeer (s : State) (d p : Nat) (f : Peer → Peer) : State :=
  s.setDie d (fun x => { x with peers := tset Peer.reset x.peers p (f (x.peer p)) })

/-- A die counts a peer while both have EN set (R128). -/
def Die.counts (x : Die) (p : Nat) : Bool := x.en && decide (p < 4) && p != x.id && (x.peer p).en

/-- The peers that a die counts. -/
def Die.counted (x : Die) : List Nat := (List.range 4).filter x.counts

/-- GOOD (R468). -/
def Die.good (x : Die) : Nat :=
  if x.counted = [] then 0 else x.counted.foldl (fun m p => min m (x.peer p).good) 8

/-- A die in ACQUIRE locks when every counted peer's last eight exchanges were within ε (R128); near says that its time lies within ε of
every locked die's. -/
def Die.tryLock (x : Die) (near : Bool) : Die :=
  if x.tstate = .acquire ∧ x.counted ≠ [] ∧ x.good = 8 ∧ near = true then { x with tstate := .locked } else x

/-- The times of the other dies that are LOCKED. -/
def State.lockedTimes (s : State) (d : Nat) : List Nat :=
  ((List.range 4).filter (fun p => p != d && s.isLocked p)).map (fun p => (s.die p).time)

/-- The die's time lies within ε of that of every other locked die (R128). -/
def State.nearLocked (s : State) (d : Nat) : Bool :=
  (s.lockedTimes d).all (fun t => decide ((s.die d).time ≤ t + Config.epsilon) && decide (t ≤ (s.die d).time + Config.epsilon))

/-- Die time advances by as much of ns as the discipline and the die's tensed accesses allow: two locked dies stay within ε of each other
(R128), and time does not pass a moment at which something that the die holds is due (R130, R132). -/
def State.elapse (s : State) (d ns : Nat) : State :=
  let now := (s.die d).time
  let bounds := s.dueOn d ++ (if s.isLocked d then (s.lockedTimes d).map (fun t => t + Config.epsilon) else [])
  s.setDie d (fun x => { x with time := max now (bounds.foldl min (now + ns)) % 2 ^ 64 })

/-- A LOCKED die goes to ACQUIRE, and steers nothing there (R127, R128, R468). -/
def Die.unlock (x : Die) : Die :=
  if x.tstate = .locked then { x with tstate := .acquire, rate := 0, unlocks := (x.unlocks + 1) % 2 ^ 32 } else x

/-- Two dies are distinct and named. -/
def twoDies (d p : Nat) : Bool := decide (d < 4) && decide (p < 4) && d != p

/-- SYNC_EXCHANGE (R467): once per millisecond of its die time the die stamps t1 for a counted peer. -/
def execSyncExchange (d p : Nat) (s : State) : Out :=
  let x := s.die d
  let q := x.peer p
  if !twoDies d p || !x.counts p || q.t1.isSome || decide (x.time < (q.last.map (fun t => t + 1000000)).getD 0) then .next s
  else .next (s.setPeer d p (fun q => { q with t1 := some x.time, t23 := none, last := some x.time }))

/-- SYNC_RECEIVE (R467): the peer stamps t2 as the flit of die d arrives, and t3 as its reply leaves. -/
def execSyncReceive (d p : Nat) (s : State) : Out :=
  let q := (s.die d).peer p
  if !twoDies d p || q.t1.isNone || q.t23.isSome || !s.linkUp d p then .next s
  else .next (s.setPeer d p (fun q => { q with t23 := some ((s.die p).time, (s.die p).time) }))

/-- θ from the four stamps, rounded toward zero (R467). -/
def syncOffset (t1 t2 t3 t4 : Nat) : Int := (((t2 : Int) - t1) - ((t4 : Int) - t3)).tdiv 2

/-- RATE while a die is locked: the control law is the device's own within ±100 ppm (R127). -/
def steer (x : DWord) : Int := (x.toNat % 200001 : Nat) - (100000 : Int)

/-- SYNC_REPLY (R128, R467): the offset is estimated, the run of exchanges within ε goes on or starts again, and the die's state
follows. -/
def execSyncReply (d p : Nat) (s : State) : Out :=
  let x := s.die d
  match (x.peer p).t1, (x.peer p).t23 with
  | some t1, some (t2, t3) =>
    if !twoDies d p || decide (t1 + 100000 < x.time) || !s.linkUp d p then .next s
    else
      let th := syncOffset t1 t2 t3 x.time
      let near := decide (th.natAbs ≤ Config.epsilon)
      .next (s.reporting (fun s =>
        let r := s.draw
        let s := r.2.setPeer d p (fun q => { q with
          good := if near then min 8 (q.good + 1) else 0
          miss := 0
          offset := th
          ok := true
          t1 := none
          t23 := none })
        let ok := s.nearLocked d
        s.setDie d (fun x =>
          let x := if x.tstate = .free ∧ x.counts p then { x with tstate := .acquire } else x
          let x := if !near && x.counts p then x.unlock else x
          let x := x.tryLock ok
          { x with rate := if x.tstate = .locked then steer r.1 else 0 })))
  | _, _ => .next s

/-- EXCHANGE_MISSED (R128, R467): no reply within 100 µs, or the link is lost (R466). -/
def execExchangeMissed (d p : Nat) (s : State) : Out :=
  let x := s.die d
  match (x.peer p).t1 with
  | none => .next s
  | some t1 =>
    if !twoDies d p || (decide (x.time ≤ t1 + 100000) && s.linkUp d p) then .next s
    else
      .next (s.reporting (fun s =>
        let s := s.setPeer d p (fun q => { q with good := 0, miss := q.miss + 1, ok := false, t1 := none, t23 := none })
        s.setDie d (fun x =>
          let x := { x with missed := (x.missed + 1) % 2 ^ 32 }
          if x.counts p ∧ 3 ≤ (x.peer p).miss then x.unlock else x)))

/-- A peer as it starts to be counted or stops (R128): its runs begin again. -/
def Peer.restart (q : Peer) : Peer := { q with good := 0, miss := 0, t1 := none, t23 := none }

/-- DTIME.EN of a die written (R128, R468). -/
def State.writeTimeEn (s : State) (d : Nat) (on : Bool) : State :=
  s.reporting (fun s => s.setDie d (fun x =>
    if x.en = on then x
    else
      let x := { x with en := on, peers := x.peers.map (fun (e : Nat × Peer) => (e.1, e.2.restart)) }
      if on then x else x.unlock))

/-- DTIME_EN_WRITE (R128). -/
def execDtimeEnWrite (d : Nat) (v : BitVec 64) (s : State) : Out :=
  if d < 4 then .next (s.writeTimeEn d (v.getLsbD 0)) else .next s

/-- LINK_CONTROL_FLIT (R128): the peer's EN reaches the die. -/
def execLinkControlFlit (d p : Nat) (s : State) : Out :=
  let on := (s.die p).en
  if !twoDies d p || !s.linkUp d p || ((s.die d).peer p).en == on then .next s
  else
    .next (s.reporting (fun s =>
      (s.setPeer d p (fun q => { q.restart with en := on })).setDie d (fun x => x.tryLock (s.nearLocked d))))

end Sys2Proof.Machine
end

