-- ==== Sys2Proof/Machine/Splits.lean ====
section
/-! DEFINITION. The split table: division, joins and merges, deferred lanes, exits (R43 to R49, R53, R255). -/

namespace Sys2Proof.Machine

/-- Entries of a table that satisfy a test, ascending. -/
def entriesWith (t : List Split) (f : Split → Bool) : List Nat :=
  (List.range t.length).filter (fun j => f (t.getD j Split.free))

/-- The lowest-numbered FREE entry. -/
def freeEntry (t : List Split) : Option Nat := (entriesWith t (fun p => p.st == .free)).head?

/-- Entries parked at a JOIN address, explicit or implicit. -/
def parkedAt (t : List Split) (a : Nat) (imp : Bool) : List Nat :=
  entriesWith t (fun p => p.st == .park && p.pc == a && p.imp == imp)

/-- Entries whose deferred slot is parked at a JOIN address. -/
def deferredAt (t : List Split) (a : Nat) (imp : Bool) : List Nat :=
  entriesWith t (fun p => p.defSt == .parked && p.dpc == a && p.dimp == imp)

/-- The deferred slot emptied. -/
def Split.dropDef (p : Split) : Split :=
  { p with defSt := .empty, dpc := 0, dmask := 0, dloops := [], dimp := false, ddiv := 0 }

/-- The entry FREE, its marker lost; what its deferred slot holds stays there (R45). -/
def Split.clear (p : Split) : Split :=
  { Split.free with
    stamp := p.stamp, defSt := p.defSt, dpc := p.dpc, dmask := p.dmask, dloops := p.dloops, dimp := p.dimp, ddiv := p.ddiv }

/-- The entry started with lanes at a location, in code that div divided calls reached (R43, R49, R399). -/
def Split.start (p : Split) (pc : Nat) (m : Mask) (loops : List LoopEnt) (mark : Option (Nat × Mask)) (div stamp : Nat) : Split :=
  { p with
    st := .run, pc := pc, mask := m, loops := loops, mark := mark, stamp := stamp, wait := .ready, hints := [], promoted := false
    since := stamp, stall := 0, imp := false, div := div }

/-- The entry started with the lanes of its deferred slot, which is emptied; it keeps its marker (R44, R47). -/
def Split.startDef (p : Split) (stamp : Nat) : Split := (p.start p.dpc p.dmask p.dloops p.mark p.ddiv stamp).dropDef

/-- The merge of the lanes parked at one JOIN address, if they cover the rejoin mask ANDed with the alive lanes (R45). The merge at
an implicit JOIN clears the marker (R255). -/
def Warp.mergeAt (w : Warp) (stamp key : Nat) : Warp :=
  match tfind w.joins key with
  | none => w
  | some j =>
    let a := key / 2
    let imp := j.2
    let ents := parkedAt w.splits a imp
    let defs := deferredAt w.splits a imp
    let lanesOf := (ents.foldl (fun m n => m ||| (w.split n).mask) 0) ||| (defs.foldl (fun m n => m ||| (w.split n).dmask) 0)
    if lanesOf = 0 then { w with joins := terase w.joins key }
    else if j.1 &&& w.alive &&& ~~~lanesOf ≠ 0 then w
    else
      let pick : Option (Nat × List LoopEnt × Option (Nat × Mask) × Nat) :=
        match ents with
        | e :: _ => some (e, (w.split e).loops, (w.split e).mark, (w.split e).div)
        | [] => match freeEntry w.splits, defs with
          | some f, d :: _ => some (f, (w.split d).dloops, (w.split d).mark, (w.split d).ddiv)
          | _, _ => none
      match pick with
      | none => w
      | some (e, loops, mark, div) =>
        let mark := if imp then none else mark
        let go := if imp then (loops, a) else loopEnd loops a
        let w := defs.foldl (fun w n => w.setSplit n Split.dropDef) w
        let w := (ents.drop 1).foldl (fun w n => w.setSplit n Split.clear) w
        let w := w.setSplit e (fun p => p.start go.2 lanesOf go.1 mark div stamp)
        { w with joins := terase w.joins key }

/-- Pending lanes move into FREE entries, each with a copy of its owner's marker (R46). -/
def Warp.refill (w : Warp) (stamp : Nat) : Warp :=
  (List.range 4).foldl (fun w _ =>
    match freeEntry w.splits, (entriesWith w.splits (fun p => p.defSt == .pending)).head? with
    | some f, some o =>
      let q := w.split o
      let w := w.setSplit f (fun p => p.start q.dpc q.dmask q.dloops q.mark q.ddiv stamp)
      w.setSplit o Split.dropDef
    | _, _ => w) w

/-- Every merge that can take place, then pending lanes into FREE entries (R45, R46). Where two merges wait for the one entry that comes
free, the one at the lower JOIN address takes it, which is the model's choice (assumption 27). -/
def Warp.settleSplits (w : Warp) (stamp : Nat) : Warp :=
  let once := fun (w : Warp) => (w.joins.map (fun j => j.1)).foldl (fun w k => w.mergeAt stamp k) w
  (once (once (once w))).refill stamp

/-- The split of entry n executes a JOIN at address a with rejoin mask m (R44, R45); an implicit JOIN continues at a itself
(R255). The entry stands at a. In case 1 the JOIN is a no-op; a parked split keeps its group, which it executes again after a stop
(R70). -/
def Warp.joinAt (w : Warp) (n : Nat) (a : Nat) (m : Mask) (imp : Bool) (stamp : Nat) : Warp :=
  let p := w.split n
  if m &&& w.alive &&& ~~~p.mask = 0 then
    let go := if imp then (p.loops, a) else loopEnd p.loops a
    w.setSplit n (fun p => p.moved go.2 go.1 stamp)
  else
    let w := { w with joins := tput w.joins (2 * a + b2n imp) (m, imp) }
    let w :=
      if p.defSt = .pending then
        w.setSplit n (fun p => { (p.startDef stamp) with
          defSt := .parked, dpc := a, dmask := p.mask, dloops := p.loops, dimp := imp, ddiv := p.div })
      else w.setSplit n (fun p => { (p.moved a p.loops stamp) with st := .park, imp := imp, hints := p.hints })
    w.settleSplits stamp

/-- A lane is parked at a JOIN. -/
def Warp.laneParked (w : Warp) (l : Nat) : Bool :=
  w.splits.any (fun p => (p.st == .park && p.mask.getLsbD l) || (p.defSt == .parked && p.dmask.getLsbD l))

/-- A split parked at a JOIN executes the JOIN again, from the first word of its group, when its warp resumes (R70). -/
def Split.unpark (p : Split) (stamp : Nat) : Split :=
  if p.st = .park ∧ p.imp = false then { p.rewind with st := .run, stamp := stamp, since := stamp } else p

/-- The entries that a division into groups uses after the first group, and the lanes left over (R49, R258). -/
def placeGroups : List Nat → List (Nat × Nat × Mask) → List (Nat × Nat × Nat × Mask) × Mask
  | _, [] => ([], 0)
  | [], g :: r => ([], r.foldl (fun m x => m ||| x.2.2) g.2.2)
  | f :: fs, g :: r => let x := placeGroups fs r; ((f, g) :: x.1, x.2)

/-- Lanes grouped by a pair of keys, ascending: target and depth (R49, R258). -/
def groupLanes (l : List (Nat × Nat × Nat)) : List (Nat × Nat × Mask) :=
  let lt := fun (a b : Nat × Nat) => decide (a.1 < b.1) || (decide (a.1 = b.1) && decide (a.2 < b.2))
  let keys := sortBy lt ((l.map (fun x => x.2)).eraseDups)
  keys.map (fun k => (k.1, k.2, maskOf ((l.filter (fun x => x.2 == k)).map (fun x => x.1))))

/-- Lanes of the split of entry n exit (R47, R262). -/
def Warp.exitLanes (w : Warp) (n stamp : Nat) : Warp :=
  let w := w.setSplit n (fun p =>
    match p.defSt with
    | .empty => { Split.free with stamp := p.stamp }
    | .pending => p.startDef stamp
    | .parked => { (p.startDef stamp) with st := .park, imp := p.dimp })
  w.settleSplits stamp

/-- Splits that the warp holds (R399). -/
def Warp.splitCount (w : Warp) : Nat :=
  (w.splits.filter (fun p => p.st != .free)).length + (w.splits.filter (fun p => p.defSt != .empty)).length

/-- Divided calls that a callee is reached by: a call is divided while its warp holds several splits, and in code that a divided call
reached (R399). -/
def Warp.callDiv (w : Warp) (p : Split) : Nat := if 1 < w.splitCount ∨ p.div ≠ 0 then p.div + 1 else 0

/-- A loop stack cut to the depth of a link; a shorter one is kept (R53). -/
def cutLoops (l : List LoopEnt) (depth : Nat) : List LoopEnt := l.drop (l.length - depth)

end Sys2Proof.Machine
end

