-- ==== Sys2Proof/Machine/MemControl.lean ====
section
/-! DEFINITION. Fences, cache control, translation registers, semaphores and warp migration: major 0x27 (R317 to R322). -/

namespace Sys2Proof.Machine

/-- The 57-bit address in a q pair (R317). -/
def Cx.qaddr (c : Cx) (a : Nat) : Nat := (c.warp.qreg a).toNat % vaMod

/-- FENCE (R112, R318): the warp's earlier accesses are performed first, and for a release at scope 5 or 6 the die's writes
are applied everywhere. One waits for a lost link as the acquires and releases do (R466). -/
def execFence (k : BitVec 7) (bs : BitVec 7) (s : State) : Out :=
  issue s (fun c => once (k != 0 && decide (k.toNat ≤ 3) && decide (bs.toNat ≤ 6)) accNoMod c [] []) (fun c =>
    let sc := bs.toNat
    if s.released c.w c.die (if ordRel k.toNat then sc else 0) = false ∨ s.acquires c.die (if ordAcq k.toNat then sc else 0) = false then .next s
    else
      let s1 := if ordRel k.toNat then s.sysRelease c.die sc else s
      let s2 := if ordAcq k.toNat then s1.acquire c.die sc else s1
      .next (s2.advance c))

/-- CWB (R319). -/
def execCwb (a b : BitVec 7) (s : State) : Out :=
  issue s (fun c => once (even a) accNoMod c [qref a.toNat, sref b.toNat] []) (fun c =>
    let len := (c.warp.sreg b.toNat).toNat
    if len = 0 then .next (s.advance c)
    else if c.room .gst 1 = false then .next s
    else .next (((s.raise c .gst 1).begin c [] (some (.gst, 1)) (.cwb (c.qaddr a.toNat) len)).1.advance c))

/-- CINV.D (R319): the issuing core's L1 copies of the global lines of the range are dropped. -/
def execCinvD (a b : BitVec 7) (s : State) : Out :=
  issue s (fun c => once (even a) accNoMod c [qref a.toNat, sref b.toNat] []) (fun c =>
    let len := (c.warp.sreg b.toNat).toNat
    let keep := (tget [] s.l1 c.warp.core).filter (fun e => len == 0 ||
      !(List.range lineBytes).any (fun i => s.rangeHas c.die c.grid.ctx (c.qaddr a.toNat) len (lineBytes * e + i)))
    .next ({ s with l1 := tset [] s.l1 c.warp.core keep }.advance c))

/-- CINV.I (R319): the core's instruction-cache copies of the range are dropped. -/
def execCinvI (a b : BitVec 7) (s : State) : Out :=
  issue s (fun c => once (even a) accNoMod c [qref a.toNat, sref b.toNat] []) (fun c =>
    let len := (c.warp.sreg b.toNat).toNat
    let keep := (tget [] s.icache c.warp.core).filter (fun e => len == 0 ||
      !(s.rangeHas c.die c.grid.ctx (c.qaddr a.toNat) len (4 * e.1)))
    .next ({ s with icache := tset [] s.icache c.warp.core keep }.advance c))

/-- PREF.L2 (R319). -/
def execPrefL2 (a b : BitVec 7) (s : State) : Out :=
  issue s (fun c => once (even a) accNoMod c [qref a.toNat, sref b.toNat] []) (fun c => .next (s.advance c))

/-- PREF.L1 (R319). -/
def execPrefL1 (a b : BitVec 7) (s : State) : Out :=
  issue s (fun c => once (even a) accNoMod c [qref a.toNat, sref b.toNat] []) (fun c => .next (s.advance c))

/-- A translation that checks no permission (R320): NOTPRESENT, then TIERMOVE. -/
def State.xlatePath (s : State) (d ctx va : Nat) : Except WalkFault Trans :=
  match s.leaf d ctx va with
  | .error f => .error f
  | .ok t => if bit t.pte 7 then .error (.tierMove, false) else .ok t

/-- XLATE (R320). -/
def execXlate (t : BitVec 3) (a b : BitVec 7) (s : State) : Out :=
  issue s (fun c => once (even a) accNoMod c [qref a.toNat, sref b.toNat] [.t t.toNat]) (fun c =>
    let va := c.qaddr a.toNat
    let cap := (c.warp.sreg b.toNat).toNat
    match s.xlatePath c.seat c.grid.ctx va with
    | .error f => .next (s.park c f.1 4 f.2 c.split.mask [va / 65536 * 65536] va none)
    | .ok x =>
      let room := x.base + pageBytes x.size - va
      let limit := if x.window.isSome then 0 else if cap ≠ 0 ∧ cap < room then cap else room
      .next (s.later c [.t t.toNat] [.t t.toNat
        { base := va, size := x.size, valid := true, stale := false, pa := x.pa, limit := limit, asid := c.ctx.asid,
          rd := bit x.pte 2, wr := bit x.pte 3, ac := bit x.pte 5, far := bit x.pte 6 }] 0))

/-- XDROP (R320). -/
def execXdrop (t : BitVec 3) (s : State) : Out :=
  issue s (fun c => once true accNoMod c [] [.t t.toNat]) (fun c =>
    .next (s.now c [.t t.toNat { c.warp.treg t.toNat with valid := false }]))

/-- A semaphore reached by a warp or its trap or fault (R321): its physical address. An instruction that counts on a path keeps its raise
as it parks (R91). -/
def State.semAddr (s : State) (c : Cx) (path : Option Path) (va : Nat) (n : Need) : Except State Nat :=
  if va % 8 ≠ 0 then .error (s.trap c .misalign c.split.mask va)
  else match s.translate c.seat c.grid.ctx va n with
    | .error f => .error (s.parkCounted c path (if n = .atomic then 2 else 0) (f, va))
    | .ok x => if x.window.isSome then .error (s.trap c .access c.split.mask va) else .ok x.pa

/-- SEMS (R321): an atomic addition at the home and a device-scope release. -/
def execSems (a b : BitVec 7) (s : State) : Out :=
  issue s (fun c => once (even a) accNoMod c [qref a.toNat, sref b.toNat] []) (fun c =>
    let va := c.qaddr a.toNat
    if c.room .gst 1 = false then .next s
    else match s.semAddr c (some .gst) va .atomic with
      | .error t => .next t
      | .ok pa =>
        if s.released c.w c.die 5 = false then .next s
        else
          let acc : LaneAcc := ⟨lowLane c.split.mask, va, pa, toBytes (c.warp.sreg b.toNat).toNat 8, [], none, 0, none⟩
          .next (((s.raise c .gst 1).begin c [] (some (.gst, 1)) (.atom .add [acc] 8 none 2 5)).1.advance c))

/-- The value of a semaphore at its home (R321). -/
def State.semValue (s : State) (pa : Nat) : Nat := ofBytes (s.home pa 8)

/-- A wait for a semaphore is over (R321): its value at the home has come to the threshold, no access of the warp to it that is not performed
yet comes first (R108), and neither a lost link nor a held channel keeps the read or the acquire (R466, R485). -/
def State.semReady (s : State) (w d pa th : Nat) : Bool :=
  decide (th ≤ s.semValue pa) && !s.before w s.uid none pa 8 && !s.unserved d pa 8 && s.acquires d 5

/-- SEMW (R321): it reads the home, after the warp's own accesses to the semaphore that are not performed yet (R108). -/
def execSemw (a b : BitVec 7) (s : State) : Out :=
  issue s (fun c => once (even a && even b) accNoMod c [qref a.toNat, qref b.toNat] []) (fun c =>
    let va := c.qaddr a.toNat
    let th := (c.warp.qreg b.toNat).toNat
    match s.semAddr c none va .load with
    | .error t => .next t
    | .ok pa =>
      let s := s.meetRead c.die pa 8
      if s.semReady c.w c.die pa th then .next ((s.acquire c.die 5).advance c)
      else .next (s.hold c (.sem va th)))

/-- A waiting split of a running warp and its context. -/
def State.waiting (s : State) (w sp : Nat) : Option Cx :=
  match s.cxOf w sp with
  | some c => if c.warp.life = .running ∧ c.warp.fault = none ∧ c.split.st = .run ∧ c.warp.skidRoom 1 = true then some c else none
  | none => none

/-- The split of an entry completes the instruction that it waits at; a sibling in its skid counts it (R69). -/
def Warp.passAt (w : Warp) (sp : Nat) : Warp :=
  { (w.setSplit sp Split.completed) with
    skid := if w.haltAt.isSome ∧ w.life = .running then min 12 (w.skid + 1) else w.skid }

/-- A waiting instruction completes: the split goes on (R40). -/
def State.resume (s : State) (c : Cx) : State := s.onWarp c (fun w => w.passAt c.sp)

/-- SEMW_SATISFIED (R108, R321): a translation that now faults makes the instruction execute again. -/
def execSemwSatisfied (w sp : Nat) (s : State) : Out :=
  match s.waiting w sp with
  | none => .next s
  | some c =>
    match c.split.wait with
    | .sem va th =>
      match s.translate c.seat c.grid.ctx va .load with
      | .error _ => .next (s.unhold c)
      | .ok x =>
        let s := s.meetRead c.die x.pa 8
        if s.semReady c.w c.die x.pa th then .next ((s.acquire c.die 5).resume c) else .next s
    | _ => .next s

/-- MIGRATE (R63, R64, R322). -/
def execMigrate (a : BitVec 7) (s : State) : Out :=
  issue s (fun c => once (even a) accNoMod c [qref a.toNat] []) (fun c =>
    let runs := entriesWith c.warp.splits (fun p => p.st == .run)
    let defs := entriesWith c.warp.splits (fun p => p.defSt != .empty)
    if c.grid.migr = false ∨ c.group.warps.length ≠ 1 ∨ runs ≠ [c.sp] ∨ defs ≠ [] then
      .next (s.trap c .illegal c.split.mask 0)
    else
      let va := c.qaddr a.toNat
      match s.xlatePath c.seat c.grid.ctx va with
      | .error f => .next (s.park c f.1 0 f.2 c.split.mask [va / 65536 * 65536] va none)
      | .ok x =>
        if s.homeDie x.pa = c.die then .next (s.advance c) else .next (s.hold c (.migrate (s.homeDie x.pa))))

/-- The landing positions of a die that hold a warp, by their core. -/
def State.landed (s : State) (d : Nat) : List Nat :=
  s.warps.filterMap (fun w => if w.2.landing && w.2.life != .exited && w.2.core / Config.dieCores == d then some w.2.core else none)

/-- The core whose slot 0 holds landing position i of a die (assumption 21). -/
def landingCore (d i : Nat) : Nat := d * Config.dieCores + i

/-- Every valid translation register becomes stale (R89). -/
def Warp.staleAll (w : Warp) : Warp :=
  { w with t := w.t.map (fun (e : Nat × TReg) => (e.1, { e.2 with stale := e.2.valid || e.2.stale })) }

/-- MIGRATE_SHIP (R64, R65): the handle registers are not shipped; the translation registers are stale. The landing core fetches its
words anew (R27). -/
def execMigrateShip (w : Nat) (s : State) : Out :=
  match (List.range 4).findSome? (fun sp => match s.waiting w sp with
    | some c => (match c.split.wait with | .migrate d => some (c, d) | _ => none)
    | none => none) with
  | none => .next s
  | some (c, d) =>
    let x := c.warp
    let full := x.vE == 0 && x.sE == 0 && x.kE == 0 && x.tE == 0 && x.hE == 0
    let place := (List.range Config.landings).find? (fun i => !(s.landed d).contains (landingCore d i))
    if s.reaches c.die d = true ∧ full = true ∧ x.gld = 0 ∧ x.lrm = 0 ∧ x.tcp = 0 ∧ x.tmd = 0 then
      match place with
      | none => .next s
      | some i =>
        let s := s.resume c
        let n := s.slotCyc (landingCore d i) 0
        let s := s.setWarp w (fun x =>
          { x.staleAll with
            core := landingCore d i, slot := 0, landing := true, h := [], splits := x.splits.map (fun p => p.rebase n) })
        let s := { s with icache := terase s.icache (landingCore d i) }
        .next (s.setGroup c.gid (fun g => { g with core := landingCore d i }))
    else .next s

end Sys2Proof.Machine
end

