-- ==== Sys2Proof/Machine/Invalidate.lean ====
section
/-! DEFINITION. Invalidation of translations: TLBINV, its performance on each die, and TLBACK (R89, R430, R431). -/

namespace Sys2Proof.Machine

/-- [a, a + n) and [b, b + m) overlap as ranges modulo 2^57; m is not 0 and at most 2^57. -/
def vaOverlap (a n b m : Nat) : Bool :=
  decide (0 < n) && (decide (vaMod ≤ n) || decide ((b + vaMod - a % vaMod) % vaMod < n) || decide ((a + vaMod - b % vaMod) % vaMod < m))

/-- A translation of an address-space identifier and a stretch of addresses is invalidated (R430). -/
def invHits (asid : Option Nat) (range : Option (Nat × Nat)) (a va len : Nat) : Bool :=
  (asid.map (fun x => decide (x = a))).getD true && (range.map (fun r => vaOverlap r.1 r.2 va len)).getD true

/-- A translation register marked STALE where the invalidation matches it (R89). -/
def TReg.inval (t : TReg) (asid : Option Nat) (range : Option (Nat × Nat)) : TReg :=
  if t.valid && decide (0 < t.limit) && invHits asid range t.asid t.base t.limit then { t with stale := true } else t

/-- A result still to be written to a translation register is stale when it comes. -/
def OpKind.inval (k : OpKind) (asid : Option Nat) (range : Option (Nat × Nat)) : OpKind :=
  match k with
  | .result l f => .result (l.map (fun w => match w with | .t r x => .t r (x.inval asid range) | x => x)) f
  | k => k

/-- The largest page holding the address, which a dropped translation may have covered. -/
def hugePage (va : Nat) : Nat := va / 2 ^ 30 * 2 ^ 30

/-- A pending operation may have used a translation that the invalidation dropped (R431). -/
def OpKind.usedBy (k : OpKind) (asid : Option Nat) (range : Option (Nat × Nat)) (a : Nat) : Bool :=
  let lanes := fun (l : List LaneAcc) => l.any (fun x => invHits asid range (x.asid.getD a) (hugePage x.va) (2 ^ 30))
  match k with
  | .load l _ _ _ _ _ f _ => f == 0 && lanes l
  | .store _ l _ _ => lanes l
  | .atom _ l _ _ _ _ => lanes l
  | .row _ _ _ l _ => lanes l
  | .ldt l _ _ _ _ _ _ _ => lanes l
  | .stt l _ _ _ _ _ _ _ _ _ => lanes l
  | .cwb va len => invHits asid range a (hugePage va) (2 ^ 30 + len)
  | .engine _ _ _ => invHits asid none a 0 1
  | .work _ _ _ => invHits asid none a 0 1
  | .slotReq _ _ _ _ _ _ => invHits asid none a 0 1
  | .sqgrow _ _ _ _ => invHits asid none a 0 1
  | _ => false

/-- TLBINV (R430). -/
def execTlbinv (d a b : BitVec 7) (s : State) : Out :=
  issue s (fun c => { once (even a && even b) Accept.none c [sref d.toNat, qref a.toNat, qref b.toNat] [] with priv := true }) (fun c =>
    let ctl := (c.warp.sreg d.toNat).toNat
    if bits ctl 18 14 ≠ 0 then .next (s.trap c .access c.split.mask ctl)
    else if s.released c.w c.die 5 = false then .next s
    else
      let asid := if bit ctl 16 then none else some (ctl % 65536)
      let range := if bit ctl 17 then none else some ((c.warp.qreg a.toNat).toNat % vaMod, (c.warp.qreg b.toNat).toNat)
      let n := s.uid
      let s := s.addOp c [] none (.tlbinv asid range [0, 1, 2, 3])
      .next ((s.onWarp c (fun w => { w with tlbinvs := w.tlbinvs ++ [n] })).advance c))

/-- The invalidation on one die: its cached translations are dropped, and translation registers there are marked STALE. -/
def State.invalidate (s : State) (die : Nat) (asid : Option Nat) (range : Option (Nat × Nat)) : State :=
  let s := s.setDie die (fun x => { x with tlb := x.tlb.filter (fun (t : TlbEnt) => !invHits asid range t.asid t.va (pageBytes t.size)) })
  let here := fun (w : Warp) => w.core / Config.dieCores == die
  { s with
    warps := s.warps.map (fun (e : Nat × Warp) =>
      if here e.2 then (e.1, { e.2 with t := e.2.t.map (fun (r : Nat × TReg) => (r.1, r.2.inval asid range)) }) else e)
    ops := s.ops.map (fun (o : Op) => if o.die = die then { o with kind := o.kind.inval asid range } else o) }

/-- Pending operations of a die that TLBACK waits for after the invalidation there. -/
def State.usersOf (s : State) (die : Nat) (asid : Option Nat) (range : Option (Nat × Nat)) : List Nat :=
  (s.ops.filter (fun o => o.die == die && o.kind.usedBy asid range o.asid)).map (fun o => o.id)

/-- TLBINV_PERFORM (R430). -/
def execTlbinvPerform (n die : Nat) (s : State) : Out :=
  match s.op n with
  | some o =>
    match o.kind with
    | .tlbinv asid range left =>
      if left.contains die then
        let s := s.invalidate die asid range
        let users := s.usersOf die asid range
        let s := s.setWarp o.warp (fun w => { w with tlbinvs := w.tlbinvs ++ users })
        let rest := ldel left die
        if rest = [] then .next (s.endOp o) else .next (s.setOp n (.tlbinv asid range rest))
      else .next s
    | _ => .next s
  | none => .next s

/-- What TLBACK waits for has ended (R431). -/
def State.acked (s : State) (w : Warp) : Bool :=
  w.tlbinvs.all (fun n => match s.op n with
    | some o => o.kind == .done
    | none => true)

/-- TLBACK (R431). -/
def execTlback (s : State) : Out :=
  issue s (fun c => { once true Accept.none c [] [] with priv := true }) (fun c =>
    if s.acked c.warp then .next ((s.onWarp c (fun w => { w with tlbinvs := [] })).advance c) else .next (s.hold c .tlback))

/-- TLBACK_COMPLETE (R431). -/
def execTlbackComplete (w sp : Nat) (s : State) : Out :=
  match s.waiting w sp with
  | none => .next s
  | some c =>
    if c.split.wait = .tlback ∧ s.acked c.warp = true then
      .next ((s.onWarp c (fun w => { w with tlbinvs := [] })).resume c)
    else .next s

end Sys2Proof.Machine
end

