-- ==== Sys2Proof/Machine/Control.lean ====
section
/-! DEFINITION. Branches, division, loops, calls, ending, waiting, query and traps: majors 0x0A to 0x0E (R249 to R270).
LAUNCH stands with the dispatcher. -/

namespace Sys2Proof.Machine

/-! ### Branches and loops -/

/-- The target of a B-format word (R211). -/
def Cx.target (c : Cx) (d : BitVec 18) : Nat := (((c.split.pc : Int) + 4 * c.imm 18 d.toNat) % (vaMod : Int)).toNat

/-- BR's condition over the active lanes of the split (R213). -/
def Cx.branchTaken (c : Cx) (cond k : Nat) : Bool :=
  let m := c.split.mask
  let x := c.k k
  let v := c.warp.sreg k
  match cond with
  | 0 => true
  | 1 => m &&& x != 0
  | 2 => m &&& ~~~x == 0
  | 3 => m &&& x == 0
  | 4 => m &&& ~~~x != 0
  | 5 => v == 0
  | 6 => v != 0
  | 7 => v.msb
  | _ => !v.msb

/-- BR (R249). -/
def execBr (c : BitVec 4) (k : BitVec 4) (d : BitVec 18) (s : State) : Out :=
  let wf := decide (c.toNat ≤ 8) && (c != 0 || k == 0)
  let src : List (List RegRef) := if c = 0 then [] else if c.toNat ≤ 4 then [[.k k.toNat]] else [sref k.toNat]
  issue s (fun x => once wf accImm x src []) (fun x =>
    .next (if x.branchTaken c.toNat k.toNat then s.jump x (x.target d) else s.advance x))

/-- BRD (R43, R250): kc is read before kr is written. A BRD that takes no lane goes on under R52 and unwinds nothing, since R53 names taken
targets only; R250 may be read otherwise, and this is the model's choice (assumption 150). -/
def execBrd (r : BitVec 4) (k : BitVec 4) (d : BitVec 18) (s : State) : Out :=
  issue s (fun x => once (r != 0) accImm x [[.k k.toNat]] [.k r.toNat]) (fun x =>
    let m := x.split.mask
    let taken := m &&& x.k k.toNat
    let rest := m &&& ~~~taken
    let setK := fun (s : State) => s.onWarp x (fun w => w.putK x.grid.w r.toNat m)
    if taken = 0 then .next (setK (s.advance x))
    else if rest = 0 then .next (setK (s.jump x (x.target d)))
    else
      let after := loopEnd x.split.loops x.split.pc
      match freeEntry x.warp.splits with
      | some f =>
        let s := setK (s.jump x (x.target d))
        let st := s.slotCyc x.warp.core x.warp.slot
        .next (s.onWarp x (fun w => (w.setSplit x.sp (fun p => { p with mask := taken })).setSplit f (fun p =>
          p.start after.2 rest after.1 x.split.mark x.split.div st)))
      | none =>
        if x.split.defSt ≠ .empty then .next (s.trap x .splitx m 0)
        else
          let s := setK (s.jump x (x.target d))
          .next (s.onWarp x (fun w => w.setSplit x.sp (fun p =>
            { p with mask := taken, defSt := .pending, dpc := after.2, dmask := rest, dloops := after.1, ddiv := x.split.div }))))

/-- LOOP (R51, R252): with a count of 0 the body is skipped and nothing is unwound. -/
def execLoop (k : BitVec 4) (d : BitVec 18) (s : State) : Out :=
  issue s (fun x => once (decide (1 ≤ x.imm 18 d.toNat)) accImm x [sref k.toNat] []) (fun x =>
    let n := (x.warp.sreg k.toNat).toNat
    let stop := x.target d
    let start := (x.split.pc + 4) % vaMod
    let go := fun (pc : Nat) (l : List LoopEnt) =>
      let s := s.tick x
      s.onWarp x (fun w => w.setSplit x.sp (fun p => p.moved pc l (s.slotCyc x.warp.core x.warp.slot)))
    if n = 0 then .next (go ((stop + 4) % vaMod) x.split.loops)
    else if 4 ≤ x.split.loops.length then .next (s.trap x .loopx x.split.mask 0)
    else .next (go start (⟨start, stop, n⟩ :: x.split.loops)))

/-- LEXIT (R253). -/
def execLexit (s : State) : Out :=
  issue s (fun x => once true Accept.none x [] []) (fun x =>
    match x.split.loops with
    | [] => .next (s.trap x .illegal x.split.mask 0)
    | e :: r =>
      let s := s.tick x
      let t := (e.stop + 4) % vaMod
      .next (s.onWarp x (fun w => w.setSplit x.sp (fun p => p.moved t (unwind r t) (s.slotCyc x.warp.core x.warp.slot)))))

/-- JOIN (R44, R251). One that parks its split has not completed, and counts toward no skid (R70). -/
def execJoin (a : BitVec 7) (s : State) : Out :=
  issue s (fun x => once (kreg a) Accept.none x [[.k a.toNat]] []) (fun x =>
    let s := s.tick x
    let m := x.k a.toNat
    let alone := decide (m &&& x.warp.alive &&& ~~~x.split.mask = 0)
    .next (s.onWarp x (fun w =>
      let y := w.joinAt x.sp x.split.pc m false (s.slotCyc x.warp.core x.warp.slot)
      if !alone && y.laneParked (lowLane x.split.mask) then { y with skid := x.warp.skid } else y)))

/-! ### Calls -/

/-- The link of a call at the split's word (R254). -/
def Cx.linkWrites (c : Cx) (m : Mask) : List RegWrite :=
  let ra := (c.split.pc + 4) % vaMod
  (lanes m).flatMap (fun l => [.v 0 l (BitVec.ofNat 32 ra) false,
    .v 1 l (BitVec.ofNat 32 (ra / 2 ^ 32 + c.split.loops.length * 2 ^ 25)) false])

/-- The split moved to a location with its stack as given and reached by div divided calls, after the instruction's tick. -/
def State.place (s : State) (c : Cx) (pc : Nat) (m : Mask) (loops : List LoopEnt) (div : Nat) : State :=
  s.onWarp c (fun w => w.setSplit c.sp (fun p =>
    { (p.moved pc loops (s.slotCyc c.warp.core c.warp.slot)) with mask := m, div := div }))

/-- CALL (R256). -/
def execCall (d : BitVec 18) (s : State) : Out :=
  issue s (fun x => once true accImm x [] (vref 0 2)) (fun x =>
    let s := (s.tick x).onWarp x (fun w => w.writeAll x.grid.w (x.linkWrites x.split.mask))
    .next (s.place x (x.target d) x.split.mask x.split.loops (x.warp.callDiv x.split)))

/-- The entries of a division started with their groups: FREE entries take later groups, the rest go to the deferred slot
at the instruction itself (R49, R258). -/
def Warp.divideTo (w : Warp) (c : Cx) (placed : List (Nat × Nat × Nat × Mask)) (rest : Mask) (mark : Option (Nat × Mask))
    (loopsOf : Nat → List LoopEnt) (div stamp : Nat) : Warp :=
  let w := placed.foldl (fun w g => w.setSplit g.1 (fun p => p.start g.2.1 g.2.2.2 (loopsOf g.2.2.1) mark div stamp)) w
  if rest = 0 then w
  else w.setSplit c.sp (fun p =>
    { p with defSt := .pending, dpc := c.split.first, dmask := rest, dloops := c.split.loops, ddiv := c.split.div })

/-- CALLI (R49, R255, R257). -/
def execCalli (a : BitVec 7) (s : State) : Out :=
  issue s (fun x => perLane (even a && x.vok a.toNat 2) Accept.none x [vref a.toNat 2] (vref 0 2)) (fun x =>
    let ls := lanes x.split.mask
    let tg := fun (l : Nat) => (x.va 64 a.toNat l).toNat % vaMod
    let bad := ls.filter (fun l => tg l % 4 != 0)
    if bad ≠ [] then .next (s.trap x .misalign (maskOf bad) (tg (bad.headD 0)))
    else
      match groupLanes (ls.map (fun l => (l, tg l, 0))) with
      | [] => .next s
      | [g] =>
        let s := (s.tick x).onWarp x (fun w => w.writeAll x.grid.w (x.linkWrites x.split.mask))
        .next (s.place x g.1 x.split.mask x.split.loops (x.warp.callDiv x.split))
      | g :: more =>
        let m := (x.split.pc + 4) % vaMod
        let other := match x.split.mark with | some k => k.1 != m | none => false
        let pl := placeGroups (entriesWith x.warp.splits (fun p => p.st == .free)) more
        if other = true ∨ (pl.2 ≠ 0 ∧ x.split.defSt ≠ .empty) then .next (s.trap x .splitx x.split.mask 0)
        else
          let mk := match x.split.mark with | some k => k.2 | none => x.split.mask
          let called := x.split.mask &&& ~~~pl.2
          let s := (s.tick x).onWarp x (fun w => w.writeAll x.grid.w (x.linkWrites called))
          let st := s.slotCyc x.warp.core x.warp.slot
          let s := s.onWarp x (fun w => w.divideTo x pl.1 pl.2 (some (m, mk)) (fun _ => x.split.loops)
            (x.split.div + 1) st)
          let s := s.place x g.1 g.2.2 x.split.loops (x.split.div + 1)
          .next (s.onWarp x (fun w => w.setSplit x.sp (fun p => { p with mark := some (m, mk) }))))

/-- RET (R258): each group unwinds to its depth, and then joins where its entry's marker says so (R255). Its form names no register,
so it has no source that HFE could select (R220). -/
def execRet (s : State) : Out :=
  issue s (fun x => { perLane true Accept.none x [] [] with hidden := vref 0 2, poison := x.poisonLanes [vref 0 2] }) (fun x =>
    let ls := lanes x.split.mask
    let tg := fun (l : Nat) => (x.warp.vreg 0 l).toNat + bits (x.warp.vreg 1 l).toNat 0 25 * 2 ^ 32
    let dep := fun (l : Nat) => bits (x.warp.vreg 1 l).toNat 25 3
    let bad := ls.filter (fun l => tg l % 4 != 0)
    if bad ≠ [] then .next (s.trap x .misalign (maskOf bad) (tg (bad.headD 0)))
    else
      match groupLanes (ls.map (fun l => (l, tg l, dep l))) with
      | [] => .next s
      | g :: more =>
        let pl := placeGroups (entriesWith x.warp.splits (fun p => p.st == .free)) more
        if pl.2 ≠ 0 ∧ x.split.defSt ≠ .empty then .next (s.trap x .splitx x.split.mask 0)
        else
          let s := s.tick x
          let st := s.slotCyc x.warp.core x.warp.slot
          let s := s.onWarp x (fun w => w.divideTo x pl.1 pl.2 x.split.mark (fun d => cutLoops x.split.loops d)
            (x.split.div - 1) st)
          let s := s.place x g.1 g.2.2 (cutLoops x.split.loops g.2.1) (x.split.div - 1)
          let used := (x.sp, g.1) :: pl.1.map (fun q => (q.1, q.2.1))
          .next (s.onWarp x (fun w => used.foldl (fun w u =>
            match (w.split u.1).mark with
            | some k => if k.1 = u.2 then w.joinAt u.1 u.2 k.2 true st else w
            | none => w) w)))

/-- JMPI (R259). -/
def execJmpi (a : BitVec 7) (s : State) : Out :=
  issue s (fun x => once (even a) Accept.none x [qref a.toNat] []) (fun x =>
    let t := (x.warp.qreg a.toNat).toNat % vaMod
    .next (if t % 4 = 0 then s.jump x t else s.trap x .misalign x.split.mask t))

/-! ### Barriers, ending and waiting -/

/-- The warp has arrived at the barrier of a scope: its splits parked there cover its alive lanes (R265). -/
def Warp.arrived (w : Warp) (scope : Nat) : Bool :=
  match w.life with
  | .exited => true
  | .running => w.fault.isNone && w.skidRoom (w.splits.filter (fun p => p.st == .run && p.wait == .bar scope)).length && decide (w.alive &&& ~~~(w.splits.foldl (fun m p =>
      if p.st = .run ∧ p.wait = .bar scope then m ||| p.mask else m) 0) = 0)
  | _ => false

/-- Workgroups that take part in a barrier of a scope with a workgroup (R265). -/
def State.barGroups (s : State) (gid scope : Nat) : List Nat :=
  match tfind s.groups gid with
  | none => []
  | some g =>
    match tfind s.grids g.grid with
    | none => [gid]
    | some gr =>
      if scope = 5 then (s.groups.filter (fun x => x.2.grid == g.grid)).map (fun x => x.1)
      else if scope = 3 ∧ gr.cluster ≠ 0 then
        (s.groups.filter (fun x => x.2.grid == g.grid && x.2.lin / gr.cluster == g.lin / gr.cluster)).map (fun x => x.1)
      else [gid]

/-- Warps of a list of workgroups. -/
def State.warpsOf (s : State) (gs : List Nat) : List Nat :=
  gs.flatMap (fun g => match tfind s.groups g with | some x => x.warps | none => [])

/-- Every split of the warp parked at a barrier of the scope goes on (R265). -/
def State.departWarp (s : State) (scope w : Nat) : State :=
  s.setWarp w (fun x => x.pass (fun p => p.st == .run && decide (p.wait = .bar scope)))

/-- The barrier opens when every participant has arrived: all depart at once (R265), each die having applied what the
others released (R114). A saved workgroup has not arrived. -/
def State.openBar (s : State) (gid scope : Nat) : State :=
  let gs := s.barGroups gid scope
  let ws := s.warpsOf gs
  let waiting := ws.any (fun w => match tfind s.warps w with
    | some x => x.splits.any (fun p => p.st == .run && p.wait == .bar scope)
    | none => false)
  let away := gs.any (fun g => match tfind s.groups g with | some x => x.st == .saved | none => false)
  if waiting && !away && ws.all (fun w => match tfind s.warps w with | some x => x.arrived scope | none => true) then
    let s := if scope = 5 then (List.range 4).foldl (fun s d => s.applyAll d) s else s
    ws.foldl (fun s w => s.departWarp scope w) s
  else s

/-- Barriers that a workgroup's change may open. -/
def State.openBars (s : State) (gid : Nat) : State := ((s.openBar gid 2).openBar gid 3).openBar gid 5

/-- BAR (R265). An arrival is a release at the barrier's scope (R114). -/
def execBar (bs : BitVec 7) (s : State) : Out :=
  let wf := bs == 2 || bs == 3 || bs == 5
  issue s (fun x => once wf Accept.none x [] []) (fun x =>
    let n := bs.toNat
    let mixed := x.warp.splits.any (fun p => p.st == .run && match p.wait with | .bar m => m != n | _ => false)
    if (n = 5 ∧ x.grid.coop = false) ∨ mixed then .next (s.trap x .illegal x.split.mask 0)
    else if s.released x.w x.die n = false then .next s
    else .next ((s.hold x (.bar n)).openBar x.gid n))

/-- An MRDY waiting on a first member that has exited returns with nothing captured (R345). -/
def Warp.freeMrdys (x : Warp) : Warp :=
  if x.skidRoom x.mrdys.length then { x.pass (fun p => decide (p.wait = .mrdy)) with mrdys := [] } else x

/-- The exit of a joint group's first member frees the MRDYs of its other members (R345). -/
def State.freeJoint (s : State) (w gid : Nat) : State :=
  let n := 64 / s.widthOf w
  match tfind s.warps w with
  | some x =>
    if x.life = .exited ∧ x.idx % n = 0 then
      (s.warpsOf [gid]).foldl (fun s v => s.setWarp v (fun y =>
        if y.idx / n = x.idx / n then y.freeMrdys else y)) s
    else s
  | none => s

/-- A handler warp that exits returns the records that it holds claimed (R429). -/
def State.returnClaims (s : State) (w : Nat) : State :=
  { s with dies := s.dies.map (fun (x : Die) => { x with faults := x.faults.map (fun (r : FaultRec) =>
      if r.claimed = some w then { r with claimed := none } else r) }) }

/-- The core of a workgroup whose warps have all exited is idle from this time where nothing else holds it (R477). -/
def State.markIdle (s : State) (core : Nat) : State :=
  s.setDie (core / Config.dieCores) (fun x => { x with idleFrom := tset 0 x.idleFrom (core % Config.dieCores) x.time })

/-- The warp has exited if no lane is alive, its latch discarded (R343); its workgroup has when every warp has (R59, R262). -/
def State.exitCheck (s : State) (w gid : Nat) : State :=
  let s := s.setWarp w (fun x => if x.alive = 0 then { x with life := .exited, latch := none } else x)
  let s := if ((tfind s.warps w).map (fun x => x.life == .exited)).getD false then s.returnClaims w else s
  let s := s.freeJoint w gid
  let done := (s.warpsOf [gid]).all (fun v => match tfind s.warps v with
    | some x => x.life == .exited
    | none => true)
  let s := if done then
      (s.setGroup gid (fun g => { g with st := .exited })).markIdle (((tfind s.groups gid).map (fun g => g.core)).getD 0) else s
  (s.settle gid).openBars gid

/-- The pending PEER or LATE raised at a WAITC or an EXIT (R92); PEER first. gst and tmd say which may be raised. -/
def State.pendingTrap (s : State) (c : Cx) (gst tmd : Bool) : Option State :=
  match c.warp.peer, c.warp.late with
  | some p, l =>
    if gst then some ((s.onWarp c (fun w => { w with peer := none })).trap c .peer p.1 p.2)
    else match l with
      | some m => if tmd then some ((s.onWarp c (fun w => { w with late := none })).trap c .late m 0) else none
      | none => none
  | none, some m => if tmd then some ((s.onWarp c (fun w => { w with late := none })).trap c .late m 0) else none
  | none, none => none

/-- EXIT (R262). -/
def execExit (s : State) : Out :=
  issue s (fun x => once true Accept.none x [] []) (fun x =>
    if x.warp.gst ≠ 0 ∨ x.warp.tmd ≠ 0 then .next s
    else match s.pendingTrap x true true with
      | some t => .next t
      | none =>
        let s := s.tick x
        let s := s.onWarp x (fun w => w.exitLanes x.sp (s.slotCyc x.warp.core x.warp.slot))
        .next (s.exitCheck x.w x.gid))

/-- The record of a warp that stops without a trap (R72, R75). -/
def Warp.plainStop (w : Warp) (now : Nat) (code : TrapCode) (primary : Bool) : StopRec :=
  { code := code, skid := w.skid, cyc := w.skidCyc now, primary := primary, split := w.last, pc := (w.split w.last).first, lanes := 0, info := 0 }

/-- YIELD (R74, R263). A request that meets a skid takes effect after it (R78), so a YIELD in a skid goes on. -/
def execYield (s : State) : Out :=
  issue s (fun x => once true Accept.none x [] []) (fun x =>
    let t := s.advance x
    if x.ctx.req = true ∧ x.group.st = .running then .next (t.haltWarp x.w .yielded true) else .next t)

/-- NOP (R263). -/
def execNop (s : State) : Out := issue s (fun x => once true Accept.none x [] []) (fun x => .next (s.advance x))

/-- The path that a code names (R264). -/
def pathOf : Nat → Path
  | 0 => .gld | 1 => .gst | 2 => .lrm | 3 => .tcp | _ => .tmd

/-- WAITC (R92, R264). -/
def execWaitc (a : BitVec 7) (p : BitVec 7) (s : State) : Out :=
  issue s (fun x => once (decide (p.toNat ≤ 4)) Accept.none x [sref a.toNat] []) (fun x =>
    match s.pendingTrap x (p == 1) (p == 4) with
    | some t => .next t
    | none =>
      if x.warp.count (pathOf p.toNat) ≤ (x.warp.sreg a.toNat).toNat then .next (s.advance x) else .next s)

/-! ### Query and traps -/

/-- QCAP (R267). -/
def execQcap (d : BitVec 7) (a : BitVec 7) (s : State) : Out :=
  issue s (fun x => once (even d) Accept.none x [sref a.toNat] (qref d.toNat)) (fun x =>
    let v := s.cap x.warp.core (x.warp.sreg a.toNat).toNat
    .next (s.later x (qref d.toNat) [.s d.toNat (BitVec.ofNat 32 (v.getD 0)) false,
      .s (d.toNat + 1) (if v.isSome then 1 else 0) false] 0))

/-- %core (R268). -/
def coreNumber (core : Nat) : Nat := whoCore core 0 0

/-- A special register that is one word (R268). -/
def Cx.special (c : Cx) (n : Nat) : Nat :=
  let lin := c.group.lin
  match n with
  | 1 => c.warp.idx
  | 2 => c.group.warps.length
  | 3 => c.grid.w
  | 4 => lin % c.grid.x
  | 5 => lin / c.grid.x % c.grid.y
  | 6 => lin / c.grid.x / c.grid.y
  | 7 => c.grid.x
  | 8 => c.grid.y
  | 9 => c.grid.z
  | 11 => if c.grid.cluster = 0 then 0 else lin % c.grid.cluster
  | 12 => c.grid.depth
  | 13 => c.die
  | 14 => coreNumber c.warp.core
  | 15 => c.warp.slot
  | 18 => c.warp.fstat.toNat
  | _ => c.warp.fstat.toNat

/-- An earlier vector or scalar instruction of the warp has not written its result (R147). -/
def State.resultPending (s : State) (w : Nat) : Bool :=
  s.ops.any (fun o => o.warp == w && match o.kind with | .result _ _ => true | .cb _ _ => true | _ => false)

/-- SRD (R268). -/
def execSrd (d : BitVec 7) (bs : BitVec 7) (s : State) : Out :=
  let wf := decide (bs.toNat ≤ 19) && ((bs != 16 && bs != 17) || even d)
  let n := bs.toNat
  let dst : List RegRef := if n = 0 ∨ n = 10 then vref d.toNat 1 else if n = 16 ∨ n = 17 then qref d.toNat else sref d.toNat
  issue s (fun x => once (wf && ((n != 0 && n != 10) || x.vok d.toNat 1)) Accept.none x [] dst) (fun x =>
    if n = 0 ∨ n = 10 then
      .next (s.now x ((lanes x.split.mask).map (fun l =>
        RegWrite.v d.toNat l (BitVec.ofNat 32 (if n = 0 then l else x.warp.idx * x.grid.w + l)) false)))
    else if n = 16 then .next (s.later x dst (swrite true d.toNat (s.die x.die).time false) 0)
    else if n = 17 then .next (s.later x dst (swrite true d.toNat (s.slotCyc x.warp.core x.warp.slot) false) 0)
    else if n = 18 ∨ n = 19 then
      if s.resultPending x.w then .next s
      else
        let t := s.later x dst [.s d.toNat (BitVec.ofNat 32 x.warp.fstat.toNat) false] 0
        .next (if n = 19 then t.onWarp x (fun w => { w with fstat := 0 }) else t)
    else .next (s.now x [.s d.toNat (BitVec.ofNat 32 (x.special n)) false]))

/-- TRAP (R269). -/
def execTrap (_n : BitVec 14) (s : State) : Out :=
  issue s (fun x => once true Accept.none x [] []) (fun x => .next (s.trap x .swtrap x.split.mask 0))

/-- TRAP.BIND (R260, R269). -/
def execTrapBind (_n : BitVec 14) (s : State) : Out :=
  issue s (fun x => once true Accept.none x [] []) (fun x => .next (s.trap x .bind x.split.mask 0))

/-- BKPT (R270). -/
def execBkpt (_n : BitVec 14) (s : State) : Out :=
  issue s (fun x => once true Accept.none x [] []) (fun x => .next (s.trap x .bkpt x.split.mask 0))

end Sys2Proof.Machine
end

