-- ==== Sys2Proof/Machine/Cores.lean ====
section
/-! DEFINITION. Cores in service: cluster release and self-tests (R475), replacement by a spare (R490, R491), gating and power
(R477, R478). -/

namespace Sys2Proof.Machine

/-- The workgroup still holds its registers and warp positions (R59). -/
def Group.onCore (g : Group) : Bool :=
  match g.st with
  | .exited => false
  | .saved => false
  | _ => true

/-- Workgroups that hold positions on a core. -/
def State.groupsOn (s : State) (core : Nat) : List (Nat × Group) := s.groups.filter (fun g => g.2.core == core && g.2.onCore)

/-- The warp is in a landing position, which is no warp position (R42, R65). -/
def State.inLanding (s : State) (w : Nat) : Bool := ((tfind s.warps w).map (fun x => x.landing)).getD false

/-- Warps resident in the warp positions of a core (R42, R459). -/
def State.residents (s : State) (core : Nat) : Nat :=
  (s.groupsOn core).foldl (fun n g => n + (g.2.warps.filter (fun w => !s.inLanding w)).length) 0

/-- No warp and no bound stream holds the core. -/
def State.coreEmpty (s : State) (core : Nat) : Bool :=
  (s.groupsOn core).all (fun g => g.2.warps.isEmpty) && !s.streams.any (fun x => match x.2.group with
    | some g => (match x.2.st with | .stopped _ => false | .saved => false | _ => true)
        && ((tfind s.groups g).map (fun y => y.core == core)).getD false
    | none => false)

/-- CLUSTER_RELEASE (R475): the clock's ceiling is nominal once every cluster is released. -/
def execClusterRelease (d cl : Nat) (s : State) : Out :=
  if 4 ≤ d ∨ 2 ≤ cl ∨ s.booted = false then .next s
  else
    .next (s.reporting (fun s =>
      let s := s.setDie d (fun x => { x with clusters := bvPut x.clusters cl true })
      if s.allReleased then { s with clockMhz := 3300 } else s))

/-- MATRIX_SELF_TEST (R475): path 0 is FP6, 1 FP4. Cores are tested once every cluster is released (steps 3 and 4), so that no release
puts an untested core beside those that MMA_FMT already reports (R34). -/
def execMatrixSelfTest (c path : Nat) (s : State) : Out :=
  if Config.dies * Config.dieCores ≤ c ∨ s.allReleased = false then .next s
  else .next (s.reporting (fun s => match path with
    | 0 => { s with fp6 := ladd s.fp6 c }
    | 1 => { s with fp4 := ladd s.fp4 c }
    | _ => s))

/-- A write of CORESVC with DRAIN set (R490, R491): ignored while a replacement runs. -/
def State.drainCore (s : State) (d : Nat) (v : DWord) : State :=
  let c := (s.die d).coresvc
  let core := bits v.toNat 0 8
  let cl := bits v.toNat 8 1
  if c.state = 1 ∨ c.state = 2 ∨ 192 ≤ core then s
  else
    let i := cl * Config.clusterCores + core
    s.reporting (fun s => s.setDie d (fun x => { x with
      coresvc := ⟨core, cl, 1, some i⟩
      outCores := ladd x.outCores i }))

/-- DRAIN (R491). -/
def execDrain (d : Nat) (v : BitVec 64) (s : State) : Out := if d < 4 then .next (s.drainCore d v) else .next s

/-- Spares left in a cluster. -/
def Die.sparesIn (x : Die) (cl : Nat) : Nat := if cl = 0 then x.spares.1 else x.spares.2

/-- One spare of a cluster used up. -/
def Die.useSpare (x : Die) (cl : Nat) : Die :=
  { x with spares := if cl = 0 then (x.spares.1 - 1, x.spares.2) else (x.spares.1, x.spares.2 - 1) }

/-- CORE_EMPTY (R491): the drained core holds no warp, and the lowest free spare of its cluster begins its self-tests; with no
spare the replacement has failed. -/
def execCoreEmpty (d : Nat) (s : State) : Out :=
  let x := s.die d
  match x.coresvc.active with
  | none => .next s
  | some i =>
    if 4 ≤ d ∨ x.coresvc.state ≠ 1 ∨ s.coreEmpty (d * Config.dieCores + i) = false then .next s
    else if x.sparesIn (i / Config.clusterCores) = 0 then
      .next (s.reporting (fun s => s.setDie d (fun x => { x with coresvc := { x.coresvc with state := 4, active := none } })))
    else .next (s.setDie d (fun x => { x with coresvc := { x.coresvc with state := 2 } }))

/-- SELF_TEST_DONE (R491): a spare that passed serves the core; one that failed is retired and the next is tried. The slot clocks that %cyc
counts run on for the logical core: when the spare left reset is not stated (R268), and that is the model's choice (assumption 147). -/
def execSelfTestDone (d : Nat) (pass : Bool) (s : State) : Out :=
  let x := s.die d
  match x.coresvc.active with
  | none => .next s
  | some i =>
    if 4 ≤ d ∨ x.coresvc.state ≠ 2 then .next s
    else
      let cl := i / Config.clusterCores
      let core := d * Config.dieCores + i
      if pass then
        .next (s.reporting (fun s =>
          let s := s.setDie d (fun x => { (x.useSpare cl) with
            phys := tput x.phys i (196 - x.sparesIn cl)
            outCores := ldel x.outCores i
            tlb := x.tlb.filter (fun t => t.core != some core)
            coresvc := { x.coresvc with state := 3, active := none } })
          { s with fp6 := ladd s.fp6 core, fp4 := ladd s.fp4 core, icache := terase s.icache core, l1 := terase s.l1 core }))
      else
        .next (s.reporting (fun s => s.setDie d (fun x =>
          let x := x.useSpare cl
          if x.sparesIn cl = 0 then { x with coresvc := { x.coresvc with state := 4, active := none } } else x)))

/-- CORE_GATE (R477): no resident warp for GATE µs. -/
def execCoreGate (c : Nat) (s : State) : Out :=
  let d := c / Config.dieCores
  let x := s.die d
  let i := c % Config.dieCores
  if 4 ≤ d ∨ s.coreEmpty c = false ∨ x.time < tget 0 x.idleFrom i + 1000 * x.gate then .next s
  else .next (s.setDie d (fun x => { x with gated := ladd x.gated i }))

/-- DIE_POWER_LIMIT (R478): the average that the die's slot clocks keep at or below PLIM. -/
def execDiePowerLimit (d watts : Nat) (s : State) : Out :=
  if d < 4 then .next (s.setDie d (fun x => { x with pwr := min watts x.plim })) else .next s

end Sys2Proof.Machine
end

