-- ==== Sys2Proof/Machine/Buffers.lean ====
section
/-! DEFINITION. Local buffers (R23, R80 to R84): their bytes, poison, bounds, and what a write does to the batches and tile
copies that touch the same bytes. -/

namespace Sys2Proof.Machine

/-- Rounded allocation of a buffer (R23). -/
def Grid.bufSize (g : Grid) : Nat → Nat
  | 0 => g.agr * Config.granule | 1 => g.wgr * Config.granule | _ => g.cgr * Config.granule

/-! ### Tiles of a matrix operation (R340 to R342, R346) -/

/-- The operand tiles of a step in the order of R342: buffer, offset, bytes. -/
def MatRec.tiles (m : MatRec) : List (Nat × Nat × Nat) :=
  (if m.asrc then [(0, m.aoff, 4096)] else []) ++ (if m.afmt = 1 then [] else [(0, m.asoff, 256)])
    ++ [(m.bbuf, m.boff, m.bsize)] ++ (if m.afmt = 1 then [] else [(m.bbuf, m.bsoff, 256)])
    ++ (if m.sparse then [(m.bbuf, m.spoff, 32)] else []) ++ [(2, m.coff, 16384)]

/-- The step offset of the first tile that reaches beyond its buffer (R342). -/
def Grid.tileOver (g : Grid) (m : MatRec) : Option Nat :=
  (m.tiles.find? (fun t => decide (g.bufSize t.1 < t.2.1 + t.2.2))).map (fun t => t.2.1)

/-- An operation's C bytes. -/
def MatOp.cHas (o : MatOp) (a n : Nat) : Bool := overlaps (MatRec.read o.bytes).coff 16384 a n

/-- What a write to operand bytes that an open batch reads leaves undefined (R84): a row for A and its scales, a column for B,
its scales and its bitmap, over every step. -/
def MatOp.hit (o : MatOp) (u a n : Nat) : MatOp :=
  let m := MatRec.read o.bytes
  (List.range o.steps).foldl (fun o j =>
    let t := m.step j
    let rows := (List.range 64).filter (fun r =>
      (o.arows.isNone && u == 0 && overlaps (t.aoff + 64 * r) 64 a n)
        || (o.ascal.isNone && t.afmt != 1 && u == 0 && overlaps (t.asoff + 4 * r) 4 a n))
    let cols := (List.range 64).filter (fun c => u == t.bbuf &&
      (overlaps (t.boff + t.bcol * c) t.bcol a n || (t.afmt != 1 && overlaps (t.bsoff + 4 * c) 4 a n)
        || (t.sparse && overlaps (t.spoff + c / 2) 1 a n)))
    { o with undefRows := o.undefRows ||| maskOf rows, undefCols := o.undefCols ||| maskOf cols }) o

/-- C words of an operation made undefined by a store to them (R84). -/
def MatOp.hitC (o : MatOp) (a n : Nat) : MatOp :=
  if o.cHas a n then
    { o with undefWords := ((List.range (n / 4 + 2)).map (fun i => a / 4 + i)).foldl (fun l w =>
        if overlaps (4 * w) 4 a n then ladd l w else l) o.undefWords }
  else o

/-- Every operation of the warp not yet performed changed. -/
def Warp.mapOps (w : Warp) (f : MatOp → MatOp) : Warp :=
  { w with openSet := w.openSet.map f, batches := w.batches.map (fun (b : Batch) => { b with ops := b.ops.map f }) }

/-- A write into a workgroup's buffer by an agent other than a batch: bytes written, and open batches that read or
accumulate them marked (R84). -/
def State.bufWrite (s : State) (gid u o : Nat) (l : List Byte) (p : Bool) : State :=
  match tfind s.groups gid with
  | none => s
  | some g =>
    let s := s.setGroup gid (fun g => g.put u o l p)
    if l = [] then s
    else
      let f := fun (m : MatOp) => if u = 2 then m.hitC o l.length else m.hit u o l.length
      g.warps.foldl (fun s w => (s.setWarp w (fun x => if x.openSet = [] ∧ x.batches = [] then x else x.mapOps f)).again w
        (fun b => !b.named) f) s

/-- The bytes lie in the progress block of an ATTN of the warp that has not completed (R190). -/
def Warp.inProgress (w : Warp) (o n : Nat) : Bool := w.attnZ.any (fun e => overlaps e.2.caoff e.2.size o n)

/-- C bytes that a batch not yet named by an MWAIT accumulates, or that hold the progress of an ATTN (R84, R190). -/
def State.cPending (s : State) (gid o n : Nat) : Bool :=
  match tfind s.groups gid with
  | none => false
  | some g => g.warps.any (fun w => match tfind s.warps w with
    | some x => x.openSet.any (fun m => m.cHas o n)
        || (x.batches ++ x.part.toList).any (fun b => !b.named && b.past.any (fun m => m.cHas o n))
        || x.inProgress o n
    | none => false)

/-- C-buffer bytes as an agent other than their batch reads them (R84). -/
def State.cRead (s : State) (gid o n : Nat) : State × List Byte :=
  if s.cPending gid o n then s.freeBytes n
  else match tfind s.groups gid with
    | some g => (s, g.bytes 2 o n)
    | none => (s, List.replicate n 0)

end Sys2Proof.Machine
end

