-- ==== Sys2Proof/Machine/Bulk.lean ====
section
/-! DEFINITION. Records, lists, arrays and rows that engines reach by virtual address (R121, R336): their pieces of physical
memory, their reads as loads of the warp, and their writes as its stores. -/

namespace Sys2Proof.Machine

/-- A range inside one 64 KiB page. -/
structure Piece where
  va  : Nat
  pa  : Nat
  len : Nat
  win : Option Nat
deriving DecidableEq, Repr

/-- The pieces of n bytes from a virtual address, or the first fault with its address; k bounds the pages. -/
def State.piecesFrom (s : State) (d ctx : Nat) (need : Need) : Nat → Nat → Nat → Except (WalkFault × Nat) (List Piece)
  | 0, _, _ => .ok []
  | k + 1, va, n =>
    if n = 0 then .ok []
    else
      let va := va % vaMod
      let len := min n (65536 - va % 65536)
      match s.translate d ctx va need with
      | .error f => .error (f, va)
      | .ok t =>
        match State.piecesFrom s d ctx need k (va + len) (n - len) with
        | .error e => .error e
        | .ok r => .ok (⟨va, t.pa, len, t.window⟩ :: r)

/-- The pieces of n bytes from a virtual address. -/
def State.pieces (s : State) (d ctx : Nat) (need : Need) (va n : Nat) : Except (WalkFault × Nat) (List Piece) :=
  s.piecesFrom d ctx need (n / 65536 + 2) va n

/-- The virtual address of the first poisoned word among a piece's bytes. -/
def State.piecePoison (s : State) (p : Piece) : Option Nat :=
  match s.memP.find? (fun w => decide (w * 8 < p.pa + p.len) && decide (p.pa < w * 8 + 8)) with
  | some w => some (p.va + (w * 8 - p.pa))
  | none => none

/-- A poisoned word lies in a physical range: its address. -/
def State.poisonWord (s : State) (pa n : Nat) : Option Nat :=
  (s.memP.find? (fun w => decide (w * 8 < pa + n) && decide (pa < w * 8 + 8))).map (fun w => 8 * w)

/-- Bytes of the pieces as an engine of die d reads them for a warp, 0 for another agent, with the address of the first poisoned word
(R336). R100 names no stop for an engine's access to the window at an odd address or of odd length: an odd byte left over reads 0
(assumption 129). -/
def State.piecesRead (s : State) (w d ctx : Nat) (l : List Piece) : State × List Byte × Option Nat :=
  l.foldl (fun (acc : State × List Byte × Option Nat) p =>
    let s := if p.win.isSome then acc.1.stirPriv d p.pa p.len else acc.1.meetRead d p.pa p.len
    match p.win with
    | none => (s, acc.2.1 ++ s.view d p.pa p.len, acc.2.2.or (s.piecePoison p))
    | some desc =>
      match (s.applyAll d).winRead w d ctx desc p.va (p.len / 2 * 2) with
      | .ok (b, bad, f, s') => (s'.winRaise d desc f, acc.2.1 ++ b ++ List.replicate (p.len % 2) 0, acc.2.2.or (bad.head?.map (fun i => p.va + 4 * i)))
      | .error _ => let x := s.freeBytes p.len; (x.1, acc.2.1 ++ x.2, acc.2.2)) (s, [], none)

/-- The offsets, from o on, of the poisoned 4-byte elements of what an engine reads from the pieces (R102, R103). -/
def State.badWords (s : State) (w d ctx : Nat) : Nat → List Piece → List Nat
  | _, [] => []
  | o, p :: r =>
    (match p.win with
      | none => ((List.range (ceilDiv p.len 4)).filter (fun i => s.poisoned (p.pa + 4 * i) 4)).map (fun i => o + 4 * i)
      | some desc => match (s.applyAll d).winRead w d ctx desc p.va (p.len / 2 * 2) with
        | .ok x => x.2.1.map (fun i => o + 4 * i)
        | .error _ => []) ++ State.badWords s w d ctx (o + p.len) r

/-- The warp has an access older than n pending that must come before an engine's read of the pieces (R108, R121). -/
def State.ownOlder (s : State) (w n : Nat) (l : List Piece) : Bool :=
  l.any (fun p => if p.win.isSome then s.winOlder w n else s.ops.any (fun o =>
    o.warp == w && decide (o.id < n) && !o.kind.readsRows && o.kind.touches none p.pa p.len))

/-- The same of a read that an engine makes at the issue of its instruction. -/
def State.ownAhead (s : State) (w : Nat) (l : List Piece) : Bool := s.ownOlder w s.uid l

/-- The same for pieces that an engine instruction of the warp writes: its write takes its place in program order (R108, R121). Its window
pieces wait where the write is performed. -/
def State.putsAhead (s : State) (w n : Nat) (l : List Piece) : Bool := l.any (fun p => p.win.isNone && s.before w n none p.pa p.len)

/-- The ranges of host memory among these, as MRDs ask for them: at most 4,096 bytes each, with their port (R447). -/
def State.hostRanges (s : State) (l : List (Nat × Nat)) : List (Nat × Nat × Nat) :=
  l.flatMap (fun r => match s.hostPort r.1 with
    | some p => (List.range (ceilDiv r.2 4096)).map (fun i => (p, r.1 + 4096 * i, min 4096 (r.2 - 4096 * i)))
    | none => [])

/-- An MRD for one range goes out under the number of the agent that reads (R447). -/
def State.ask (s : State) (who : Nat) (r : Nat × Nat × Nat) : State :=
  let s := s.send { port := r.1, type := 1, abort := false, tag := who % 65536, arg := r.2.1, data := [], len := r.2.2 }
  { s with asks := s.asks ++ [{ who := who, port := r.1, pa := r.2.1, len := r.2.2, got := none }] }

/-- The agent's MRD for a range. -/
def State.askOf (s : State) (who : Nat) (r : Nat × Nat × Nat) : Option HostAsk :=
  s.asks.find? (fun a => a.who == who && decide ((a.port, a.pa, a.len) = r))

/-- Every range of host memory among these is asked for that the agent has not asked for yet. -/
def State.askAll (s : State) (who : Nat) (l : List (Nat × Nat)) : State :=
  ((s.hostRanges l).filter (fun r => (s.askOf who r).isNone)).foldl (fun s r => s.ask who r) s

/-- How a read that may reach host memory stands. -/
inductive Asked where
  | ready (s : State)
  | wait (s : State)
  | abort (s : State)

/-- Ranges of memory read by an agent: what lies in host memory is asked for, and the read waits until all of it is answered (R124, R447). -/
def State.askFor (s : State) (who : Nat) (l : List (Nat × Nat)) : Asked :=
  let want := s.hostRanges l
  let all := fun (k : Option Bool) (r : Nat × Nat × Nat) => decide ((s.askOf who r).bind (fun a => a.got) = k)
  if want = [] then .ready s
  else if want.any (all (some false)) then .abort (s.dropAsks who)
  else if want.all (all (some true)) then
    .ready { s with asks := s.asks.filter (fun a => a.who != who || !want.contains (a.port, a.pa, a.len)) }
  else .wait (s.askAll who l)

/-- Size of an access of an operation that reads. -/
def OpKind.size : OpKind → Nat
  | .load _ z _ _ _ _ _ _ => z
  | .atom _ _ z _ _ _ => z
  | .ldt _ z _ _ _ _ _ _ => z
  | .row _ _ _ _ false => 16
  | _ => 0

/-- What a pending operation reads of host memory: its lanes there. -/
def Op.hostReads (o : Op) (s : State) : List (Nat × Nat) :=
  if o.kind.size = 0 then [] else ((o.kind.outboundLanes s).filter (fun a => s.isHost a.pa)).map (fun a => (a.pa, o.kind.size))

/-- A pending operation's read of host memory has no answer yet (R447). -/
def State.unanswered (s : State) (o : Op) : Bool :=
  (s.hostRanges (o.hostReads s)).any (fun r => decide ((s.askOf o.id r).bind (fun a => a.got) ≠ some true))

/-- Physical ranges of pieces outside the window. -/
def plainPieces (l : List Piece) : List (Nat × Nat) := (l.filter (fun p => p.win.isNone)).map (fun p => (p.pa, p.len))

/-- Some piece cannot be read or written now (R466, R485). -/
def State.piecesHeld (s : State) (d : Nat) (l : List Piece) : Bool := (plainPieces l).any (fun r => s.unserved d r.1 r.2)

/-- Pieces read for an engine instruction at its issue, or the state where it waits (R108, R121, R447, R466, R485) or raises PEER for an
abort of the host's as a load does (R121, R124). -/
def State.takeIn (s : State) (c : Cx) (l : List Piece) : Except State (State × List Byte × Option Nat) :=
  if s.ownAhead c.w l || s.piecesHeld c.die l then .error s
  else match s.askFor c.w (plainPieces l) with
    | .wait t => .error t
    | .abort t => .error (t.trap c .peer c.split.mask ((l.head?.map (fun p => p.va)).getD 0))
    | .ready s => .ok (s.piecesRead c.w c.die c.grid.ctx l)

/-- n bytes read for an engine instruction at its issue: the state where it parks (its kind of fault), waits or traps, or what it read. -/
def State.readVa (s : State) (c : Cx) (kind : Nat) (path : Option Path) (va n : Nat) : Except State (State × List Byte × Option Nat) :=
  match s.pieces c.die c.grid.ctx .load va n with
  | .error e => .error (s.parkCounted c path kind e)
  | .ok l => s.takeIn c l

/-- Bytes laid over pieces, each with its bytes and the offset of the first. -/
def layBytes : Nat → List Piece → List Byte → List (Piece × List Byte × Nat)
  | _, [], _ => []
  | o, p :: r, b => (p, b.take p.len, o) :: layBytes (o + p.len) r (b.drop p.len)

/-- A range to write: its pieces, its bytes, and the offsets of its poisoned 4-byte words. -/
abbrev Put := List Piece × List Byte × List Nat

/-- Writes of an engine instruction made as one posted write of the die: its number (0 for none), and the accesses to the
window, which are written when the write is performed (R99, R121). -/
def State.enginePost (s : State) (d : Nat) (l : List Put) : State × Nat × List LaneAcc :=
  let parts := l.flatMap (fun (x : Put) => (layBytes 0 x.1 x.2.1).map (fun y => (y, x.2.2)))
  let plain := parts.filter (fun x => x.1.1.win.isNone)
  let win := (parts.filter (fun x => x.1.1.win.isSome)).map (fun x =>
    (⟨0, x.1.1.va, x.1.1.pa, x.1.2.1, ((x.2.filter (fun o => overlaps o 4 x.1.2.2 x.1.1.len)).map (fun o => (o - x.1.2.2) / 4)),
      x.1.1.win, 0, none⟩ : LaneAcc))
  let cells := plain.flatMap (fun x => cellsAt x.1.1.pa x.1.2.1)
  let spans := plain.map (fun x => (x.1.1.pa, x.1.1.len, false)) ++ plain.flatMap (fun x =>
    (x.2.filter (fun o => decide (x.1.2.2 ≤ o) && decide (o < x.1.2.2 + x.1.1.len))).map (fun o => (x.1.1.pa + (o - x.1.2.2), 4, true)))
  if cells = [] then (s, 0, win)
  else
    let r := s.post d cells spans
    (r.1, r.2, win)

end Sys2Proof.Machine
end

