-- ==== Sys2Proof/Machine/Alu.lean ====
section
/-! DEFINITION. Integer operations on words of 32 or 64 bits (R243, R244, R277 to R279), and the shapes of the scalar and
vector instructions that use them. -/

namespace Sys2Proof.Machine

/-- Leading zeros (R243). -/
def clzOf {w : Nat} (x : BitVec w) : Nat := if x.toNat = 0 then w else w - 1 - Nat.log2 x.toNat

/-- High half of the signed product. -/
def mulhS {w : Nat} (a b : BitVec w) : BitVec w := BitVec.ofInt w (a.toInt * b.toInt / (2 ^ w : Int))
/-- High half of the unsigned product. -/
def mulhU {w : Nat} (a b : BitVec w) : BitVec w := BitVec.ofNat w (a.toNat * b.toNat / 2 ^ w)

/-- The field of a selected by control b (R244). -/
def bfx {w : Nat} (a b : BitVec w) : BitVec w :=
  let pos := bits b.toNat 0 6
  let len := bits b.toNat 6 7
  let f := (a.toNat >>> pos) % 2 ^ min len w
  if bit b.toNat 13 && decide (1 ≤ len) && decide (len ≤ w) && f.testBit (len - 1) then
    BitVec.ofNat w (f + (2 ^ w - 2 ^ len))
  else BitVec.ofNat w f

/-- The word d with a field of a inserted under control b (R244). -/
def bfi {w : Nat} (d a b : BitVec w) : BitVec w :=
  let pos := bits b.toNat 0 6
  let len := bits b.toNat 6 7
  let m : BitVec w := BitVec.ofNat w ((2 ^ len - 1) <<< pos)
  (d &&& ~~~m) ||| (BitVec.ofNat w (a.toNat <<< pos) &&& m)

/-- Comparisons of SSET and VSET. -/
inductive ICmp where
  | eq | ne | lt | le | ltU | leU
deriving DecidableEq, Repr

/-- A comparison holds (R243, R278). -/
def icmp {w : Nat} (k : ICmp) (a b : BitVec w) : Bool :=
  match k with
  | .eq => a == b
  | .ne => a != b
  | .lt => BitVec.slt a b
  | .le => BitVec.sle a b
  | .ltU => BitVec.ult a b
  | .leU => BitVec.ule a b

/-- Integer operations of two sources and the old destination or addend. -/
inductive AluOp where
  | add | sub | mul | mulh | mulhU | div | divU | and | or | xor | andn | shl | shr | sra
  | min | minU | max | maxU | set (k : ICmp) | sel | mov | clz | popc | bfx | bfi | mad | abs
deriving DecidableEq, Repr

/-- The result on words of w bits; d is the old destination or the addend. -/
def alu {w : Nat} (op : AluOp) (d a b : BitVec w) : BitVec w :=
  match op with
  | .add => a + b
  | .sub => a - b
  | .mul => a * b
  | .mulh => mulhS a b
  | .mulhU => mulhU a b
  | .div => BitVec.sdiv a b
  | .divU => a / b
  | .and => a &&& b
  | .or => a ||| b
  | .xor => a ^^^ b
  | .andn => a &&& ~~~b
  | .shl => a <<< (b.toNat % w)
  | .shr => a >>> (b.toNat % w)
  | .sra => a.sshiftRight (b.toNat % w)
  | .min => if BitVec.slt a b then a else b
  | .minU => if BitVec.ult a b then a else b
  | .max => if BitVec.slt a b then b else a
  | .maxU => if BitVec.ult a b then b else a
  | .set k => if icmp k a b then 1 else 0
  | .sel => if d ≠ 0 then a else b
  | .mov => b
  | .clz => BitVec.ofNat w (clzOf b)
  | .popc => BitVec.ofNat w (popcount b.toNat w)
  | .bfx => Sys2Proof.Machine.bfx a b
  | .bfi => Sys2Proof.Machine.bfi d a b
  | .mad => a * b + d
  | .abs => if b.msb then -b else b

/-- The exact integer clamped to the range of .SAT or .USAT (R279). -/
def clamp (w : Nat) (signed : Bool) (x : Int) : BitVec w :=
  let lo : Int := if signed then -(2 ^ (w - 1) : Int) else 0
  let hi : Int := if signed then 2 ^ (w - 1) - 1 else 2 ^ w - 1
  BitVec.ofInt w (max lo (min hi x))

/-- The result under .SAT (R279). -/
def aluSigned {w : Nat} (op : AluOp) (d a b : BitVec w) : BitVec w :=
  match op with
  | .add => clamp w true (a.toInt + b.toInt)
  | .sub => clamp w true (a.toInt - b.toInt)
  | .abs => clamp w true b.toInt.natAbs
  | _ => alu op d a b

/-- The result under .USAT (R279). -/
def aluUnsigned {w : Nat} (op : AluOp) (d a b : BitVec w) : BitVec w :=
  match op with
  | .add => clamp w false ((a.toNat : Int) + b.toNat)
  | .sub => clamp w false ((a.toNat : Int) - b.toNat)
  | _ => alu op d a b

/-- The result under the integer MOD8 (R279). -/
def aluSat {w : Nat} (op : AluOp) (mod8 : Nat) (d a b : BitVec w) : BitVec w :=
  if mod8 = 1 then aluSigned op d a b else if mod8 = 2 then aluUnsigned op d a b else alu op d a b

/-- The operation reads its first source. -/
def AluOp.readsA : AluOp → Bool
  | .mov | .clz | .popc | .abs => false
  | _ => true

/-- The operation reads the old destination as its last source (R243). -/
def AluOp.readsD : AluOp → Bool
  | .sel | .bfi => true
  | _ => false

/-- The result takes more than one cycle (R240). -/
def AluOp.slow (op : AluOp) (wide : Bool) : Bool :=
  match op with
  | .mul | .mulh | .mulhU | .div | .divU => true
  | .set _ | .sel | .mov => false
  | _ => wide

/-- Checks of a scalar instruction (R242, R245). -/
def scalarIssue (wf : Bool) (wide : Bool) (op : AluOp) (d a b : Nat) (c : Cx) : Issue :=
  let srcs := (if op.readsA then [sqref wide a] else []) ++ (if c.ihi.isNone then [sqref wide b] else [])
    ++ (if op.readsD then [sqref wide d] else [])
  let x := once (wf && (c.ihi.isNone || b == 0)) accImm c srcs (sqref wide d)
  if op = .mov then { x with poison := 0 } else x

/-- A scalar instruction of major 0x01 or 0x02 (R243). -/
def scalar (wf : Bool) (wide : Bool) (op : AluOp) (d a b : Nat) (s : State) : Out :=
  issue s (scalarIssue wf wide op d a b) (fun c =>
    let r := if wide then (alu op (c.sa 64 d) (c.sa 64 a) (c.sb 64 b)).toNat
             else (alu op (c.sa 32 d) (c.sa 32 a) (c.sb 32 b)).toNat
    let p := decide (op = .mov) && c.ihi.isNone
    let w : List RegWrite :=
      if wide then [.s d (BitVec.ofNat 32 r) (p && c.warp.sPois b),
                    .s (d + 1) (BitVec.ofNat 32 (r / 2 ^ 32)) (p && c.warp.sPois (b + 1))]
      else [.s d (BitVec.ofNat 32 r) (p && c.warp.sPois b)]
    if op.slow wide then .next (s.later c (sqref wide d) w 0) else .next (s.now c w))

/-- A scalar instruction with an immediate, majors 0x03 to 0x07 (R246). -/
def scalarImm (wf : Bool) (op : AluOp) (d a : Nat) (im : BitVec 12) (s : State) : Out :=
  issue s (fun c => once wf accImm c (if op.readsA then [sref a] else []) (sref d)) (fun c =>
    let r : Word := alu op 0 (c.sa 32 a) (BitVec.ofInt 32 (c.imm 12 im.toNat))
    .next (s.now c [.s d r false]))

/-- A scalar shift by an immediate, major 0x08: a non-zero HIMM makes it illegal (R246). -/
def scalarShift (wf : Bool) (op : AluOp) (d a : Nat) (n : BitVec 5) (s : State) : Out :=
  issue s (fun c => once (wf && (c.ihi.getD 0 == 0)) accImm c [sref a] (sref d)) (fun c =>
    .next (s.now c [.s d (alu op 0 (c.sa 32 a) (BitVec.ofNat 32 n.toNat)) false]))

/-! ### Vector integer -/

/-- MOD8 of an integer operation (R279). -/
def intMod8 (op : AluOp) (m : Nat) : Bool :=
  match op with
  | .add | .sub => m == 0 || m == 1 || m == 2
  | .abs => m == 0 || m == 1
  | _ => m == 0

/-- Checks of a vector integer instruction (R272, R276). VMOV never raises POISON, for its guard register neither: that it then moves the
lanes that the guard's bits as held name is the model's choice (assumption 145). -/
def vecIssue (wf : Bool) (wide : Bool) (op : AluOp) (d a b : Nat) (bs : Bool) (c : Cx) : Issue :=
  let n := if wide then 2 else 1
  let ad := c.addendRef wide d
  let srcs := (if op.readsA then [vref a n] else []) ++ [if bs then sqref wide b else vref b n]
    ++ (if op = .mad then [ad.1] else if op.readsD then [vref d n] else [])
  let enc := wf && c.vok d n && (!op.readsA || c.vok a n) && (bs || c.vok b n) && (op != .mad || ad.2)
  let x := perLane enc (accVec (intMod8 op) (decide (op = .mad))) c srcs (vref d n)
  if op = .mov then { x with poison := 0, guard := false } else x

/-- A vector integer instruction of majors 0x10 to 0x13 that writes vector registers (R277, R278). -/
def vec (wf : Bool) (wide : Bool) (op : AluOp) (d a b : Nat) (bs : Bool) (s : State) : Out :=
  issue s (vecIssue wf wide op d a b bs) (fun c =>
    let lane := fun (w : Nat) (l : Nat) =>
      let old := if op = .mad then c.addend w d l else c.va w d l
      (aluSat op c.mod8 old (c.va w a l) (c.vb w b bs l)).toNat
    let pois := fun (l k : Nat) => decide (op = .mov) && (if bs then c.warp.sPois (b + k) else c.warp.vPois (b + k) l)
    .next (s.vecDone c (vref d (if wide then 2 else 1)) ((lanes c.combined).map (fun l =>
      let r := if wide then lane 64 l else lane 32 l
      (l, if wide then [.v d l (BitVec.ofNat 32 r) (pois l 0), .v (d + 1) l (BitVec.ofNat 32 (r / 2 ^ 32)) (pois l 1)]
          else [.v d l (BitVec.ofNat 32 r) (pois l 0)], 0)))))

/-- VSET: one bit of kd for each active lane (R278). -/
def vecSet (wf : Bool) (wide : Bool) (k : ICmp) (d a b : Nat) (bs : Bool) (s : State) : Out :=
  issue s (fun c =>
    let n := if wide then 2 else 1
    perLane (wf && c.vok a n && (bs || c.vok b n)) (accVec noMod8 false) c [vref a n, if bs then sqref wide b else vref b n]
      [.k d]) (fun c =>
    .next (s.maskDone c d ((lanes c.combined).map (fun l =>
      (l, if wide then icmp k (c.va 64 a l) (c.vb 64 b bs l) else icmp k (c.va 32 a l) (c.vb 32 b bs l), 0)))))

/-- VBCST: the element of lane s[b] of the combined mask, else 0, to every active lane (R280). On d pairs VB names a q pair (R272), whose
low register is s[b] (assumption 132). -/
def vecBcst (wf : Bool) (wide : Bool) (d a b : Nat) (s : State) : Out :=
  issue s (fun c =>
    let n := if wide then 2 else 1
    let x := perLane (wf && c.vok d n && c.vok a n) (accVec noMod8 false) c [vref a n, if wide then qref b else sref b] (vref d n)
    let src := (c.warp.sreg b).toNat
    let used := c.combined.getLsbD src && c.lanePoison (vref a n) src
    { x with poison := if c.warp.sPois b || (wide && c.warp.sPois (b + 1)) || used then c.combined else 0 }) (fun c =>
    let src := (c.warp.sreg b).toNat
    let x := if c.combined.getLsbD src then (c.va 64 a src).toNat else 0
    .next (s.vecDone c (vref d (if wide then 2 else 1)) ((lanes c.combined).map (fun l => (l, vwrite wide d l x false, 0)))))

/-- A vector instruction with an immediate, majors 0x1A, 0x1B, 0x1D (R281). -/
def vecImm (wf : Bool) (op : AluOp) (d a : Nat) (im : BitVec 12) (s : State) : Out :=
  issue s (fun c =>
    { perLane (wf && c.vok d 1 && (!op.readsA || c.vok a 1)) (accVecImm (intMod8 op)) c
        (if op.readsA then [vref a 1] else []) (vref d 1) with guard := decide (op ≠ .mov) }) (fun c =>
    .next (s.vecDone c (vref d 1) ((lanes c.combined).map (fun l =>
      (l, [.v d l (aluSat op c.mod8 0 (c.va 32 a l) (BitVec.ofInt 32 (c.imm 12 im.toNat))) false], 0)))))

/-- A vector shift by an immediate, major 0x1C (R281). -/
def vecShift (wf : Bool) (op : AluOp) (d a : Nat) (n : BitVec 5) (s : State) : Out :=
  issue s (fun c =>
    perLane (wf && c.vok d 1 && c.vok a 1 && (c.ihi.getD 0 == 0)) (accVecImm noMod8) c [vref a 1] (vref d 1)) (fun c =>
    .next (s.vecDone c (vref d 1) ((lanes c.combined).map (fun l =>
      (l, [.v d l (alu op 0 (c.va 32 a l) (BitVec.ofNat 32 n.toNat)) false], 0)))))

end Sys2Proof.Machine
end

