-- ==== Sys2Proof/Machine/Vec.lean ====
section
/-! DEFINITION. Vector floating point, conversion, cross-lane, sorting and random instructions (R282 to R300): their shared
shapes over the exact arithmetic of Flags. -/

namespace Sys2Proof.Machine

/-- Vector float operations (R282). -/
inductive FOp where
  | add | sub | mul | fma | min | max | cls | fn (f : MathFn)
deriving DecidableEq, Repr

/-- The operation reads its first source. -/
def FOp.readsA : FOp → Bool
  | .cls | .fn _ => false
  | _ => true

/-- Float element format of the 32-bit and 64-bit majors. -/
def fmtWide (wide : Bool) : Fmt := if wide then fp64 else fp32

/-- The result of a float operation on bit patterns, with its flags; c is the addend. -/
def fop (f : Fmt) (rm : Nat) (op : FOp) (a b c : Nat) : Nat × Flags :=
  let x := f.decode a
  let y := f.decode b
  match op with
  | .add => roundNum f rm (addNum rm x y)
  | .sub => roundNum f rm (addNum rm x y.negate)
  | .mul => roundNum f rm (mulNum x y)
  | .fma => roundNum f rm (fmaNum rm x y (f.decode c))
  | .min => roundNum f rm (minMaxNum false x y)
  | .max => roundNum f rm (minMaxNum true x y)
  | .cls => (classOf f b, 0)
  | .fn g => roundNum f rm (mathNum g y)

/-- The rounding mode of the instruction: RNE unless the group's HMOD supplies one (R143, R282). -/
def Cx.round (c : Cx) : Nat := if c.rmv then c.rm else rne

/-- A vector float instruction that writes vector registers (R282 to R284). -/
def vecFloat (wf : Bool) (wide : Bool) (op : FOp) (d a b : Nat) (bs : Bool) (s : State) : Out :=
  issue s (fun c =>
    let n := if wide then 2 else 1
    let ad := c.addendRef wide d
    perLane (wf && c.vok d n && (!op.readsA || c.vok a n) && (bs || c.vok b n) && (op != .fma || ad.2))
      (accFloat (decide (op = .fma))) c
      ((if op.readsA then [vref a n] else []) ++ [if bs then sqref wide b else vref b n]
        ++ (if op = .fma then [ad.1] else [])) (vref d n)) (fun c =>
    let w := if wide then 64 else 32
    .next (s.vecDone c (vref d (if wide then 2 else 1)) ((lanes c.combined).map (fun l =>
      let r := fop (fmtWide wide) c.round op (c.va w a l).toNat (c.vb w b bs l).toNat (c.addend w d l).toNat
      (l, vwrite wide d l r.1 false, r.2)))))

/-- VFSET: one bit of kd for each active lane (R283). -/
def vecFloatSet (wf : Bool) (wide : Bool) (k : FCmp) (d a b : Nat) (bs : Bool) (s : State) : Out :=
  issue s (fun c =>
    let n := if wide then 2 else 1
    perLane (wf && c.vok a n && (bs || c.vok b n)) (accFloat false) c [vref a n, if bs then sqref wide b else vref b n]
      [.k d]) (fun c =>
    let w := if wide then 64 else 32
    let f := fmtWide wide
    .next (s.maskDone c d ((lanes c.combined).map (fun l =>
      let r := compareNum k (f.decode (c.va w a l).toNat) (f.decode (c.vb w b bs l).toNat)
      (l, r.1, r.2)))))

/-! ### Conversion (R285 to R290) -/

/-- Formats that VCVT takes (R149, R150, R285). -/
def cvtCode (x : Nat) : Bool := decide (x ≤ 10) && x != 7

/-- The format is held in a d pair (R286). -/
def pairFmt (code : Nat) (i64 : Bool) : Bool := code == 8 || (code == 9 && i64)

/-- Registers of a format. -/
def fmtRegs (code : Nat) (i64 : Bool) : Nat := if pairFmt code i64 then 2 else 1

/-- A register field names a register or an even pair below V. -/
def Cx.vokPair (c : Cx) (r n : Nat) : Bool := c.vok r n && (n == 1 || r % 2 == 0)

/-- An encoding whose format codes stand in MOD8: an unaccepted pair fails at the HMOD, or at the word without one (R285). -/
def Cx.codesOk (c : Cx) (ok : Nat → Bool) : Bool := (c.hint 3).isSome || ok 0

/-- The register pattern of a converted element: INT8 is sign-extended, other narrow formats have zeros above (R286). -/
def narrow (code x : Nat) : Nat := if code = 6 then toBits (sext x 8) 32 else x

/-- VCVT (R287). SI64 or TI64 on a side whose code is not 0x9 raises ILLEGAL at the instruction word also behind an HMOD, which is the
model's choice (assumption 151). -/
def vecCvt (wf : Bool) (d a : Nat) (ti si sat : Bool) (s : State) : Out :=
  let ok := fun (m : Nat) => cvtCode (bits m 0 4) && cvtCode (bits m 4 4)
  issue s (fun c =>
    let src := bits c.mod8 0 4
    let tgt := bits c.mod8 4 4
    let enc := wf && c.codesOk ok && (!si || src == 9) && (!ti || tgt == 9)
      && c.vokPair d (fmtRegs tgt ti) && c.vokPair a (fmtRegs src si)
    perLane enc (accConv true ok) c [vref a (fmtRegs src si)] (vref d (fmtRegs tgt ti))) (fun c =>
    let src := bits c.mod8 0 4
    let tgt := bits c.mod8 4 4
    .next (s.vecDone c (vref d (fmtRegs tgt ti)) ((lanes c.combined).map (fun l =>
      let r := convert src tgt si ti c.round sat (c.va 64 a l).toNat
      (l, vwrite (pairFmt tgt ti) d l (narrow tgt r.1) false, r.2)))))

/-- Flags of a combination of lanes are raised by the lowest lane of the combined mask (R275). -/
def Cx.onLowest (c : Cx) (res : List (Nat × List RegWrite)) (f : Flags) : List (Nat × List RegWrite × Flags) :=
  res.map (fun r => (r.1, r.2, if r.1 = lowLane c.combined then f else 0))

/-- One block of VQMX (R288): its scale, elements and flags; x is the value of each lane of the block, none when inactive. -/
def vqmxBlock (tgt : Nat) (x : List (Option Num)) : Nat × List Nat × Flags :=
  let bad := x.any (fun v => match v with | some y => !y.isFinite | none => false)
  if bad then (255, x.map (fun _ => 0), flagIV)
  else mxQuant tgt (x.map (fun v => v.getD (.fin false 0 0 false)))

/-- VQMX (R288). LANES of its POISON are the lanes that hold poison, and not every lane of the block, which is the model's choice
(assumption 152). -/
def vecQmx (wf : Bool) (d a : Nat) (s : State) : Out :=
  let ok := fun (m : Nat) => decide (bits m 0 4 ≤ 1) && decide (2 ≤ bits m 4 4) && decide (bits m 4 4 ≤ 5)
  issue s (fun c =>
    perLane (wf && c.codesOk ok && decide (32 ≤ c.grid.w) && c.vok d 1 && c.vok a 1) (accConv false ok) c [vref a 1] (vref d 1))
    (fun c =>
    let src := bits c.mod8 0 4
    let tgt := bits c.mod8 4 4
    let f := if src = 0 then fp32 else bf16
    let blocks := (List.range 2).map (fun j =>
      let act := (List.range 32).any (fun n => c.combined.getLsbD (32 * j + n))
      if act then vqmxBlock tgt ((List.range 32).map (fun n =>
        let l := 32 * j + n
        if c.combined.getLsbD l then some (f.decode ((c.va 32 a l).toNat % 2 ^ fmtBits src)) else none))
      else (0, [], 0))
    let fl := blocks.foldl (fun f b => f ||| b.2.2) 0
    .next (s.vecDone c (vref d 1) (c.onLowest ((lanes c.combined).map (fun l =>
      let b := blocks.getD (l / 32) (0, [], 0)
      (l, vwrite false d l (b.2.1.getD (l % 32) 0 + 256 * b.1) false))) fl)))

/-- VDQMX (R289). -/
def vecDqmx (wf : Bool) (d a : Nat) (sat : Bool) (s : State) : Out :=
  let ok := fun (m : Nat) => decide (2 ≤ bits m 0 4) && decide (bits m 0 4 ≤ 5) && decide (bits m 4 4 ≤ 1)
  issue s (fun c => perLane (wf && c.codesOk ok && c.vok d 1 && c.vok a 1) (accConv false ok) c [vref a 1] (vref d 1)) (fun c =>
    let src := bits c.mod8 0 4
    let f := if bits c.mod8 4 4 = 0 then fp32 else bf16
    .next (s.vecDone c (vref d 1) ((lanes c.combined).map (fun l =>
      let x := (c.va 32 a l).toNat
      let r := roundTo f rne sat (mxDecode src (bits x 8 8) (bits x 0 8))
      (l, vwrite false d l r.1 false, r.2)))))

/-- Entry n of a context's CBMAG (R142). -/
def Ctx.cbEntry (x : Ctx) (n : Nat) : Nat :=
  match tfind x.cbmag n with
  | some v => v - 1
  | none => cbReset.getD n 0

/-- VCBD (R290). Its result is pending as one that a write of CBMAG makes undefined (R142). -/
def vecCbd (wf : Bool) (d a : Nat) (sat : Bool) (s : State) : Out :=
  let ok := fun (m : Nat) => bits m 0 4 == 7 && decide (bits m 4 4 ≤ 1)
  issue s (fun c => perLane (wf && c.codesOk ok && c.vok d 8 && c.vok a 1) (accConv false ok) c [vref a 1] (vref d 8)) (fun c =>
    let f := if bits c.mod8 4 4 = 0 then fp32 else bf16
    let res := (lanes c.combined).map (fun l =>
      let x := (c.va 32 a l).toNat
      let r := (cb2Decode c.ctx.cbEntry (bits x 0 16) (bits x 16 8)).map (fun w => roundTo f rne sat w)
      (l, (List.range 8).flatMap (fun j => vwrite false (d + j) l (r.getD j (0, 0)).1 false), r.foldl (fun fl p => fl ||| p.2) 0))
    if c.combined = 0 then .next (s.advance c)
    else
      let bad := maskOf ((res.filter (fun r => r.2.2 &&& c.ten != 0)).map (fun r => r.1))
      if bad ≠ 0 then .next (s.trap c .arith bad 0)
      else
        let s := s.addOp c (vref d 8) none (.cb (res.flatMap (fun r => r.2.1)) (res.foldl (fun f r => f ||| r.2.2) 0))
        .next ((s.onWarp c (fun x => x.markAll true (vref d 8))).advance c))

/-! ### Cross-lane (R291 to R296) -/

/-- The fill value of w bits (R221, R291). -/
def Cx.fill (c : Cx) (w : Nat) : Nat :=
  match c.hint 5 with
  | none => 0
  | some p => if bit p.toNat 22 then bits p.toNat 0 16 * 2 ^ (w - 16) else toBits (sext p.toNat 22) w

/-- MOD8's D bit (R292). -/
def Cx.dbit (c : Cx) : Bool := bit c.mod8 4

/-- The element of a source lane, or the fill value when the lane is not readable (R291). -/
def Cx.readLane (c : Cx) (w a src : Nat) : Nat :=
  if decide (src < 64) && c.combined.getLsbD src then (c.va w a src).toNat else c.fill w

/-- Poison lanes of VPERM and VSHFL: the lane that receives a poisoned element, or whose index is poisoned (R274). -/
def Cx.movePoison (c : Cx) (a : List RegRef) (b : List RegRef) (src : Nat → Nat) : Mask :=
  if c.onePoison b then c.combined
  else maskOf ((lanes c.combined).filter (fun l => c.lanePoison b l ||
    (decide (src l < 64) && c.combined.getLsbD (src l) && c.lanePoison a (src l))))

/-- The index or distance that VB gives a lane: of a d pair the low half, or, where full is set, all of it (R293, R294). -/
def Cx.crossIdx (c : Cx) (full : Bool) (b : Nat) (bs : Bool) (l : Nat) : Nat :=
  if full && c.dbit && !bs then (c.vb 64 b bs l).toNat else (c.vb 32 b bs l).toNat

/-- VPERM and VSHFL: src gives the source lane of each active lane, 64 for none. Poison in either half of VPERM's index pair under D=1
counts as used although the low half alone is read (R293), which is the model's choice (assumption 152). -/
def crossMove (wf full : Bool) (mod8 : Cx → Nat → Bool) (d a b : Nat) (bs : Bool) (src : Cx → Nat → Nat → Nat) (s : State) : Out :=
  issue s (fun c =>
    let n := if c.dbit then 2 else 1
    let br := if bs then sref b else vref b n
    let x := perLane (wf && c.vokPair d n && c.vokPair a n && (bs || c.vokPair b n)) (accCross (mod8 c)) c [vref a n, br]
      (vref d n)
    { x with poison := c.movePoison (vref a n) br (fun l => src c l (c.crossIdx full b bs l)) }) (fun c =>
    let w := if c.dbit then 64 else 32
    .next (s.vecDone c (vref d (if c.dbit then 2 else 1)) ((lanes c.combined).map (fun l =>
      (l, vwrite c.dbit d l (c.readLane w a (src c l (c.crossIdx full b bs l))) false, 0)))))

/-- The source lane of VSHFL (R294); 64 when the mode gives fill. -/
def shflSrc (c : Cx) (l n : Nat) : Nat :=
  let seg := bits c.mod8 5 3
  let sz := if seg = 0 then c.grid.w else 2 ^ seg
  let o := l % sz
  let base := l - o
  match bits c.mod8 0 2 with
  | 0 => if o < n then 64 else base + (o - n)
  | 1 => if sz ≤ o + n then 64 else base + o + n
  | 2 => if sz ≤ (o ^^^ n) then 64 else base + (o ^^^ n)
  | _ => base + (toBits ((o : Int) - n) 64) % sz

/-- MOD8 of VSHFL (R292, R294). -/
def shflMod8 (c : Cx) (m : Nat) : Bool :=
  bits m 2 2 == 0 && (bits m 5 3 == 0 || (bits m 5 3 != 7 && decide (2 ^ bits m 5 3 ≤ c.grid.w)))

/-- The combining operation of VRED and VSCAN (R295) on w-bit elements. -/
def redOp (wide : Bool) (op a b : Nat) : Nat × Flags :=
  let w := if wide then 64 else 32
  let f := fmtWide wide
  match op with
  | 0 => ((a + b) % 2 ^ w, 0)
  | 1 => (a &&& b, 0)
  | 2 => (a ||| b, 0)
  | 3 => (a ^^^ b, 0)
  | 4 => (if sext a w < sext b w then a else b, 0)
  | 5 => (if sext a w < sext b w then b else a, 0)
  | 6 => (min a b, 0)
  | 7 => (max a b, 0)
  | 8 => fop f rne .add a b 0
  | 9 => fop f rne .min a b 0
  | _ => fop f rne .max a b 0

/-- One level of the tree: adjacent pairs. -/
def redLevel (wide : Bool) (op : Nat) : List Nat → List Nat × Flags
  | a :: b :: r =>
    let x := redOp wide op a b
    let y := redLevel wide op r
    (x.1 :: y.1, x.2 ||| y.2)
  | l => (l, 0)

/-- The whole tree, level by level (R295). -/
def redTree (wide : Bool) (op : Nat) : Nat → List Nat → Flags → Nat × Flags
  | 0, l, f => (l.headD 0, f)
  | n + 1, l, f =>
    match l with
    | [x] => (x, f)
    | _ => let y := redLevel wide op l; redTree wide op n y.1 (f ||| y.2)

/-- Prefixes in ascending lane position (R296). -/
def scanFrom (wide : Bool) (op acc : Nat) : List Nat → List Nat × Flags
  | [] => ([acc], 0)
  | x :: r =>
    let y := redOp wide op acc x
    let z := scanFrom wide op y.1 r
    (acc :: z.1, y.2 ||| z.2)

/-- MOD8 of VRED, and of VSCAN with its EXCL bit (R292, R295). -/
def redMod8 (scan : Bool) (m : Nat) : Bool := decide (bits m 0 4 ≤ 10) && bits m 6 2 == 0 && (scan || !bit m 5)

/-- VRED and VSCAN (R295, R296). -/
def crossReduce (wf : Bool) (scan : Bool) (d a : Nat) (s : State) : Out :=
  issue s (fun c =>
    let n := if c.dbit then 2 else 1
    let x := perLane (wf && c.vokPair d n && c.vokPair a n) (accCross (redMod8 scan)) c [vref a n] (vref d n)
    let pl := (lanes c.combined).filter (fun l => c.lanePoison (vref a n) l)
    { x with poison := match pl with
        | [] => 0
        | p :: _ => if scan then maskOf ((lanes c.combined).filter (fun l => if bit c.mod8 5 then decide (p < l) else decide (p ≤ l)))
                    else c.combined }) (fun c =>
    let w := if c.dbit then 64 else 32
    let op := bits c.mod8 0 4
    let xs := (List.range c.grid.w).map (fun p => c.readLane w a p)
    if scan then
      let y := match xs with
        | [] => ([], 0)
        | x :: r => scanFrom c.dbit op x r
      .next (s.vecDone c (vref d (if c.dbit then 2 else 1)) (c.onLowest ((lanes c.combined).map (fun l =>
        (l, vwrite c.dbit d l (if !bit c.mod8 5 then y.1.getD l 0 else if l = 0 then c.fill w else y.1.getD (l - 1) 0) false))) y.2))
    else
      let y := redTree c.dbit op 6 xs 0
      .next (s.vecDone c (vref d (if c.dbit then 2 else 1)) (c.onLowest ((lanes c.combined).map (fun l =>
        (l, vwrite c.dbit d l y.1 false))) y.2)))

/-! ### Sorting, selection, random numbers (R297 to R300) -/

/-- A key's value: none for a NaN, which ranks above every number (R297). -/
def keyNum (kind x : Nat) : Num :=
  match kind with
  | 0 => intNum (sext x 32)
  | 1 => intNum x
  | 2 => fp32.decode x
  | _ => bf16.decode (x % 65536)

/-- Key order: NaN above every number, −0 equal to +0. -/
def keyLt (a b : Num) : Bool :=
  if b.isNan then !a.isNan else if a.isNan then false else decide (cmpNum a b < 0)

/-- MOD8 of the sorting instructions. -/
def sortMod8 (m : Nat) : Bool := bits m 3 5 == 0

/-- Active lanes in rank order: ascending, or descending with down; equal keys keep the lower lane first (R297). -/
def Cx.ranked (c : Cx) (a : Nat) (down : Bool) : List Nat :=
  let k := bits c.mod8 0 2
  let key := fun (l : Nat) => keyNum k (c.va 32 a l).toNat
  sortBy (fun x y => if down then keyLt (key y) (key x) else keyLt (key x) (key y)) (lanes c.combined)

/-- Flags of the keys: IV for a NaN (R297). -/
def Cx.keyFlags (c : Cx) (a l : Nat) : Flags := if (keyNum (bits c.mod8 0 2) (c.va 32 a l).toNat).isNan then flagIV else 0

/-- VSORT (R298). -/
def vecSort (wf : Bool) (d a b : Nat) (bs : Bool) (s : State) : Out :=
  issue s (fun c =>
    let x := perLane (wf && c.vok d 2 && c.vok a 1 && (bs || c.vok b 1)) (accVec sortMod8 false) c
      ([vref a 1] ++ (if bs then [] else [vref b 1])) (vref d 2)
    { x with poison := c.poisonLanes [vref a 1] }) (fun c =>
    let src := c.ranked a (bit c.mod8 2)
    .next (s.vecDone c (vref d 2) (((lanes c.combined).zip src).map (fun p =>
      (p.1, [.v d p.1 (c.va 32 a p.2) false,
             .v (d + 1) p.1 (if bs then BitVec.ofNat 32 p.2 else c.va 32 b p.2) (!bs && c.warp.vPois b p.2)],
        c.keyFlags a p.1)))))

/-- VTOPK (R299). -/
def vecTopk (wf : Bool) (d a b : Nat) (s : State) : Out :=
  issue s (fun c => perLane (wf && c.vok d 2 && c.vok a 1) (accVec sortMod8 false) c [vref a 1, sref b] (vref d 2)) (fun c =>
    let k := min (c.warp.sreg b).toNat 64
    let src := (c.ranked a (!bit c.mod8 2)).take k
    let ls := lanes c.combined
    .next (s.vecDone c (vref d 2) ((ls.zip (List.range ls.length)).map (fun p =>
      match src[p.2]? with
      | some l => (p.1, [.v d p.1 (c.va 32 a l) false, .v (d + 1) p.1 (BitVec.ofNat 32 l) false], c.keyFlags a p.1)
      | none => (p.1, [.v d p.1 0 false, .v (d + 1) p.1 0xFFFFFFFF false], c.keyFlags a p.1)))))

/-- The generator's word of a key and a counter (R300). -/
def randWord (k c : Nat) : Nat :=
  let z := (k + c * 0x8F3A6C51D9E24B17) % 2 ^ 64
  let z := ((z ^^^ (z >>> 31)) * 0x5B2EC7A913F6D08D) % 2 ^ 64
  let z := ((z ^^^ (z >>> 27)) * 0xE1C49A376B05F2E3) % 2 ^ 64
  z ^^^ (z >>> 33)

/-- VRAND (R300): both va and vd are destinations. -/
def vecRand (wf : Bool) (d a b : Nat) (s : State) : Out :=
  issue s (fun c =>
    let dd := bit c.mod8 0
    let n := if dd then 2 else 1
    perLane (wf && c.vokPair d n && c.vok a 1 && a != d && (!dd || a != d + 1))
      (accVec (fun m => bits m 1 7 == 0) false) c [vref a 1, qref b] (vref d n ++ vref a 1)) (fun c =>
    let dd := bit c.mod8 0
    .next (s.vecDone c (vref d (if dd then 2 else 1) ++ vref a 1) ((lanes c.combined).map (fun l =>
      let x := c.va 32 a l
      (l, vwrite dd d l (randWord (c.warp.qreg b).toNat x.toNat) false ++ [.v a l (x + 1) false], 0)))))

end Sys2Proof.Machine
end

