-- ==== Sys2Proof/Machine/Engine.lean ====
section
/-! DEFINITION. The exact arithmetic of the core's engines: packed elements (R136), group values and their accumulation (R154,
R155), and one step of the matrix unit (R341, R342, R350). -/

namespace Sys2Proof.Machine

/-- Element i of a packed operand (R136): E2M3 one to a byte, E2M1 in nibbles. -/
def packedElem (fmt : Nat) (l : List Byte) (i : Nat) : Nat :=
  match fmt with
  | 1 => leAt l (2 * i) 2
  | 5 => bits (leAt l (i / 2) 1) (4 * (i % 2)) 4
  | _ => leAt l i 1

/-- The group value of 32 products, exactly, with IV (R155). The block scales are in the operands. -/
def groupSum (l : List (Num × Num)) : Num × Flags :=
  let p := l.map (fun x => (mulNum x.1 x.2).1)
  let up := p.any (fun x => x == .inf false)
  let dn := p.any (fun x => x == .inf true)
  if p.any Num.isNan || (up && dn) then invalid
  else if up then (.inf false, 0)
  else if dn then (.inf true, 0)
  else
    let e : Int := p.foldl (fun m x => match x with | .fin _ _ k _ => min m k | _ => m) 0
    let x : Int := p.foldl (fun a x => match x with | .fin n m k _ => a + scaled n m k e | _ => a) 0
    if x = 0 then (.fin (p.all Num.neg) 0 0 false, 0) else (.fin (decide (x < 0)) x.natAbs e false, 0)

/-- A group value rounded to FP32 and added to an accumulator, both by RNE (R154). -/
def accGroup (acc : Nat) (g : Num × Flags) : Nat × Flags :=
  let v := roundTo fp32 rne false g.1
  let r := f32add acc v.1
  (r.1, g.2 ||| v.2 ||| r.2)

/-- The 32 elements of group g of a packed row or column under its block scale (R341, R151). -/
def groupElems (fmt : Nat) (l : List Byte) (scale g : Nat) : List Num :=
  (List.range 32).map (fun i =>
    let x := packedElem fmt l (32 * g + i)
    if fmt = 1 then bf16.decode x else mxDecode fmt scale x)

/-- The 32 weights of group g of a column of B (R341, R141). -/
def colElems (mag : Nat → Nat) (fmt : Nat) (l : List Byte) (scale g : Nat) : List Num :=
  if fmt = 7 then (List.range 4).flatMap (fun k => cb2Decode mag (leAt l (2 * (4 * g + k)) 2) scale)
  else groupElems fmt l scale g

/-! ### One step of the matrix unit -/

/-- An operand line: its elements by group, and whether a word of each group is poisoned. -/
structure Line where
  elems : List (List Num)
  pois  : List Bool
  ff    : List Bool            -- the block's scale is 255
deriving DecidableEq, Repr

/-- Words of group g of a line of n bytes. -/
def groupWords (n groups g : Nat) : List Nat := (List.range (n / 4 / groups)).map (fun i => g * (n / 4 / groups) + i)

/-- A line of A or B of n bytes from its decoder of a scale and a group, its scale bytes, and the poison of its words and of
its scale word. -/
def lineOf (groups n : Nat) (dec : Nat → Nat → List Num) (sc : List Byte) (fmt : Nat) (wp : Nat → Bool) (sp : Bool) : Line :=
  { elems := (List.range groups).map (fun g => dec (byteAt sc g).toNat g)
    pois := (List.range groups).map (fun g => sp || (groupWords n groups g).any wp)
    ff := (List.range groups).map (fun g => fmt != 1 && (byteAt sc g).toNat == 255) }

/-- Row r of A (R341): captured, or read from the A-buffer; none where it is padded. -/
def MatOp.row (o : MatOp) (g : Group) (m : MatRec) (r : Nat) : Option Line :=
  let sc := match o.ascal with
    | some x => ((x.1.drop (4 * r)).take 4, x.2.getLsbD r)
    | none => (g.bytes 0 (m.asoff + 4 * r) 4, m.afmt != 1 && g.poisonIn 0 (m.asoff + 4 * r) 4)
  let mk := fun (l : List Byte) (wp : Nat → Bool) =>
    lineOf m.groups 64 (fun s k => groupElems m.afmt l s k) sc.1 m.afmt wp sc.2
  match o.arows with
  | some rows => match rows.getD r none with
    | some x => some (mk x.bytes (fun i => x.pois.getLsbD i))
    | none => none
  | none =>
    let l := g.bytes 0 (m.aoff + 64 * r) 64
    some (mk l (fun i => g.bufP.contains (bufWord 0 (m.aoff + 64 * r + 4 * i))))

/-- Column n of B (R341). -/
def MatOp.col (g : Group) (mag : Nat → Nat) (m : MatRec) (n : Nat) : Line :=
  let l := g.bytes m.bbuf (m.boff + m.bcol * n) m.bcol
  let sc := g.bytes m.bbuf (m.bsoff + 4 * n) 4
  lineOf m.groups m.bcol (fun s k => colElems mag m.bfmt l s k) sc m.bfmt
    (fun i => g.bufP.contains (bufWord m.bbuf (m.boff + m.bcol * n + 4 * i)))
    (m.afmt != 1 && g.poisonIn m.bbuf (m.bsoff + 4 * n) 4)

/-- Blocks that the bitmap skips (R350), as a number: bit 4n + g. -/
def MatRec.bitmap (m : MatRec) (g : Group) : Nat := if m.sparse then ofBytes (g.bytes m.bbuf m.spoff 32) else 0

/-- What a step leaves of one element of C: its bits, its poison and the flags. -/
abbrev CElem := Nat × Bool × Flags

/-- One element of C after a step (R342, R350): colP says that a word of the bitmap which the column reads is poisoned. -/
def stepElem (skip : Nat → Bool) (a b : Line) (colP : Bool) (c : Nat × Bool) : CElem :=
  let gs := (List.range a.elems.length).filter (fun k => !skip k)
  let r := gs.foldl (fun (acc : Nat × Flags) k =>
    let v := accGroup acc.1 (groupSum ((a.elems.getD k []).zip (b.elems.getD k [])))
    (v.1, acc.2 ||| v.2)) (c.1, 0)
  (r.1, c.2 || colP || gs.any (fun k => a.pois.getD k false || b.pois.getD k false), r.2)

/-- A skipped block that .CHK finds not zero (R350). -/
def chkMismatch (b : Line) (k : Nat) : Bool :=
  b.pois.getD k false || b.ff.getD k false || (b.elems.getD k []).any (fun x => !x.isZero)

/-- One step of an operation on a C tile: the new tile, the flags of each element, whether .CHK found a mismatch. -/
def MatOp.stepTile (o : MatOp) (g : Group) (mag : Nat → Nat) (m : MatRec) (t : List (Nat × Bool)) :
    List (Nat × Bool) × List Flags × Bool :=
  let bm := m.bitmap g
  let rows := (List.range 64).map (fun r => o.row g m r)
  let cols := (List.range 64).map (fun n => MatOp.col g mag m n)
  let bmP := fun (n : Nat) => m.sparse && g.poisonIn m.bbuf (m.spoff + n / 8 * 4) 4
  let lines := rows.flatMap (fun a => (List.range 64).map (fun n => (a, n)))
  let res := (((List.range 4096).zip t).zip lines).map (fun x =>
    match x.2.1 with
    | none => (x.1.2.1, x.1.2.2, (0 : Flags))
    | some a =>
      let e := stepElem (fun k => bm.testBit (4 * x.2.2 + k)) a (cols.getD x.2.2 ⟨[], [], []⟩) (bmP x.2.2) x.1.2
      if o.undefAt m.coff x.1.1 then (e.1, e.2.1, 0) else e)
  let chk := o.chk && m.sparse && ((List.range 64).any (fun n =>
    let b := cols.getD n ⟨[], [], []⟩
    (List.range m.groups).any (fun k => bm.testBit (4 * n + k) && chkMismatch b k)))
  (res.map (fun e => (e.1, e.2.1)), res.map (fun e => e.2.2), chk)

/-- The offset of the first poisoned word that a step reads, in the order of R342 (A, A scales, B, B scales, bitmap, C); a
word captured from registers counts as offset 0. What only skipped blocks would use is not read (R350). -/
def MatOp.stepPoison (o : MatOp) (g : Group) (m : MatRec) : Option Nat :=
  let bm := m.bitmap g
  let used := fun (r : Nat) => match o.arows with | some l => (l.getD r none).isSome | none => true
  let live := fun (n k : Nat) => !bm.testBit (4 * n + k)
  let cols := List.range 64
  let anyCol := fun (k : Nat) => cols.any (fun n => live n k)
  let reads := fun (n : Nat) => (List.range m.groups).any (live n)
  let rows := (List.range 64).filter used
  let aw := rows.findSome? (fun r => (List.range m.groups).findSome? (fun k =>
    if anyCol k then (groupWords 64 m.groups k).findSome? (fun i =>
      match o.arows with
      | some l => match l.getD r none with | some x => if x.pois.getLsbD i then some 0 else none | none => none
      | none => if g.bufP.contains (bufWord 0 (m.aoff + 64 * r + 4 * i)) then some (m.aoff + 64 * r + 4 * i) else none)
    else none))
  let as := if m.afmt = 1 ∨ cols.any reads = false then none else rows.findSome? (fun r => match o.ascal with
    | some x => if x.2.getLsbD r then some (m.asoff + 4 * r) else none
    | none => if g.poisonIn 0 (m.asoff + 4 * r) 4 then some (m.asoff + 4 * r) else none)
  let bw := cols.findSome? (fun n => (List.range m.groups).findSome? (fun k =>
    if live n k then (groupWords m.bcol m.groups k).findSome? (fun i =>
      let a := m.boff + m.bcol * n + 4 * i
      if g.bufP.contains (bufWord m.bbuf a) then some a else none)
    else none))
  let bs := if m.afmt = 1 then none else cols.findSome? (fun n =>
    if reads n && g.poisonIn m.bbuf (m.bsoff + 4 * n) 4 then some (m.bsoff + 4 * n) else none)
  let sp := if m.sparse then g.firstPoison m.bbuf m.spoff 32 else none
  let cw := (rows.flatMap (fun r => (cols.filter reads).map (fun n => m.coff + 256 * r + 4 * n))).find? (fun a => g.bufP.contains (bufWord 2 a))
  if rows = [] then none
  else (((((aw.or as).or bw).or bs).or sp).or cw)

end Sys2Proof.Machine
end

