-- ==== Sys2Proof/Machine/Matrix.lean ====
section
/-! DEFINITION. The matrix unit: MMA, MLOOP, MRDY and joint issue, MFENCE, MWAIT and the completion of a batch (major 0x30,
funcs 2 to 6; R340 to R350, R119, R84). -/

namespace Sys2Proof.Machine

/-- The record of a handle that is VALID and of a kind, or HANDLE (R337). -/
def State.record (s : State) (c : Cx) (h kind : Nat) : Except State (List Byte) :=
  let x := c.warp.hreg h
  if x.st = .valid ∧ leAt x.bytes 0 1 % 16 = kind then .ok x.bytes else .error (s.trap c .handle c.split.mask h)

/-- Members of a joint group (R345). -/
def Cx.members (c : Cx) : Nat := 64 / c.grid.w

/-- The uids of the group's members that the workgroup holds, in order, the first included. -/
def Cx.jointWarps (c : Cx) : List Nat :=
  let n := c.members
  (List.range n).filterMap (fun i => c.group.warps[c.warp.idx / n * n + i]?)

/-- The rows that a warp supplies for the lanes of a mask from v va to v (va + 15) (R341, R345). -/
def Warp.rows (x : Warp) (width va : Nat) (m : Mask) : List (Option ARow) :=
  (List.range width).map (fun l =>
    if m.getLsbD l then some
      { bytes := (List.range 16).flatMap (fun j => toBytes (x.vreg (va + j) l).toNat 4)
        pois := (List.range 16).foldl (fun b j => bvPut b j (x.vPois (va + j) l)) 0 }
    else none)

/-- An MMA of the warp reads registers now: its record has ASRC 0 and the latch is empty (R343). -/
def Cx.readsRegs (c : Cx) (m : MatRec) : Bool := !m.asrc && c.warp.latch.isNone

/-- Encoding checks of an MMA against its record, its latch and its joint group (R342, R343, R345): true is ILLEGAL. -/
def Cx.mmaIllegal (c : Cx) (m : MatRec) (va : Nat) (reuse : Bool) : Bool :=
  (m.asrc && (decide (va ≠ 0) || reuse)) || (!m.asrc && !c.vok va 16)
    || (match c.warp.latch with | some l => l.afmt != m.afmt | none => false)
    || (c.readsRegs m && (decide (c.warp.idx % c.members ≠ 0)
      || decide (c.group.warps.length < c.warp.idx + c.members)))

/-- The checks of R342 for MMA, or for the last step of MLOOP: the record, or the trap. -/
def State.matChecks (s : State) (c : Cx) (l : List Byte) (illegal : MatRec → Bool) (last : Nat) : Option State :=
  let m := MatRec.read l
  if illegal m then some (s.trap c .illegal c.split.mask 0)
  else if !(s.pathOn c.warp.core m.afmt && s.pathOn c.warp.core m.bfmt) then some (s.trap c .illegal c.split.mask 0)
  else (c.grid.tileOver (m.step last)).map (fun o => s.trap c .access c.split.mask o)

/-- The A scales of a record as the latch takes them: 256 bytes, and the rows whose scale word is poisoned. -/
def Cx.takeScales (c : Cx) (m : MatRec) : List Byte × Mask :=
  if m.afmt = 1 then (List.replicate 256 0, 0)
  else (c.group.bytes 0 m.asoff 256, maskOf ((List.range 64).filter (fun r => c.group.poisonIn 0 (m.asoff + 4 * r) 4)))

/-- An operation added to the open set. -/
def Warp.addOpen (w : Warp) (o : MatOp) : Warp := { w with openSet := w.openSet ++ [o] }

/-- An operation that code reached by a divided call issues: its results are undefined (R399). -/
def Cx.matOp (c : Cx) (o : MatOp) : MatOp := if c.split.div = 0 then o else { o with loose := BitVec.allOnes 64 }

/-- The warp has room for one more operation in the matrix unit: fewer than 16 have not started (R344). -/
def Warp.unitRoom (w : Warp) : Bool :=
  decide (((w.openSet ++ w.batches.flatMap (fun b => b.ops)).filter (fun o => o.ran == 0)).length < 16)

/-- A MMA that uses the held latch (R343). -/
def Warp.latchOp (w : Warp) (c : Cx) (l : List Byte) (t : Latch) (reuse chk : Bool) : Warp :=
  let o := c.matOp ⟨l, some t.rows, some (t.ascal, t.ascalP), 1, chk, none, 0, 0, [], 0, 0, []⟩
  { (w.addOpen o) with latch := if reuse then some t else none }

/-- A MMA that reads captured rows, some of them undefined; with REUSE they fill the latch (R343). -/
def Warp.rowsOp (w : Warp) (c : Cx) (l : List Byte) (rows : List (Option ARow)) (undef : Mask) (va : Nat) (reuse chk : Bool) : Warp :=
  let m := MatRec.read l
  let sc := c.takeScales m
  let o := c.matOp ⟨l, some rows, if reuse then some sc else none, 1, chk, some (va, c.split.mask), 0, 0, [], 0, undef, []⟩
  let w := { w with bound := (List.range 16).foldl (fun b j => bvPut b (va + j) true) w.bound }
  { (w.addOpen o) with latch := if reuse then some ⟨m.afmt, rows, sc.1, sc.2⟩ else none }

/-- The rows of a joint MMA, if each other member has exited or has an MRDY waiting (R345). -/
def State.jointRows (s : State) (c : Cx) (va : Nat) : Option (List (Option ARow)) :=
  (c.jointWarps.drop 1).foldl (fun acc u =>
    match acc, tfind s.warps u with
    | some l, some x =>
      if x.life = .exited then some (l ++ List.replicate c.grid.w none)
      else match (if x.skidRoom 1 then x.mrdys else []) with
        | r :: _ => some (l ++ x.rows c.grid.w r.va (x.split r.split).mask)
        | [] => none
    | _, _ => none) (some (c.warp.rows c.grid.w va c.split.mask))

/-- Rows that an MRDY of code reached by a divided call supplies to a joint MMA: they are undefined (R399). -/
def State.looseRows (s : State) (c : Cx) : Mask :=
  let l := c.jointWarps
  maskOf ((List.range 64).filter (fun r => decide (c.grid.w ≤ r) &&
    (match (l[r / c.grid.w]?).bind (tfind s.warps) with
      | some x => (match x.mrdys with | m :: _ => m.undef | [] => false)
      | none => false)))

/-- The oldest MRDY of each other member is consumed, and returns (R345). -/
def State.takeMrdys (s : State) (c : Cx) : State :=
  (c.jointWarps.drop 1).foldl (fun s u => s.setWarp u (fun x =>
    match x.mrdys with
    | r :: more => { (x.passAt r.split) with mrdys := more }
    | [] => x)) s

/-- What the common checks see of an MMA: its A registers are a source unless the latch or the A-buffer supplies A. The word does not say
whether va is named, and for HFE it counts as the second source whether or not it is read (R220, assumption 124). -/
def mmaIssue (h va : Nat) (c : Cx) : Issue :=
  let m := MatRec.read (c.warp.hreg h).bytes
  let ok := (c.warp.hreg h).st == .valid && c.readsRegs m && c.vok va 16
  { (once (va % 16 == 0) accNoMod c [[.h h], if ok then vref va 16 else []] []) with poison := 0 }

/-- MMA (R342 to R345): it joins the open set, or its split waits for the members' MRDY. -/
def execMma (h : BitVec 4) (v : BitVec 4) (k : BitVec 1) (r : BitVec 1) (s : State) : Out :=
  let va := 8 * v.toNat
  issue s (mmaIssue h.toNat va) (fun c =>
    if c.warp.unitRoom = false then .next s
    else match s.record c h.toNat 1 with
    | .error t => .next t
    | .ok l =>
      let m := MatRec.read l
      match s.matChecks c l (fun m => c.mmaIllegal m va (r == 1)) 0 with
      | some t => .next t
      | none =>
        match c.warp.latch with
        | some t => .next ((s.onWarp c (fun w => w.latchOp c l t (r == 1) (k == 1))).advance c)
        | none =>
          if m.asrc then
            .next ((s.onWarp c (fun w => w.addOpen (c.matOp ⟨l, none, none, 1, k == 1, none, 0, 0, [], 0, 0, []⟩))).advance c)
          else match s.jointRows c va with
            | some rows => .next (((s.takeMrdys c).onWarp c (fun w => w.rowsOp c l rows (s.looseRows c) va (r == 1) (k == 1))).advance c)
            | none => .next (s.hold c (.joint h.toNat va (r.toNat + 2 * k.toNat))))

/-- JOINT_ISSUE_PAIRING (R345): the waiting MMA of a first member takes the rows of every member. One whose record has changed so that a
check of R342 now fails issues again, and traps there; it joins the unit only where it has room (R344). -/
def execJointIssuePairing (w : Nat) (s : State) : Out :=
  match (List.range 4).findSome? (fun sp => match s.waiting w sp with
    | some c => (match c.split.wait with | .joint h va t => some (c, h, va, t) | _ => none)
    | none => none) with
  | none => .next s
  | some (c, h, va, t) =>
    match s.record c h 1 with
    | .error _ => .next (s.unhold c)
    | .ok l =>
      if !c.readsRegs (MatRec.read l) || (s.matChecks c l (fun m => c.mmaIllegal m va (bit t 0)) 0).isSome then .next (s.unhold c)
      else if c.warp.unitRoom = false then .next s
      else withBound s c (mmaIssue h va c) (fun c =>
        match s.jointRows c va with
        | none => .next s
        | some rows => .next (((s.takeMrdys c).onWarp c (fun w => w.rowsOp c l rows (s.looseRows c) va (bit t 0) (bit t 1))).resume c))

/-- MLOOP (R346). -/
def execMloop (h : BitVec 4) (n : BitVec 4) (k : BitVec 1) (s : State) : Out :=
  issue s (fun c => once true accNoMod c [[.h h.toNat], sref n.toNat] []) (fun c =>
    if c.warp.unitRoom = false then .next s
    else match s.record c h.toNat 1 with
    | .error t => .next t
    | .ok l =>
      let steps := (c.warp.sreg n.toNat).toNat
      let m := MatRec.read l
      if !m.asrc then .next (s.trap c .handle c.split.mask h.toNat)
      else if !(s.pathOn c.warp.core m.afmt && s.pathOn c.warp.core m.bfmt) then .next (s.trap c .illegal c.split.mask 0)
      else if steps = 0 then .next (s.advance c)
      else if 4095 < steps then .next (s.trap c .access c.split.mask steps)
      else match s.matChecks c l (fun _ => false) (steps - 1) with
        | some t => .next t
        | none => .next ((s.onWarp c (fun w => w.addOpen (c.matOp ⟨l, none, none, steps, k == 1, none, 0, 0, [], 0, 0, []⟩))).advance c))

/-- MRDY (R345). -/
def execMrdy (v : BitVec 4) (s : State) : Out :=
  let va := 8 * v.toNat
  issue s (fun c => { (once (va % 16 == 0 && c.vok va 16) accNoMod c [vref va 16] []) with poison := 0 }) (fun c =>
    if c.grid.w = 64 then .next (s.trap c .illegal c.split.mask 0)
    else
      let first := c.jointWarps.head?.bind (fun u => tfind s.warps u)
      if (first.map (fun x => x.life == .exited)).getD false then .next (s.advance c)
      else .next ((s.onWarp c (fun w => { w with mrdys := w.mrdys ++ [⟨c.sp, va, c.split.div != 0⟩] })).hold c .mrdy))

/-! ### Batches -/

/-- Registers that operations bind. -/
def boundOf (l : List MatOp) : BitVec 128 :=
  l.foldl (fun b o => match o.aregs with
    | some (a, _) => (List.range 16).foldl (fun b j => bvPut b (a + j) true) b
    | none => b) 0

/-- What the matrix unit has performed of the open set so far (R75, R344): nothing at first. -/
def Warp.partBatch (w : Warp) : Batch := w.part.getD ⟨w.nb, [], [], 0, false, false, none, 0, false⟩

/-- The open set closed as batch NB (R348); in code that a divided call reached the batch is undefined (R399). -/
def Warp.closeSet (w : Warp) (c : Cx) : Warp :=
  { w with
    openSet := []
    part := none
    batches := w.batches ++ [{ w.partBatch with
      num := w.nb
      ops := w.openSet.map c.matOp
      regs := w.partBatch.regs ||| boundOf w.openSet }]
    nb := w.nb + 1 }

/-- MFENCE (R348): with eight batches not complete it waits. -/
def execMfence (d : BitVec 4) (s : State) : Out :=
  issue s (fun c => once true accNoMod c [] [.s d.toNat]) (fun c =>
    if 8 ≤ (c.warp.batches.filter (fun b => !b.done)).length then .next s
    else .next (((s.again c.w (fun b => c.split.div != 0 && b.num == c.warp.nb && !b.done) c.matOp).onWarp c (fun w => w.closeSet c)).later c [.s d.toNat] [.s d.toNat (BitVec.ofNat 32 c.warp.nb.toNat) false] 0))

/-- Batches that an MWAIT leaves in the list: the last eight, and those that none has named. -/
def keepBatches (l : List Batch) : List Batch :=
  let n := l.length - 8
  (l.take n).filter (fun b => !b.named) ++ l.drop n

/-- Registers that no open batch binds any more are released; a spoilt one holds a free value (R119). -/
def Warp.unbind (w : Warp) (draw : Nat) : Warp :=
  let still := (w.batches.filter (fun b => !b.named)).foldl (fun b x => b ||| x.regs) (boundOf w.openSet ||| w.partBatch.regs)
  let gone := (List.range 128).filter (fun r => w.spoilt.getLsbD r && !still.getLsbD r)
  { (w.scramble draw gone) with bound := still, spoilt := w.spoilt &&& still }

/-- Flags that an operation's steps gathered, and those of a batch (R147, R349). -/
def MatOp.gathered (o : MatOp) : Flags := o.flags.foldl (fun f e => f ||| e) 0
def Batch.gathered (b : Batch) : Flags := b.past.foldl (fun f o => f ||| o.gathered) b.flags

/-- The end of an MWAIT on the batch d places back (R349): the batches it names, their flags, their poison, its status. In code that a
divided call reached it leaves those batches undefined, and no undefined result sets a flag (R399, R9). -/
def State.mwaitEnd (s : State) (c : Cx) (sd d : Nat) : State :=
  let x := (tfind s.warps c.w).getD c.warp
  let n := x.batches.length + 1 - d
  let mine := (x.batches.take n).filter (fun b => !b.named)
  let f := if c.split.div = 0 then mine.foldl (fun f b => f ||| b.gathered) 0 else 0
  let st := if 8 < d ∨ x.batches.length < d then 0 else b2n ((x.batches.getD (x.batches.length - d) ⟨0, [], [], 0, true, false, none, 0, true⟩).chkmis)
  let bad := mine.findSome? (fun b => b.poison)
  let nums := mine.map (fun b => b.num)
  let s := if c.split.div = 0 then s else s.again c.w (fun b => b.done && nums.contains b.num) c.matOp
  let s := s.onWarp c (fun w =>
    let bs := (w.batches.take n).map (fun (b : Batch) => { b with named := true, past := [] }) ++ w.batches.drop n
    (({ w with batches := keepBatches bs }).mark false (.s sd)).unbind s.free)
  let s := { s with free := s.free + 1 }
  match bad with
  | some a => (s.unhold c).trap c .poison c.split.mask a
  | none =>
    let s := s.onWarp c (fun w => { (w.putS sd (BitVec.ofNat 32 st) false) with fstat := w.fstat ||| f })
    if c.split.wait = .ready then s.advance c else s.resume c

/-- The batch d places back is complete. -/
def Warp.batchDone (w : Warp) (d : Nat) : Bool :=
  decide (8 < d) || decide (w.batches.length < d) || (w.batches.getD (w.batches.length - d) ⟨0, [], [], 0, true, false, none, 0, true⟩).done

/-- MWAIT (R349). -/
def execMwait (sd : BitVec 4) (n : BitVec 8) (s : State) : Out :=
  issue s (fun c => once true accNoMod c [] [.s sd.toNat]) (fun c =>
    let d := (c.warp.nb - n).toNat
    if d = 0 then .next (s.trap c .illegal c.split.mask 0)
    else if c.warp.batchDone d then .next (s.mwaitEnd c sd.toNat d)
    else .next ((s.onWarp c (fun w => w.mark true (.s sd.toNat))).hold c (.mwait sd.toNat n.toNat)))

/-- Waiting MWAITs of a warp whose batch is now complete end (R335, R349). -/
def State.mwaitWake (s : State) (w : Nat) : State :=
  (List.range 4).foldl (fun s sp =>
    match s.waiting w sp with
    | some c => match c.split.wait with
      | .mwait sd n =>
        let d := (c.warp.nb - BitVec.ofNat 8 n).toNat
        if c.warp.batchDone d then s.mwaitEnd c sd d else s
      | _ => s
    | none => s) s

/-- What a batch has gathered so far: the buffers of the group, flags on account of undefined results, CHKMIS, the first poison, draws
made. -/
structure Gather where
  group : Group
  flags : Flags
  chk   : Bool
  pois  : Option Nat
  draws : Nat
deriving DecidableEq, Repr

/-- Flags by element, joined. -/
def orFlags (a b : List Flags) : List Flags := if a = [] then b else (a.zip b).map (fun e => e.1 ||| e.2)

/-- The next n steps of an operation in order (R154, R346): what they gather, the operation after them, and the C tile that they leave. -/
def Gather.goOn (a : Gather) (mag : Nat → Nat) (o : MatOp) (n : Nat) : Gather × MatOp × List (Nat × Bool) :=
  let m := MatRec.read o.bytes
  let r := (List.range n).foldl (fun (acc : Gather × List Flags × List (Nat × Bool)) i =>
    let k := m.step (o.ran + i)
    let t := o.stepTile acc.1.group mag k acc.2.2
    let g := acc.1.group.putTile m.coff acc.2.2
    ({ acc.1 with chk := acc.1.chk || t.2.2, pois := acc.1.pois.or (o.stepPoison g k) }, orFlags acc.2.1 t.2.1, t.1))
    (a, o.flags, a.group.tile m.coff)
  (r.1, { o with ran := o.ran + n, flags := r.2.1 }, r.2.2)

/-- The next step of an operation that is not its last. -/
def Gather.one (a : Gather) (mag : Nat → Nat) (o : MatOp) : Gather × MatOp :=
  let r := a.goOn mag o 1
  ({ r.1 with group := r.1.group.putTile (MatRec.read o.bytes).coff r.2.2 }, r.2.1)

/-- An operation of a batch performed to its end: the steps still to make, then its undefined results (R84, R119, R142, R399), whose flags
are open, but for those of R399 (R9). -/
def Gather.run (a : Gather) (mag : Nat → Nat) (o : MatOp) : Gather × MatOp :=
  let m := MatRec.read o.bytes
  let r := a.goOn mag o (o.steps - o.ran)
  ({ r.1 with
    group := r.1.group.putTile m.coff (o.scramble a.draws m.coff r.2.2)
    flags := r.1.flags ||| (if o.opens then (Config.freeValue (a.draws + 1)).truncate 5 else 0)
    draws := a.draws + 2 },
   { r.2.1 with undefRows := 0, undefCols := 0, undefWords := [], loose := 0
                flags := r.2.1.flags.zipIdx.map (fun e => if o.undefAt m.coff e.2 then 0 else e.1) })

/-- Operations performed in order: what they gather, and each as it is then. -/
def Gather.runAll (a : Gather) (mag : Nat → Nat) (l : List MatOp) : Gather × List MatOp :=
  l.foldl (fun (acc : Gather × List MatOp) o => let r := acc.1.run mag o; (r.1, acc.2 ++ [r.2])) (a, [])

/-- A batch takes what was gathered since. -/
def Batch.take (b : Batch) (r : Gather) : Batch :=
  { b with chkmis := b.chkmis || r.chk, poison := b.poison.or r.pois, flags := b.flags ||| r.flags }

/-- The oldest operation of the warp that the matrix unit has not finished (R344): the place of its batch, none for the open set. -/
def Warp.oldestOp (w : Warp) : Option (Option Nat × MatOp) :=
  match w.batches.findIdx? (fun b => !b.ops.isEmpty) with
  | some i => (((w.batches.map (fun b => b.ops)).getD i []).head?).map (fun o => (some i, o))
  | none => w.openSet.head?.map (fun o => (none, o))

/-- The warp after a step of its oldest operation (R344): o is the operation as the step leaves it, which may have finished it. -/
def Warp.stepped (w : Warp) (i : Option Nat) (o : MatOp) (r : Gather) : Warp :=
  let left := if o.steps ≤ o.ran then [] else [o]
  let past := if o.steps ≤ o.ran then [o] else []
  match i with
  | some n => { w with batches := w.batches.modify n (fun b => { (b.take r) with ops := left ++ b.ops.drop 1, past := b.past ++ past }) }
  | none =>
    let p := w.partBatch.take r
    { w with
      openSet := left ++ w.openSet.drop 1
      part := some { p with past := p.past ++ past, regs := p.regs ||| boundOf past } }

/-- One more step of the warp's oldest operation in the matrix unit, which interleaves the operations of the core's warps (R344). -/
def State.matrixStep (s : State) (w : Nat) : State :=
  match s.cxOf w 0 with
  | none => s
  | some c => match c.warp.oldestOp with
    | none => s
    | some (i, o) =>
      let a : Gather := ⟨c.group, 0, false, none, s.free⟩
      let r := if o.steps ≤ o.ran + 1 then a.run c.ctx.cbEntry o else a.one c.ctx.cbEntry o
      let s := { (s.setGroup c.gid (fun _ => r.1.group)) with free := r.1.draws }
      s.setWarp w (fun x => x.stepped i r.2 r.1)

/-- BATCH_COMPLETE (R347, R154): the oldest batch not complete writes C, as far as its steps have not done so, and gathers its flags. -/
def execBatchComplete (w : Nat) (s : State) : Out :=
  match s.cxOf w 0 with
  | none => .next s
  | some c =>
    match c.warp.batches.findIdx? (fun b => !b.done) with
    | none => .next s
    | some i =>
      let b := c.warp.batches.getD i ⟨0, [], [], 0, true, false, none, 0, true⟩
      let r := Gather.runAll ⟨c.group, 0, false, none, s.free⟩ c.ctx.cbEntry b.ops
      let s := { (s.setGroup c.gid (fun _ => r.1.group)) with free := r.1.draws }
      let e : Batch := { (b.take r.1) with ops := [], past := b.past ++ r.2, done := true }
      let s := s.setWarp w (fun x => { x with batches := lset x.batches i e })
      .next (s.mwaitWake w)

end Sys2Proof.Machine
end

