-- ==== Sys2Proof/Machine/Handles.lean ====
section
/-! DEFINITION. Handles: SEAL and HFREE with the checks of the four kinds of record (major 0x30, funcs 0 and 1; R337 to R340,
R351, R354, R361). -/

namespace Sys2Proof.Machine

/-- An FP32 bit pattern is finite. -/
def finite32 (x : Nat) : Bool := (fp32.decode x).isFinite

/-- Bits lo to lo + n − 1 of a record. -/
def recBits (l : List Byte) (lo n : Nat) : Nat := bits (leAt l (lo / 8) (ceilDiv (lo % 8 + n) 8)) (lo % 8) n

/-- A reserved field of a record: where it is reported, and whether it is zero. -/
def recZero (l : List Byte) (lo n : Nat) : Nat × Bool := (lo / 8, recBits l lo n == 0)

/-- Bytes from one offset to the next are zero: a reserved field. -/
def recTail (l : List Byte) (o stop : Nat) : Nat × Bool := (o, ((l.drop o).take (stop - o)).all (fun b => b == 0))

/-- Bytes of an output row of SUFX (R351). -/
def rowSize : Nat → Nat
  | 0 => 256 | 1 => 128 | 5 => 32 | _ => 64

/-- The format pairing of a matrix record (R340). -/
def pairOk (a b : Nat) : Bool :=
  (a == 1 && b == 1) || (decide (2 ≤ a) && decide (a ≤ 4) && decide (2 ≤ b) && decide (b ≤ 4)) || (a == 5 && (b == 5 || b == 7))

/-- The fields of a matrix record in order: byte reported, and whether the field passes (R340). -/
def matFields (l : List Byte) : List (Nat × Bool) :=
  let m := MatRec.read l
  let low := fun (o : Nat) => recBits l (8 * o) 18
  [(0, decide (1 ≤ m.afmt) && decide (m.afmt ≤ 5)), (1, pairOk m.afmt m.bfmt), recZero l 15 17,
   (4, low 4 % 64 == 0 && (m.asrc || low 4 == 0)), recZero l 50 14,
   (8, low 8 % 16 == 0 && (m.afmt != 1 || low 8 == 0)), recZero l 82 14,
   (12, low 12 % 64 == 0), recZero l 114 14,
   (16, low 16 % 16 == 0 && (m.afmt != 1 || low 16 == 0)), recZero l 146 14,
   (20, low 20 % 16 == 0 && (m.sparse || low 20 == 0)), recZero l 178 14,
   (24, recBits l 192 17 % 1024 == 0 && decide (recBits l 192 17 ≤ 81920)), recZero l 209 15, recTail l 28 64]

/-- The fields of a suffix block (R351). -/
def sufFields (l : List Byte) : List (Nat × Bool) :=
  let f := recBits l 4 4
  let mx := decide (2 ≤ f) && decide (f ≤ 5)
  [(0, decide (f ≤ 6)), (1, !mx || recBits l 11 1 == 0), (1, !mx || recBits l 12 2 == 0), recZero l 14 18,
   (4, recBits l 32 17 % 1024 == 0 && decide (recBits l 32 17 ≤ 81920)), recZero l 49 15,
   (8, finite32 (leAt l 8 4)),
   (12, leAt l 12 4 % 16 == 0 && decide (rowSize f ≤ leAt l 12 4) && decide (leAt l 12 4 < 2 ^ 24)),
   (16, recBits l 128 57 % 16 == 0), recZero l 185 7,
   (24, mx || recBits l 192 57 == 0), recZero l 249 7, recTail l 32 64]

/-- The fields of an attention record (R354). -/
def attnFields (l : List Byte) : List (Nat × Bool) :=
  [recZero l 7 1, recZero l 13 3, (4, recBits l 32 18 % 16 == 0), recZero l 50 14,
   (8, recBits l 64 17 % 1024 == 0), recZero l 81 15, (12, finite32 (leAt l 12 4)),
   (16, recBits l 128 57 % 128 == 0), recZero l 185 7, (24, recBits l 192 57 % 64 == 0), recZero l 249 7,
   (32, recBits l 256 57 % 16 == 0), recZero l 313 7,
   (40, decide (1 ≤ recBits l 320 9) && decide (recBits l 320 9 ≤ 256)), recZero l 329 7, recTail l 42 64]

/-- The fields of a contraction record (R361). -/
def conFields (l : List Byte) : List (Nat × Bool) :=
  let addr := fun (o k : Nat) => [(o, recBits l (8 * o) 57 % k == 0), recZero l (8 * o + 57) 7]
  [(0, decide (recBits l 4 2 ≤ 2)), recZero l 6 2, (1, decide (1 ≤ recBits l 8 6) && decide (recBits l 8 6 ≤ 32)),
   recZero l 14 2, (2, decide (2 ≤ recBits l 16 13) && decide (recBits l 16 13 ≤ 4096)), recZero l 29 3,
   (4, decide (recBits l 32 13 ≤ 4096)), recZero l 45 19]
   ++ addr 8 16 ++ addr 16 16 ++ addr 24 2 ++ addr 32 16 ++ addr 40 16 ++ addr 48 2 ++ addr 56 128 ++ addr 64 128
   ++ [recTail l 72 128]

/-- Bytes of a record of a kind; only the kind's own word is read of a kind that there is not (R338). -/
def recLen : Nat → Nat
  | 1 => 64 | 2 => 320 | 3 => 64 | 4 => 128 | _ => 4

/-- SEAL's status: 0, or 1 + the byte of the first failing field (R338). -/
def sealStatus (l : List Byte) : Nat :=
  let fs : List (Nat × Bool) := match leAt l 0 1 % 16 with
    | 1 => matFields l
    | 2 => sufFields l
    | 3 => attnFields l
    | 4 => conFields l
    | _ => [(0, false)]
  match fs.find? (fun f => !f.2) with
  | some f => 1 + f.1
  | none => 0

/-- SEAL (R338): a fault parks the warp, a poisoned word raises POISON, any other record gives a handle and a status. -/
def execSeal (h : BitVec 4) (q : BitVec 4) (n : BitVec 4) (s : State) : Out :=
  issue s (fun c => once (q.toNat % 2 == 0) accNoMod c [qref q.toNat] [.h h.toNat, .s n.toNat]) (fun c =>
    let va := c.qaddr q.toNat
    if va % 64 ≠ 0 then .next (s.trap c .misalign c.split.mask va)
    else match s.readVa c 9 none va 4 with
      | .error t => .next t
      | .ok k =>
        match s.readVa c 9 none va (recLen (leAt k.2.1 0 1 % 16)) with
        | .error t => .next t
        | .ok (s1, l, bad) =>
          match bad with
          | some a => .next (s1.trap c .poison c.split.mask a)
          | none =>
            let st := sealStatus l
            let x : Handle := if st = 0 then ⟨.valid, l⟩ else ⟨.invalid, []⟩
            .next (s1.later c [.h h.toNat, .s n.toNat] [.h h.toNat x, .s n.toNat (BitVec.ofNat 32 st) false] 0))

/-- HFREE (R339). -/
def execHfree (h : BitVec 4) (s : State) : Out :=
  issue s (fun c => once true accNoMod c [] [.h h.toNat]) (fun c => .next (s.now c [.h h.toNat Handle.none]))

end Sys2Proof.Machine
end

