-- ==== Sys2Proof/Machine/Suffix.lean ====
section
/-! DEFINITION. The suffix pipe: SUFX (major 0x30, func 7; R351 to R353). -/

namespace Sys2Proof.Machine

/-- An FP32 value in a chain of operations with the flags raised so far. -/
abbrev FV := Nat × Flags

/-- A rounded operation of two values in a chain (R352). -/
def FV.op (f : Nat → Nat → Nat × Flags) (a b : FV) : FV :=
  let r := f a.1 b.1
  (r.1, a.2 ||| b.2 ||| r.2)

/-- F(2^x) in a chain. -/
def FV.exp2 (a : FV) : FV :=
  let r := f32fn .exp2 a.1
  (r.1, a.2 ||| r.2)

/-- An FP32 value turned about in sign. -/
def FV.neg (a : FV) : FV := (a.1 ^^^ 0x80000000, a.2)

/-- The constants F(√(2/π)), F(0.044715), F(2 log2 e) and F(log2 e) (R352). -/
def sufK : Nat → FV
  | 0 => (0x3F4C422A, 0) | 1 => (0x3D372713, 0) | 2 => (0x4038AA3B, 0) | _ => (0x3FB8AA3B, 0)

/-- The activation of an element (R352). -/
def activate (act : Nat) (x : FV) : FV :=
  let one : FV := (0x3F800000, 0)
  let two : FV := (0x40000000, 0)
  let half : FV := (0x3F000000, 0)
  match act with
  | 1 =>
    match fp32.decode x.1 with
    | .nan _ _ => x
    | v => if cmpNum v (.fin false 0 0 false) = 1 then x else (0, x.2)
  | 2 =>
    let a := FV.op f32mul (FV.op f32mul (FV.op f32mul x x) x) (sufK 1)
    let u := FV.op f32mul (FV.op f32add x a) (sufK 0)
    let e := (FV.op f32mul u (sufK 2)).exp2
    let t := FV.op f32sub one (FV.op f32div two (FV.op f32add e one))
    FV.op f32mul (FV.op f32mul half x) (FV.op f32add one t)
  | 3 => FV.op f32div x (FV.op f32add one (FV.op f32mul x.neg (sufK 3)).exp2)
  | _ => x

/-- Fields of a suffix block (R351). -/
structure SufRec where
  ofmt  : Nat
  act   : Nat
  bias  : Bool
  sat   : Bool
  rm    : Nat
  coff  : Nat
  scale : Nat
  stride : Nat
  out   : Nat
  oscale : Nat
deriving DecidableEq, Repr

/-- The fields of a suffix block's bytes. -/
def SufRec.read (l : List Byte) : SufRec :=
  { ofmt := recBits l 4 4, act := recBits l 8 2, bias := recBits l 10 1 == 1, sat := recBits l 11 1 == 1, rm := recBits l 12 2,
    coff := recBits l 32 17, scale := leAt l 8 4, stride := leAt l 12 4, out := recBits l 128 57, oscale := recBits l 192 57 }

/-- The output format is block-scaled. -/
def SufRec.mx (r : SufRec) : Bool := decide (2 ≤ r.ofmt) && decide (r.ofmt ≤ 5)

/-- Element n of a row from its C word (R352). -/
def SufRec.elem (r : SufRec) (l : List Byte) (n c : Nat) : FV :=
  let x := FV.op f32mul (c, 0) (r.scale, 0)
  activate r.act (if r.bias then FV.op f32add x (leAt l (64 + 4 * n) 4, 0) else x)

/-- Elements packed in an output row (R351). -/
def packRow (fmt : Nat) (l : List Nat) : List Byte :=
  if fmt = 5 then toBytes (l.foldr (fun x a => x % 16 + 16 * a) 0) (l.length / 2)
  else l.flatMap (fun x => toBytes x (match fmt with | 0 => 4 | 1 => 2 | _ => 1))

/-- One block of 32 output values: its scale, elements and flags (R352). -/
def sufBlock (fmt : Nat) (l : List Nat) : Nat × List Nat × Flags :=
  let v := l.map (fun x => fp32.decode x)
  if v.all Num.isFinite then mxQuant fmt v else (255, List.replicate 32 0, flagIV)

/-- An output row: its bytes, its two scale bytes, its flags (R352). -/
def SufRec.row (r : SufRec) (l : List Byte) (c : List Nat) : List Byte × List Byte × Flags :=
  let y := ((List.range 64).zip c).map (fun x => r.elem l x.1 x.2)
  let f := y.foldl (fun f x => f ||| x.2) 0
  if r.mx then
    let b0 := sufBlock r.ofmt ((y.take 32).map (fun x => x.1))
    let b1 := sufBlock r.ofmt ((y.drop 32).map (fun x => x.1))
    (packRow r.ofmt (b0.2.1 ++ b1.2.1), [BitVec.ofNat 8 b0.1, BitVec.ofNat 8 b1.1], f ||| b0.2.2 ||| b1.2.2)
  else
    let o := y.map (fun x => convert 0 r.ofmt false false r.rm r.sat x.1)
    (packRow r.ofmt (o.map (fun x => x.1)), [], o.foldl (fun f x => f ||| x.2) f)

/-- The captured C tile of a SUFX: the words of a batch not yet waited for are free values (R84, R353). -/
def State.captureTile (s : State) (c : Cx) (coff : Nat) : State × List (Word × Bool) :=
  let t := (c.group.tile coff).map (fun x => (BitVec.ofNat 32 x.1, x.2))
  if s.cPending c.gid coff 16384 then
    let d := s.free
    ({ s with free := s.free + 1 }, ((List.range 4096).zip t).map (fun x =>
      if s.cPending c.gid (coff + 4 * x.1) 4 then (Config.freeElem d x.1, false) else x.2))
  else (s, t)

/-- Where output row r and its scales go, or its fault (R353). -/
def State.sufPieces (s : State) (c : Cx) (r : SufRec) (i : Nat) : Except (WalkFault × Nat) (List Piece × List Piece) :=
  match s.pieces c.die c.grid.ctx .store (r.out + i * r.stride) (rowSize r.ofmt) with
  | .error e => .error e
  | .ok a =>
    if r.mx then
      match s.pieces c.die c.grid.ctx .store (r.oscale + 2 * i) 2 with
      | .error e => .error e
      | .ok b => .ok (a, b)
    else .ok (a, [])

/-- SUFX (R351 to R353): the rows that translate are issued, each after the warp's older accesses to its bytes (R108, R121); a fault
parks the warp with the tile kept. -/
def execSufx (h : BitVec 4) (s : State) : Out :=
  issue s (fun c => once true accNoMod c [[.h h.toNat]] []) (fun c =>
    match s.record c h.toNat 2 with
    | .error t => .next t
    | .ok rec0 =>
      let kept := if c.warp.replay.isSome then c.warp.sufx else none
      let l := match kept with | some k => k.block | none => rec0
      let r := SufRec.read l
      if c.grid.bufSize 2 < r.coff + 16384 then .next (s.trap c .access c.split.mask r.coff)
      else if c.room .gst 1 = false then .next s
      else
        let t := match kept with | some k => (s, k.tile) | none => s.captureTile c r.coff
        match t.2.findIdx? (fun x => x.2) with
        | some i => .next (t.1.trap c .poison c.split.mask (r.coff + 4 * i))
        | none =>
          let words := t.2.map (fun x => x.1.toNat)
          let rows := (List.range 64).map (fun i => r.row l ((words.drop (64 * i)).take 64))
          let did := match kept with | some k => k.rows | none => 0
          let todo := (List.range 64).filter (fun i => !did.getLsbD i)
          let way := todo.map (fun i => (i, s.sufPieces c r i))
          let ok := way.filterMap (fun x => match x.2 with | .ok p => some (x.1, p) | .error _ => none)
          let faults := way.filterMap (fun x => match x.2 with
            | .error e => some (x.1, e.1.1, e.1.2, e.2)
            | .ok _ => none)
          let puts : List Put := ok.flatMap (fun x =>
            let o := rows.getD x.1 ([], [], 0)
            [(x.2.1, o.1, []), (x.2.2, o.2.1, [])])
          if puts.any (fun p => s.putsAhead c.w s.uid p.1) then .next s
          else
            let w := (t.1.raise c .gst 1).enginePost c.die puts
            let own := if faults = [] ∨ c.ctx.priv then 1 else 0
            let f := if faults = [] then rows.foldl (fun f x => f ||| x.2.2) 0 else 0
            let s1 := if ok = [] then w.1 else (w.1.begin c [] (some (.gst, own)) (.engine w.2.1 w.2.2 f)).1
            if faults ≠ [] then
              let s2 := s1.onWarp c (fun x => { x with
                sufx := if c.ctx.priv then none else some ⟨did ||| maskOf (ok.map (fun x => x.1)), l, t.2⟩ })
              .next (s2.parkOn c 6 faults c.split.mask (if ok ≠ [] ∧ c.ctx.priv then none else some (.gst, 1)) (faultVa faults))
            else .next ((s1.onWarp c (fun x => { x with sufx := none })).advance c))

end Sys2Proof.Machine
end

