-- ==== Sys2Proof/Machine/Attention.lean ====
section
/-! DEFINITION. ATTN and SELPG: their checks at issue, and their work when it is done (major 0x30, funcs 8 and 9; R171, R181 to
R190, R198 to R200, R354 to R356). -/

namespace Sys2Proof.Machine

/-! ### Engine instructions -/

/-- What ends the work of an engine instruction early: a trap with INFO, or a fault with its kind and page. -/
inductive EngStop where
  | trap (code : TrapCode) (info : Nat)
  | park (kind : Nat) (code : FaultCode) (malformed : Bool) (page : Nat)
deriving DecidableEq, Repr

/-- A stop of the arena as an engine instruction meets it (R165, R173, R178). -/
def KvStop.eng : KvStop → EngStop
  | .access i => .trap .access i
  | .arena g far => .park 7 .kvArena false (g + field (b2n far) 32 1)

/-- The work operation leaves: its reader is uncounted and its registers are full; its counter raise stays (R91, R200). -/
def State.endWork (s : State) (o : Op) : State :=
  let s := { s with ops := s.ops.filter (fun x => x.id != o.id) }
  let s := s.setWarp o.warp (fun x => x.markAll false o.full)
  match o.kind with
  | .work _ _ p => s.readerOut o.die p
  | _ => s

/-- The instruction at work stops (R66, R69): a trap drops its work with the warp's, a fault keeps its counter raise and the record that
it read (R171). -/
def State.engStop (s : State) (o : Op) (c : Cx) (recd : List Byte) (e : EngStop) : State :=
  match e with
  | .trap code info => (s.unhold c).trap c code c.split.mask info
  | .park kind code mal page =>
    ((((s.endWork o).renumber o.id c.w).unhold c).onWarp c (fun w => { w with kept := recd })).parkOn c kind [(lowLane c.split.mask, code, mal, page)]
      c.split.mask o.path (fun _ => page)

/-- The instruction at work is done (R335): its register written, its reader uncounted, its writes posted and counted until
performed, and its split goes on. -/
def State.engDone (s : State) (o : Op) (regs : List RegWrite) (puts : List Put) (f : Flags) : State :=
  let s := match o.kind with | .work _ _ p => s.readerOut o.die p | _ => s
  let w := s.enginePost o.die puts
  let s := { w.1 with ops := w.1.ops.map (fun (x : Op) => if x.id = o.id then { x with full := [], kind := .engine w.2.1 w.2.2 f } else x) }
  let s := s.readKv o.die o.id w.2.2
  s.setWarp o.warp (fun x => ((x.writeAll (s.widthOf o.warp) regs).markAll false o.full).release o.id)

/-- Pieces that an engine instruction at work reads or writes meet an older access of its warp that must come first (R108, R121), or what it
reads cannot be served now (R466, R485). -/
def State.engWaits (s : State) (o : Op) (reads : List (List Piece)) (puts : List (List Piece)) : Bool :=
  reads.any (fun l => s.ownOlder o.warp o.id l || s.piecesHeld o.die l) || puts.any (fun l => s.putsAhead o.warp o.id l)

/-- An engine instruction at work reads pieces and goes on; what lies in host memory is asked for first, and an abort of the host's raises
PEER as for a load (R121, R124, R447). -/
def State.engReads (s : State) (o : Op) (c : Cx) (recd : List Byte) (reads : List (List Piece)) (go : State → State) : State :=
  match s.askFor o.id (reads.flatMap plainPieces) with
  | .wait t => t
  | .abort t => t.engStop o c recd (.trap .peer ((reads.flatten.head?.map (fun p => p.va)).getD 0))
  | .ready t => go t

/-- The sentence record that a replayed instruction keeps from its first reading, if it is one (R171). -/
def Cx.keptRec (c : Cx) : List Byte := if c.warp.replay.isSome then c.warp.kept else []

/-- The sentence record at a virtual address as an instruction that counts on a path reads it (R170, R171), as a device-scope acquire: where
there is an earlier reading only ARRAY is read again, and every other field stands. -/
def State.readSent (s : State) (c : Cx) (path : Option Path) (va : Nat) (old : List Byte) : Except State (State × List Byte) :=
  match s.readVa c 9 path va (if old = [] then 128 else 16) with
  | .error t => .error t
  | .ok (s1, l, bad) =>
    match bad with
    | some a => .error (s1.trap c .poison c.split.mask a)
    | none =>
      let l := l ++ old.drop 16
      if sentValid l then .ok (s1.applyAll c.die, l) else .error (s1.trap c .access c.split.mask va)

/-- A fault at issue after the record was read: the record is kept for the replay (R171). -/
def State.parkSent (s : State) (c : Cx) (l : List Byte) (kind : Nat) (e : WalkFault × Nat) : State :=
  (s.onWarp c (fun w => { w with kept := l })).parkCounted c (some .gst) kind e

/-- n bytes read for such an instruction at its issue after its record: where it parks, the record is kept (R171). -/
def State.readKept (s : State) (c : Cx) (l : List Byte) (va n : Nat) : Except State (State × List Byte × Option Nat) :=
  match s.pieces c.die c.grid.ctx .load va n with
  | .error e => .error (s.parkSent c l 0 e)
  | .ok ps => s.takeIn c ps

/-- Fields of an attention record (R354). -/
structure AttnRec where
  layer : Nat
  head  : Nat
  qmask : Nat
  qoff  : Nat
  caoff : Nat
  score : Nat
  recd  : Nat
  list  : Nat
  out   : Nat
  ksel  : Nat
deriving DecidableEq, Repr

/-- The fields of an attention record's bytes. -/
def AttnRec.read (l : List Byte) : AttnRec :=
  { layer := recBits l 4 3, head := recBits l 8 5, qmask := recBits l 16 16, qoff := recBits l 32 18, caoff := recBits l 64 17,
    score := leAt l 12 4, recd := recBits l 128 57, list := recBits l 192 57, out := recBits l 256 57, ksel := recBits l 320 9 }

/-- Bytes as numbers, and back: what a work operation carries. -/
def nats (l : List Byte) : List Nat := l.map (fun b => b.toNat)
def bytesOf (l : List Nat) : List Byte := l.map (fun n => BitVec.ofNat 8 n)

/-- A work operation issues: its counter is raised, its registers are empty, its split holds, and a frame reader counts
itself (R200, R335); the record that a replay had kept is now among its operands. -/
def State.startWork (s : State) (c : Cx) (full : List RegRef) (func : Nat) (args : List Nat) (reader : Bool) : State :=
  let s := (s.raise c .gst 1).onWarp c (fun w => { w with kept := [] })
  let r := if reader then s.readerIn c.die else (s, 2)
  let b := (r.1.renumber c.w r.1.uid).begin c full (some (.gst, 1)) (.work func args r.2)
  b.1.holdFor c b.2

/-- Steps 1 and 2 of R355 with the handle check: the record, the sentence record's bytes. -/
def State.attnOpen (s : State) (c : Cx) (h : Nat) (old : List Byte) : Except State (State × List Byte × List Byte) :=
  match s.record c h 3 with
  | .error t => .error t
  | .ok a =>
    let r := AttnRec.read a
    match s.readSent c (some .gst) r.recd old with
    | .error t => .error t
    | .ok (s1, l) =>
      let q := SentRec.read l
      if q.lm1 < r.layer ∨ q.h ≤ r.head then .error (s1.trap c .access c.split.mask r.recd)
      else .ok (s1, a, l)

/-! ### Scores and the soft-maximum (R186, R187) -/

/-- LSZ[n] (R186). -/
def lsz (n : Nat) : Nat := (roundNum fp32 rne (mathNum .log2 (intNum n))).1

/-- The elements of one token's row of a frame: layer, key or value, head, token (R166). -/
def frameRow (read : Nat → Byte) (q : SentRec) (frame stage l kv h t : Nat) : List (List Num) :=
  let b := elemIndex q l kv h t 0 / 32
  (List.range (q.d / 32)).map (fun k => frameBlock read frame q.elems stage (b + k))

/-- A score in base-2 units with the flags raised (R186). -/
def attnScore (query : List (List Num)) (key : List (List Num)) (c size : Nat) : FV :=
  let s := (query.zip key).foldl (fun (a : FV) x =>
    let r := accGroup a.1 (groupSum (x.1.zip x.2))
    (r.1, a.2 ||| r.2)) (0, 0)
  FV.op f32add (FV.op f32mul s (c, 0)) (lsz size, 0)

/-- A head's running state: maximum, sum, output, and whether a token has been counted. -/
structure HeadSt where
  m : Nat
  l : Nat
  o : List Nat
deriving DecidableEq, Repr

/-- −Inf in FP32. -/
def negInf : Nat := 0xFF800000

/-- FP32 x > y. -/
def f32gt (x y : Nat) : Bool := (compareNum .lt (fp32.decode y) (fp32.decode x)).1

/-- e × v + o with the product and the sum rounded as one exact value (R187). -/
def fmaRound (o e : Nat) (v : Num) : Nat × Flags := roundNum fp32 rne (fmaNum rne (fp32.decode e) v (fp32.decode o))

/-- One counted token of a head (R187). -/
def HeadSt.token (h : HeadSt) (z : FV) (v : List Num) : HeadSt × Flags :=
  if z.1 = negInf then (h, z.2)
  else
    let r : HeadSt × Flags :=
      if f32gt z.1 h.m then
        let a := FV.exp2 (FV.op f32sub (h.m, 0) (z.1, 0))
        let l := f32mul h.l a.1
        let o := h.o.map (fun x => f32mul x a.1)
        (⟨z.1, l.1, o.map (fun x => x.1)⟩, a.2 ||| l.2 ||| o.foldl (fun f x => f ||| x.2) 0)
      else (h, 0)
    let e := FV.exp2 (FV.op f32sub (z.1, 0) (r.1.m, 0))
    let l := f32add r.1.l e.1
    let o := (r.1.o.zip v).map (fun x => fmaRound x.1 e.1 x.2)
    (⟨r.1.m, l.1, o.map (fun x => x.1)⟩, z.2 ||| r.2 ||| e.2 ||| l.2 ||| o.foldl (fun f x => f ||| x.2) 0)

/-! ### ATTN at work (R185 to R190) -/

/-- Where an ATTN stands: list position, LEN and c of the first attempt, whether a token was counted, its heads, the scores of
its pages, and its flags. -/
structure AttnSt where
  pos   : Nat
  len   : Nat
  c     : Nat
  any   : Bool
  heads : List HeadSt
  z     : List (List (List Word))
  flags : Flags
deriving DecidableEq, Repr

/-- m, l and o of each head, as the progress block holds them from its byte 64 on (R355, R373). -/
def AttnSt.rows (a : AttnSt) : List Byte :=
  a.heads.flatMap (fun h => toBytes h.m 4 ++ toBytes h.l 4 ++ h.o.flatMap (fun x => toBytes x 4))

/-- The progress block (R190), in this model's layout (assumption 22): NEXT, LEN, c, counted, flags; then m, l and o of each
head. -/
def AttnSt.bytes (a : AttnSt) : List Byte :=
  toBytes a.pos 4 ++ toBytes a.len 4 ++ toBytes a.c 4 ++ toBytes (b2n a.any) 4 ++ toBytes a.flags.toNat 4 ++ List.replicate 44 0
    ++ a.rows

/-- The progress block read back for g heads of width d. -/
def AttnSt.read (l : List Byte) (g d : Nat) (z : List (List (List Word))) : AttnSt :=
  { pos := leAt l 0 4, len := leAt l 4 4, c := leAt l 8 4, any := leAt l 12 4 != 0, flags := BitVec.ofNat 5 (leAt l 16 4), z := z
    heads := (List.range g).map (fun j =>
      let o := 64 + j * (8 + 4 * d)
      ⟨leAt l o 4, leAt l (o + 4) 4, (List.range d).map (fun k => leAt l (o + 8 + 4 * k) 4)⟩) }

/-- The first attempt (R187). -/
def AttnSt.start (q : SentRec) (a : AttnRec) : AttnSt :=
  ⟨0, q.len, a.score, false, List.replicate q.g ⟨negInf, 0, List.replicate q.d 0⟩, [], 0⟩

/-- Bytes of ATTN's progress block (R355). -/
def progSize (q : SentRec) : Nat := 64 + q.g * (8 + 4 * q.d)

/-- A page list's first offending position (R185). -/
def listOffence (l : List Nat) : Option Nat :=
  (List.range l.length).find? (fun i => decide (0 < i) && decide (l.getD i 0 ≤ l.getD (i - 1) 0))

/-- 16-bit entries of a page list. -/
def listOf (l : List Byte) (n : Nat) : List Nat := (List.range n).map (fun i => leAt l (2 * i) 2)

/-- The ATTN that the split has begun and not completed, if it stands at it (R190). -/
def Cx.begun (c : Cx) : Option AttnAt :=
  match tfind c.warp.attnZ c.sp with
  | some e => if e.pc = c.split.pc then some e else none
  | none => none

/-- Progress committed to the C-buffer, with the scores that it has no place for (R189, R190). -/
def State.commit (s : State) (c : Cx) (caoff : Nat) (recd : List Byte) (st : AttnSt) : State :=
  (s.bufWrite c.gid 2 caoff st.bytes false).onWarp c (fun w => { w with
    attnZ := tput w.attnZ c.sp ⟨c.split.pc, caoff, st.bytes.length, recd, st.z⟩ })

/-- ATTN (R355): its checks and its page list; a first attempt commits where it starts, and another goes on from NEXT (R190). -/
def execAttn (h : BitVec 4) (n : BitVec 4) (s : State) : Out :=
  issue s (fun c => once true accNoMod c [[.h h.toNat], sref n.toNat] []) (fun c =>
    if c.room .gst 1 = false then .next s
    else match s.attnOpen c h.toNat ((c.begun.map (fun e => e.recd)).getD c.keptRec) with
      | .error t => .next t
      | .ok (s1, a, l) =>
        let r := AttnRec.read a
        let q := SentRec.read l
        let len := (c.warp.sreg n.toNat).toNat
        let stop := fun (code : TrapCode) (i : Nat) => Host.Outcome.next (s1.trap c code c.split.mask i)
        if len = 0 ∨ 256 < len then stop .access len
        else if c.grid.bufSize 0 < r.qoff + 2 * q.d * q.g then stop .access r.qoff
        else if c.grid.bufSize 2 < r.caoff + progSize q then stop .access r.caoff
        else match s1.pieces c.die c.grid.ctx .load r.list (2 * len) with
          | .error e => .next (s1.parkSent c l 0 e)
          | .ok ps =>
            match s1.pieces c.die c.grid.ctx .store r.out (4 * q.g * q.d) with
            | .error e => .next (s1.parkSent c l 6 e)
            | .ok _ => match s1.takeIn c ps with
              | .error t => .next t
              | .ok rd =>
                let list := listOf rd.2.1 len
                match rd.2.2.or (c.group.firstPoison 0 r.qoff (2 * q.d * q.g)), listOffence list with
                | some x, _ => stop .poison x
                | none, some i => stop .access i
                | none, none =>
                  let s2 := if c.begun.isSome then rd.1 else rd.1.commit c r.caoff l (AttnSt.start q r)
                  .next (s2.startWork c [] 0 (nats a ++ nats l ++ list) true))

/-- The query of head i of an ATTN or SELPG: D BF16 elements of the A-buffer in groups of 32 (R182, R186, R354). -/
def queryOf (g : Group) (q : SentRec) (qoff i : Nat) : List (List Num) :=
  (List.range (q.d / 32)).map (fun k => (List.range 32).map (fun e =>
    bf16.decode (leAt (g.bytes 0 (qoff + 2 * q.d * i + 2 * (32 * k + e)) 2) 0 2)))

/-- The counted tokens of a page: offset, size, key row, value row (R186). -/
def countedTokens (read : Nat → Byte) (q : SentRec) (a : AttnRec) (len idx frame stage : Nat) :
    List (Nat × List (List Num) × List Num) :=
  ((List.range 64).filter (fun t => decide (64 * idx + t < len) && tokSize read frame t != 0)).map (fun t =>
    (tokSize read frame t, frameRow read q frame stage a.layer 0 a.head t, (frameRow read q frame stage a.layer 1 a.head t).flatten))

/-- A poisoned slot word among those that resolving slot i reads: its address (R336). -/
def State.slotPoison (s : State) (d ctx : Nat) (q : SentRec) (i : Nat) : Option Nat :=
  match slotPlace q i with
  | .error _ => none
  | .ok p => match slotAddr (s.ctx ctx) p.1 i with
    | .error _ => none
    | .ok a => (s.poisonWord a 16).or (if (Slot.read (s.view d a 16)).forwarded then
        (match slotAddr (s.ctx ctx) q.slots i with | .ok a' => s.poisonWord a' 16 | .error _ => none) else none)

/-- A slot word as an engine instruction reads it (R173, R178, R336): its array's base and log2, and the word. -/
def State.engSlot (s : State) (d ctx : Nat) (q : SentRec) (i : Nat) : Except EngStop (Nat × Nat × Slot) :=
  match s.slotPoison d ctx q i with
  | some x => .error (.trap .poison x)
  | none => match readSlot (s.ctx ctx) (fun x => s.view d x 16) q i with
    | .error e => .error e.eng
    | .ok x => .ok x

/-- One page of the list (R185 to R187). -/
def State.attnPage (s : State) (d ctx : Nat) (q : SentRec) (a : AttnRec) (queries : List (List (List Num))) (st : AttnSt)
    (idx : Nat) : Except EngStop AttnSt :=
  match s.engSlot d ctx q idx with
  | .error e => .error e
  | .ok (_, _, w) =>
    if !w.present then .error (.trap .access idx)
    else match slotFrame (s.ctx ctx) q w with
      | .error e => .error e.eng
      | .ok f =>
        match s.poisonWord f (4096 * frameGranules q.elems w.stage) with
        | some x => .error (.trap .poison x)
        | none =>
          let ts := countedTokens (fun x => s.viewByte d x) q a st.len idx f w.stage
          let hs := (st.heads.zip queries).map (fun x =>
            ts.foldl (fun (r : HeadSt × Flags × List Word) t =>
              let z := attnScore x.2 t.2.1 st.c t.1
              let h := r.1.token z t.2.2
              (h.1, r.2.1 ||| h.2, r.2.2 ++ [BitVec.ofNat 32 z.1])) (x.1, 0, []))
          .ok { st with
            pos := st.pos + 1
            any := st.any || !ts.isEmpty
            heads := hs.map (fun h => h.1)
            flags := hs.foldl (fun f h => f ||| h.2.1) st.flags
            z := st.z ++ [hs.map (fun h => h.2.2)] }

/-- A finite FP32 value times 2^149. -/
def f32scaled (x : Nat) : Nat :=
  match fp32.decode x with
  | .fin _ m e _ => m <<< (e + 149).toNat
  | _ => 0

/-- A head's part of a page's mass (R189). -/
def HeadSt.share (h : HeadSt) (z : List Word) : Nat :=
  let l := fp32.decode h.l
  if !l.isFinite || l.isZero || !(fp32.decode h.m).isFinite then 0
  else
    let sum := z.foldl (fun n x => n + f32scaled (FV.exp2 (FV.op f32sub (x.toNat, 0) (h.m, 0))).1) 0
    min 65536 (2 ^ 16 * sum / f32scaled h.l)

/-- What ATTN adds to the mass of each page (R189). -/
def AttnSt.masses (a : AttnSt) : List Nat :=
  a.z.map (fun p => ((a.heads.zip p).map (fun x => x.1.share x.2)).foldl (fun n x => n + x) 0)

/-- The output of one head with its flags (R188). -/
def HeadSt.output (h : HeadSt) (any : Bool) : List FV :=
  h.o.map (fun x => if any then f32div x h.l else (0, 0))

/-- The mass additions of a completed ATTN (R189). -/
def State.addMasses (s : State) (d ctx recd : Nat) (q : SentRec) (l : List (Nat × Nat)) : State :=
  l.foldl (fun s x =>
    if x.2 = 0 then s
    else s.slotAtomic d ctx recd q x.1 (fun w => some { w with mass := min (2 ^ 32 - 1) (w.mass + x.2) })) s

/-- ATTN past its last page (R188 to R190): its outputs are issued and its masses added; its progress block then holds each head's final
m, l and o (R373), and what its first 64 bytes hold is not stated, and is free. -/
def State.attnEnd (s : State) (o : Op) (c : Cx) (a : AttnRec) (q : SentRec) (sb : List Byte) (list : List Nat) (st : AttnSt) : State :=
  match s.pieces c.die c.grid.ctx .store a.out (4 * q.g * q.d) with
  | .error e => s.engStop o c sb (.park 6 e.1.1 e.1.2 e.2)
  | .ok out =>
    if s.engWaits o [] [out] then s
    else
      let y := st.heads.flatMap (fun h => h.output st.any)
      let s := s.addMasses c.die c.grid.ctx a.recd q (list.zip st.masses)
      let f := s.freeBytes 64
      let s := (f.1.bufWrite c.gid 2 a.caoff (f.2 ++ st.rows) false).onWarp c (fun w => { w with attnZ := terase w.attnZ c.sp })
      s.engDone o [] [(out, y.flatMap (fun x => toBytes x.1 4), [])] (y.foldl (fun f x => f ||| x.2) st.flags)

/-- ATTN at work: its next page, read after an acquire of its slot word (R198) and committed (R185 to R187, R190), or its end. A poisoned
word of its progress block or of a query, as it reads them, is POISON (R103). -/
def State.attnRun (s : State) (o : Op) (c : Cx) (args : List Nat) : State :=
  let a := AttnRec.read (bytesOf (args.take 64))
  let sb := bytesOf ((args.drop 64).take 128)
  let list := args.drop 192
  let q := SentRec.read sb
  let s := s.applyAll c.die
  let st := AttnSt.read (c.group.bytes 2 a.caoff (progSize q)) q.g q.d ((c.begun.map (fun e => e.z)).getD [])
  match list.drop st.pos with
  | [] =>
    match c.group.firstPoison 2 a.caoff (progSize q) with
    | some x => s.engStop o c sb (.trap .poison x)
    | none => s.attnEnd o c a q sb list st
  | i :: _ =>
    match (c.group.firstPoison 2 a.caoff (progSize q)).or (c.group.firstPoison 0 a.qoff (2 * q.d * q.g)) with
    | some x => s.engStop o c sb (.trap .poison x)
    | none =>
      match s.attnPage c.die c.grid.ctx q a ((List.range q.g).map (fun i => queryOf c.group q a.qoff i)) st i with
      | .error e => s.engStop o c sb e
      | .ok st' => s.commit c a.caoff sb st'

/-! ### SELPG (R181 to R184, R356) -/

/-- SELPG (R356). -/
def execSelpg (h : BitVec 4) (d : BitVec 4) (s : State) : Out :=
  issue s (fun c => once true accNoMod c [[.h h.toNat]] [.s d.toNat]) (fun c =>
    if c.room .gst 1 = false then .next s
    else match s.attnOpen c h.toNat c.keptRec with
      | .error t => .next t
      | .ok (s1, a, l) =>
        let r := AttnRec.read a
        let q := SentRec.read l
        let fail := fun (i : Nat) => Host.Outcome.next (s1.trap c .access c.split.mask i)
        if c.grid.bufSize 0 < r.qoff + 2 * q.d * q.g then fail r.qoff
        else if r.qmask = 0 ∨ 2 ^ q.g ≤ r.qmask then fail r.qmask
        else .next (s1.startWork c [.s d.toNat] 1 (d.toNat :: nats a ++ nats l) true))

/-- Adjacent pairs summed level by level toward +∞ (R182); k bounds the levels. -/
def pairSums : Nat → List FV → List FV
  | 0, l => l
  | k + 1, l =>
    if l.length ≤ 1 then l
    else pairSums k ((List.range (l.length / 2)).map (fun i =>
      let a := l.getD (2 * i) (0, 0)
      let b := l.getD (2 * i + 1) (0, 0)
      let r := roundNum fp32 rup (addNum rup (fp32.decode a.1) (fp32.decode b.1))
      (r.1, a.2 ||| b.2 ||| r.2)))

/-- The larger of two exact values; a NaN wins, and the larger of −0 and +0 is +0 (R182). -/
def maxNum (a b : Num) : Num := if a.isNan then a else if b.isNan then b else if ltSigned a b then b else a

/-- PageBound (R182). -/
def pageBound (q lo hi : List Num) : FV :=
  let b := ((q.zip lo).zip hi).map (fun x =>
    let l := mulNum x.1.1 x.1.2
    let h := mulNum x.1.1 x.2
    let r := roundTo fp32 rup false (maxNum l.1 h.1)
    (r.1, l.2 ||| h.2 ||| r.2))
  ((pairSums 9 b).head?).getD (0, 0)

/-- The score of a page: the largest bound over the named heads, NaN if any is (R182). -/
def pageScore (l : List FV) : FV :=
  let f := l.foldl (fun f x => f ||| x.2) 0
  (l.foldl (fun m x => match m with
    | none => some x.1
    | some y =>
      if (fp32.decode y).isNan then some y
      else if (fp32.decode x.1).isNan || f32gt x.1 y then some x.1 else some y) none |>.getD 0, f)

/-- The rank order of R183: x before y. -/
def rankBefore (x y : Nat × Nat) : Bool :=
  let a := fp32.decode x.2
  let b := fp32.decode y.2
  if a.isNan && b.isNan then decide (x.1 < y.1)
  else if a.isNan then true
  else if b.isNan then false
  else decide (cmpNum b a < 0) || (decide (cmpNum a b = 0) && decide (x.1 < y.1))

/-- A row of a page's summary: LO and HI of a layer and head (R179), or what stops its reading. -/
def State.summaryRow (s : State) (d ctx : Nat) (q : SentRec) (base n i layer head : Nat) : Except EngStop (List Num × List Num) :=
  let o := summaryOff q base n i + (layer * q.h + head) * 4 * q.d
  match (s.ctx ctx).nearBytes o (4 * q.d) with
  | none => .error (.park 7 .kvArena false (o / 4096))
  | some p =>
    match s.poisonWord p (4 * q.d) with
    | some x => .error (.trap .poison x)
    | none =>
      let l := s.view d p (4 * q.d)
      .ok ((List.range q.d).map (fun k => bf16.decode (leAt l (2 * k) 2)),
        (List.range q.d).map (fun k => bf16.decode (leAt l (2 * q.d + 2 * k) 2)))

/-- The candidates: each present slot below P with the array it was found in and its tier (R181). -/
def State.candidates (s : State) (d ctx : Nat) (q : SentRec) : List Nat → Except EngStop (List (Nat × Nat × Nat × Bool))
  | [] => .ok []
  | i :: r =>
    match s.engSlot d ctx q i with
    | .error e => .error e
    | .ok (b, n, w) =>
      match State.candidates s d ctx q r with
      | .error e => .error e
      | .ok l => .ok (if w.present then (i, b, n, w.tier) :: l else l)

/-- The scores of the candidates that are ranked (R182). -/
def State.scores (s : State) (d ctx : Nat) (q : SentRec) (a : AttnRec) (qs : List (List Num)) :
    List (Nat × Nat × Nat × Bool) → Except EngStop (List (Nat × FV))
  | [] => .ok []
  | x :: r =>
    match s.summaryRow d ctx q x.2.1 x.2.2.1 x.1 a.layer a.head with
    | .error e => .error e
    | .ok (lo, hi) =>
      match State.scores s d ctx q a qs r with
      | .error e => .error e
      | .ok l => .ok ((x.1, pageScore (qs.map (fun v => pageBound v lo hi))) :: l)

/-- The queries that SELPG uses (R354, R356). -/
def AttnRec.heads (a : AttnRec) (q : SentRec) : List Nat := (List.range q.g).filter (fun i => bit a.qmask i)

/-- SELPG done, or stopped: it starts again from the beginning (R181 to R184, R198, R356). -/
def State.selpgRun (s : State) (o : Op) (c : Cx) (args : List Nat) : State :=
  let sd := args.headD 0
  let sb := bytesOf (args.drop 65)
  let a := AttnRec.read (bytesOf ((args.drop 1).take 64))
  let q := SentRec.read sb
  let s := s.applyAll c.die
  match (a.heads q).findSome? (fun i => c.group.firstPoison 0 (a.qoff + 2 * q.d * i) (2 * q.d)) with
  | some x => s.engStop o c sb (.trap .poison x)
  | none =>
    match s.candidates c.die c.grid.ctx q (List.range q.pages) with
    | .error e => s.engStop o c sb e
    | .ok cand =>
      let forced := cand.filter (fun x => decide (x.1 < q.sinks) || decide (x.1 + 1 = q.pages))
      let others := cand.filter (fun x => !(decide (x.1 < q.sinks) || decide (x.1 + 1 = q.pages)))
      let qs := (a.heads q).map (fun i => (queryOf c.group q a.qoff i).flatten)
      match s.scores c.die c.grid.ctx q a qs (if forced.length < a.ksel then others else []) with
      | .error e => s.engStop o c sb e
      | .ok sc =>
        let best := (sortBy rankBefore (sc.map (fun x => (x.1, x.2.1)))).take (a.ksel - forced.length)
        let chosen := cand.filter (fun x => forced.any (fun y => y.1 == x.1) || best.any (fun y => y.1 == x.1))
        let f := sc.foldl (fun f x => f ||| x.2.2 ||| (if (fp32.decode x.2.1).isNan then flagIV else 0)) 0
        match s.pieces c.die c.grid.ctx .store a.list (2 * chosen.length) with
        | .error e => s.engStop o c sb (.park 6 e.1.1 e.1.2 e.2)
        | .ok ps =>
          if s.engWaits o [] [ps] then s
          else
            let s := (chosen.filter (fun x => x.2.2.2)).foldl (fun s x =>
              s.slotAtomic c.die c.grid.ctx a.recd q x.1 (fun w => some { w with selcnt := min 65535 (w.selcnt + 1) })) s
            s.engDone o [.s sd (BitVec.ofNat 32 chosen.length) false] [(ps, chosen.flatMap (fun x => toBytes x.1 2), [])] f

end Sys2Proof.Machine
end

