-- ==== Sys2Proof/Machine/Completion.lean ====
section
/-! DEFINITION. Completion writes: semaphore additions, statuses and values that agents write when their work ends (R500). -/

namespace Sys2Proof.Machine

/-- WHO of a die's dispatcher (1), declension engine (2) or migration engine (3) (R426). -/
def whoEngine (die src : Nat) : Nat := field die 9 2 + field src 21 2

/-- WHO of a copy engine (R426). -/
def whoCopy (die engine : Nat) : Nat := field engine 0 8 + field die 9 2 + field 1 20 1

/-- The completion write made, or its fault with its page (R500). A page of the BF16 window forbids it. -/
def State.tryCompletion (s : State) (k : Completion) : Except (WalkFault × Nat) State :=
  match s.translate k.die k.ctx k.va (if k.add then .atomic else .store) with
  | .error f => .error (f, k.va % vaMod / 65536 * 65536)
  | .ok t =>
    if t.window.isSome then .error ((.perm, false), k.va % vaMod / 65536 * 65536)
    else if k.add then .ok ((s.writeAt k.die t.pa (toBytes (ofBytes (s.home t.pa 8) + ofBytes k.bytes) 8)).writeBack k.die t.pa 8)
    else .ok ((s.writeAt k.die t.pa k.bytes).writeBack k.die t.pa k.bytes.length)

/-- A fault record of an agent that is no warp: KIND, PC 0 and LANES 0 (R426, R500); its token is given back. -/
def State.agentFault (s : State) (d ctx kind : Nat) (f : WalkFault × Nat) (who : Nat) (agent : Nat × Nat) : State × Nat :=
  let (s, tok) := s.newToken d
  let r : FaultRec := ⟨tok, faultWords f.1.1 kind f.1.2 [f.1.1.page f.2] (s.ctx ctx).asid ctx tok 0 0 who, agent, none, 0⟩
  (s.queueFault d ctx r, tok)

/-- A completion write is made; on a fault it waits for the record to be resolved (R500). -/
def State.complete (s : State) (die ctx va : Nat) (add : Bool) (bytes : List Byte) (who : Nat) : State :=
  let k : Completion := ⟨s.uid, die, ctx, va, add, bytes, who⟩
  match s.tryCompletion k with
  | .ok s' => s'
  | .error e =>
    let r := ({ s with uid := s.uid + 1, completions := s.completions ++ [k] }).agentFault die ctx 10 e who (2, k.id)
    r.1

/-- A semaphore receives +1 as a completion write (R500). -/
def State.completeSem (s : State) (die ctx va who : Nat) : State := s.complete die ctx va true (toBytes 1 8) who

/-- A waiting completion write is made again after .RPL (R500). -/
def State.retryCompletion (s : State) (id : Nat) : State :=
  match s.completions.find? (fun k => k.id == id) with
  | none => s
  | some k =>
    let s := { s with completions := s.completions.filter (fun x => x.id != id) }
    s.complete k.die k.ctx k.va k.add k.bytes k.who

/-- A waiting completion write is dropped after .ACC, and counted (R500, R488). -/
def State.dropCompletion (s : State) (id : Nat) : State :=
  match s.completions.find? (fun k => k.id == id) with
  | none => s
  | some k =>
    let s := { s with completions := s.completions.filter (fun x => x.id != id) }
    s.setDie k.die (fun x => { x with upddrop := (x.upddrop + 1) % 2 ^ 64, updlast := k.va })

end Sys2Proof.Machine
end

