-- ==== Sys2Proof/Machine/Declension.lean ====
section
/-! DEFINITION. The declension and migration engines: record lists, sweeps, actions and frame swaps, readers in flight, and the
free lists (R192 to R202, R424, R425). -/

namespace Sys2Proof.Machine

/-! ### Free lists (R424, R425) -/

/-- All ones: an empty list. -/
def noLink : Nat := 2 ^ 64 - 1

/-- Pop (R424): the first link of the list at a physical head whose nodes lie where node says; the memory changed. -/
def State.popFree (s : State) (d head : Nat) (node : Nat → Nat) : State × Option Nat :=
  let h := s.home head 16
  let link := leAt h 0 8
  if link = noLink then (s, none)
  else (s.writeAt d head (s.home (node link) 8 ++ toBytes (leAt h 8 8 + 1) 8), some link)

/-- Push (R424). -/
def State.pushFree (s : State) (d head x : Nat) (node : Nat → Nat) : State :=
  let h := s.home head 16
  let s := s.writeAt d (node x) (h.take 8)
  s.writeAt d head (toBytes x 8 ++ toBytes (leAt h 8 8 + 1) 8)

/-- The lowest row of the arena class table for a granule count: its physical address (R425). -/
def State.classRow (s : State) (ctx granules : Nat) : Option Nat :=
  let base := (s.ctx ctx).aclass
  ((List.range 16).map (fun i => base + 160 * i)).find? (fun a => granules != 0 && leAt (s.home a 4) 0 4 == granules)

/-- The head of a row's near list (none) or of expander e's far list (R425). -/
def rowHead (row : Nat) : Option Nat → Nat
  | none => row + 16
  | some e => row + 32 + 16 * e

/-- A frame taken from the free list of a part: a granule index (R195). -/
def State.takeFrame (s : State) (d ctx granules : Nat) (list : Option Nat) : State × Option Nat :=
  match s.classRow ctx granules with
  | none => (s, none)
  | some row =>
    let base := ((s.ctx ctx).part list.isSome).1
    s.popFree d (rowHead row list) (fun g => base + 4096 * g)

/-- A frame returned to the list of its part and expander; with no row it is lost and counted (R425, R488). -/
def State.giveFrame (s : State) (d ctx granules frame : Nat) (far : Bool) : State :=
  let base := ((s.ctx ctx).part far).1
  let list := if far then s.expanderOf (base + 4096 * frame) else none
  match s.classRow ctx granules, far && list.isNone with
  | some row, false => s.pushFree d (rowHead row list) frame (fun g => base + 4096 * g)
  | _, _ => s.setDie d (fun x => { x with
      lostfrm := (x.lostfrm + 1) % 2 ^ 64
      lostlast := BitVec.ofNat 64 (frame % 2 ^ 32 + field (b2n far) 32 1) })

/-! ### Sweeps (R192 to R194) -/

/-- A skip by an engine is counted and its record noted (R488). -/
def State.engineSkip (s : State) (d recd : Nat) : State :=
  s.setDie d (fun x => { x with engskip := (x.engskip + 1) % 2 ^ 64, englast := recd })

/-- The sentence record as an engine reads it at its home, none when it cannot or when it is invalid (R170, R171). -/
def State.engineRec (s : State) (d ctx recd : Nat) : Option (List Byte) :=
  match s.pieces d ctx .load recd 128 with
  | .error _ => none
  | .ok l =>
    let b := (s.piecesRead 0 d ctx l).2.1
    if sentValid b then some b else none

/-- The record that a list entry names, none where a reserved field is set (R192, R7). -/
def listEntry (l : List Byte) : Option Nat :=
  if leAt l 0 8 % 128 = 0 ∧ leAt l 0 8 < vaMod ∧ leAt l 12 4 = 0 then some (leAt l 0 8) else none

/-- The record lists' entries of a context on a die: each entry's virtual address and its record; an entry that cannot be
read, or that is invalid, is skipped (R192, R7). -/
def State.recordList (s : State) (d ctx : Nat) : List (Nat × Option Nat) :=
  let c := s.ctx ctx
  (List.range (tget 0 c.rlcnt d)).map (fun i =>
    let va := (tget 0 c.rlbase d + 16 * i) % vaMod
    match s.pieces d ctx .load va 16 with
    | .error _ => (va, none)
    | .ok l => (va, listEntry (s.piecesRead 0 d ctx l).2.1))

/-- A sweep is requested on a die: merged into one of the record that waits, or added (R193). -/
def State.requestSweep (s : State) (d ctx recd entry : Nat) (sems : List Nat) (pass : Option Nat) : State :=
  let mine := fun (w : Sweep) => w.ctx == ctx && w.recd == recd
  if (s.die d).sweeps.any mine then
    s.setDie d (fun x => { x with sweeps := x.sweeps.map (fun (w : Sweep) => if mine w then
      { w with sems := w.sems ++ sems, pass := match w.pass with | some p => some p | none => pass } else w) })
  else
    let w : Sweep := ⟨s.uid, ctx, recd, entry, sems, false, pass⟩
    ({ s with uid := s.uid + 1 }).setDie d (fun x => { x with sweeps := x.sweeps ++ [w] })

/-- DECLENSION_INTERVAL (R193): the interval of a context on a die has elapsed. -/
def execDeclensionInterval (d ctx : Nat) (s : State) : Out :=
  let c := s.ctx ctx
  let x := s.die d
  if c.dclnint = 0 ∨ x.time < tget 0 x.sweptAt ctx + c.dclnint then .next s
  else
    let s := s.setDie d (fun x => { x with sweptAt := tput x.sweptAt ctx x.time })
    if x.sweeps.any (fun w => w.ctx == ctx && w.pass.isSome) then
      .next (s.setDie d (fun x => { x with skipint := (x.skipint + 1) % 2 ^ 64 }))
    else
      let n := s.uid
      .next ((s.recordList d ctx).foldl (fun s e => match e.2 with
        | some r => s.requestSweep d ctx r e.1 [] (some n)
        | none => s.engineSkip d e.1) { s with uid := n + 1 })

/-- The kind of step that a sweep chooses, and the new slot word (R194). evac: the frame lies in an expander being emptied. -/
def sweepSlot (r : SentRec) (boundary evac : Bool) (i : Nat) (w : Slot) : Slot × Option ActKind :=
  let w := { w with mass := w.mass / 2, age := min (w.age + 1) 255 }
  let exempt := w.pinned || decide (i < r.sinks) || decide (i + 1 = r.pages) || w.moving || w.declining
  if w.tier then
    let a : Option ActKind :=
      if evac && !w.moving && !w.declining then some .evac
      else if r.ten && !exempt && decide (0 < r.hot) && decide (r.hot ≤ w.selcnt) then some .near else none
    let w := if a.isSome then { w with moving := true } else w
    (if boundary || a == some .near then { w with selcnt := 0 } else w, a)
  else
    let w := { w with selcnt := 0 }
    if exempt || w.nonfinite then (w, none)
    else if r.den && decide (w.stage < 3) && decide (w.mass < r.thr.getD w.stage 0) && decide (r.age.getD w.stage 0 ≤ w.age) then
      ({ w with declining := true }, some .demote)
    else if r.ten && w.stage == 3 && decide (w.mass < r.cold) && decide (r.cage ≤ w.age) then ({ w with moving := true }, some .far)
    else (w, none)

/-- The physical address of a slot's frame, whether or not it lies in its part. -/
def frameAddr (c : Ctx) (w : Slot) : Nat := (c.part w.tier).1 + 4096 * w.frame

/-- The frame lies in an expander under evacuation (R194, R471). -/
def State.evacuating (s : State) (ctx : Nat) (w : Slot) : Bool :=
  w.tier && (match s.expanderOf (frameAddr (s.ctx ctx) w) with
    | some e => (s.port e).evac
    | none => false)

/-- The die whose engine makes an action: the sweeping die's declension engine, or the far die that moves (R202). -/
def State.actDie (s : State) (d ctx i : Nat) (w : Slot) : ActKind → Nat
  | .demote => d
  | .far => 2 + i % 2
  | _ => match s.expanderOf (frameAddr (s.ctx ctx) w) with
    | some e => 2 + e / 4
    | none => 2

/-- An action starts for a slot under a generation (R194). -/
def State.startAct (s : State) (d ctx recd i : Nat) (w : Slot) (k : ActKind) : State :=
  let a : Act := ⟨s.uid, s.actDie d ctx i w k, ctx, recd, i, w.sgen, k, none, []⟩
  { s with uid := s.uid + 1, acts := s.acts ++ [a] }

/-- One slot of a sweep: one atomic at its home (R194, R178). -/
def State.sweepOne (s : State) (d ctx recd : Nat) (r : SentRec) (boundary : Bool) (i : Nat) : State :=
  match s.homeSlot d ctx recd r i with
  | .error _ => s.engineSkip d recd
  | .ok (b, _, l) =>
    if !slotValid l then s.engineSkip d recd
    else
      let w := Slot.read l
      if !w.present then s
      else
        let x := sweepSlot r boundary (s.evacuating ctx w) i w
        let s := match slotAddr (s.ctx ctx) b i with
          | .ok a => s.writeAt d a x.1.bytes
          | .error _ => s
        match x.2 with
        | some k => s.startAct d ctx recd i x.1 k
        | none => s

/-- A list entry's SWEEPNO, and the entry with it raised (R192, R194). -/
def State.sweepNo (s : State) (d ctx entry : Nat) : Nat :=
  match s.pieces d ctx .load (entry + 8) 4 with
  | .ok l => leAt (s.piecesRead 0 d ctx l).2.1 0 4
  | .error _ => 0

/-- SWEEPNO raised by one at its home (R194). -/
def State.raiseSweepNo (s : State) (d ctx entry : Nat) : State :=
  match s.pieces d ctx .store (entry + 8) 4 with
  | .ok [p] => s.writeAt d p.pa (toBytes (s.sweepNo d ctx entry + 1) 4)
  | _ => s

/-- A sweep of an interval's pass waits for the sweeps of the pass that stand before it in the list (R193). -/
def Die.passWaits (x : Die) (w : Sweep) : Bool :=
  w.pass.isSome && x.sweeps.any (fun y => y.ctx == w.ctx && y.pass == w.pass && decide (y.entry < w.entry))

/-- RECORD_SWEEP (R194): the sweep of this number runs, and its semaphores are raised at its end (R358). -/
def execRecordSweep (n : Nat) (s : State) : Out :=
  match (List.range 4).findSome? (fun d => ((s.die d).sweeps.find? (fun w => w.id == n)).map (fun w => (d, w))) with
  | none => .next s
  | some (d, w) =>
    if (s.die d).passWaits w then .next s
    else
    let s := s.setDie d (fun x => { x with sweeps := x.sweeps.filter (fun y => y.id != n) })
    let s := s.applyAll d
    let s := match s.engineRec d w.ctx w.recd with
      | none => s.engineSkip d w.recd
      | some b =>
        let r := SentRec.read b
        let boundary := r.ten && decide (r.hwin ≠ 0) && (s.sweepNo d w.ctx w.entry + 1) % r.hwin == 0
        let s := (List.range r.pages).foldl (fun s i => s.sweepOne d w.ctx w.recd r boundary i) s
        s.raiseSweepNo d w.ctx w.entry
    .next (w.sems.foldl (fun s a => s.completeSem d w.ctx a (whoEngine d 2)) s)

/-! ### Actions (R195 to R202) -/

/-- The engine clears the action's flag where the page is still there under its generation, and the action ends abandoned
(R199); nonfinite marks the page (R196). -/
def State.abandon (s : State) (a : Act) (r : Option SentRec) (nonfinite : Bool) : State :=
  let s := match r with
    | none => s
    | some r => s.slotAtomic a.die a.ctx a.recd r a.slot (fun w =>
        if w.present && w.sgen == a.gen then
          let w := if a.kind == ActKind.demote then { w with declining := false } else { w with moving := false }
          some (if nonfinite then { w with nonfinite := true } else w)
        else none)
  let s := s.setDie a.die (fun x => { x with
    abandon := (x.abandon + 1) % 2 ^ 64
    nfpage := if nonfinite then (x.nfpage + 1) % 2 ^ 64 else x.nfpage })
  { s with acts := s.acts.filter (fun x => x.id != a.id) }

/-- The expanders whose far lists an engine tries, in rotation after the one used last (R202): those being emptied are
skipped (R471), and so is the one that an evacuation leaves. -/
def State.rotation (s : State) (d : Nat) (own : Option Nat) : List Nat :=
  ((List.range 4).map (fun k => 4 * (d - 2) + ((s.die d).rot + 1 + k) % 4)).filter (fun e => !(s.port e).evac && own != some e)

/-- The first frame that the lists of a rotation hold. -/
def State.takeFar (s : State) (d ctx granules : Nat) : List Nat → State × Option Nat
  | [] => (s, none)
  | e :: r =>
    match s.takeFrame d ctx granules (some e) with
    | (s', some f) => (s'.setDie d (fun x => { x with rot := e }), some f)
    | (_, none) => State.takeFar s d ctx granules r

/-- The new frame of an action on the page of a slot word (R195, R202). -/
def State.newFrame (s : State) (a : Act) (w : Slot) (granules : Nat) : State × Option Nat :=
  match a.kind with
  | .demote => s.takeFrame a.die a.ctx granules none
  | .near => s.takeFrame a.die a.ctx granules none
  | .far => s.takeFar a.die a.ctx granules (s.rotation a.die none)
  | .evac => s.takeFar a.die a.ctx granules (s.rotation a.die (s.expanderOf (frameAddr (s.ctx a.ctx) w)))

/-- Bytes that a frame of E elements at a stage uses: header and scales, then elements. -/
def frameParts (e stage : Nat) : List (Nat × Nat) :=
  [(0, 512 + (if stage = 0 then 0 else e / 32)), (elemOff e stage, e * fmtBits (stageFmt stage) / 8)]

/-- A range copied bit for bit at its home, its poisoned words with it (R103). -/
def State.copyRange (s : State) (d src dst n : Nat) : State :=
  let bad := (List.range (n / 8 + 1)).filter (fun i => s.memP.contains ((src + 8 * i) / 8) && decide (8 * i < n))
  s.writeNow d (cellsAt dst (s.home src n)) ((dst, n, false) :: bad.map (fun i => (dst + 8 * i, 8, true)))

/-- The decoded elements of every block of a frame, at their home. -/
def State.frameBlocks (s : State) (e stage frame : Nat) : List (List Num) :=
  (List.range (e / 32)).map (fun b => frameBlock (fun a => memByte s.mem a) frame e stage b)

/-- A block re-encoded at a stage (R196): scale, codes, whether an element saturated. -/
def demoteBlock (stage : Nat) (l : List Num) : Nat × List Nat × Bool :=
  if l.all Num.isFinite then
    let q := mxQuant (stageFmt stage) l
    (q.1, q.2.1, q.2.2 &&& flagOF != 0)
  else (255, List.replicate 32 0, false)

/-- LO and HI of a summary row over the keys of the tokens a page holds (R179). -/
def summaryVec (keys : List Num) : Nat × Nat :=
  if keys.any Num.isNan then (bf16.qnan false, bf16.qnan false)
  else match keys with
    | [] => (bf16.infBits false, bf16.infBits true)
    | x :: r =>
      let lo := r.foldl (fun m k => if ltSigned k m then k else m) x
      let hi := r.foldl (fun m k => if ltSigned m k then k else m) x
      ((roundTo bf16 rdn false lo).1, (roundTo bf16 rup false hi).1)

/-- The bytes of a page's summary from the exact elements of its blocks (R179). -/
def summaryBytes (r : SentRec) (tok : Nat → Nat) (blocks : List (List Num)) : List Byte :=
  let el := fun (i : Nat) => (blocks.getD (i / 32) []).getD (i % 32) (.fin false 0 0 false)
  let ts := (List.range 64).filter (fun t => tok t != 0)
  (List.range r.layers).flatMap (fun l => (List.range r.h).flatMap (fun h =>
    let v := (List.range r.d).map (fun d => summaryVec (ts.map (fun t => el (elemIndex r l 0 h t d))))
    v.flatMap (fun x => toBytes x.1 2) ++ v.flatMap (fun x => toBytes x.2 2)))

/-- The new frame and summary of a demotion written (R196): none where the summary lies outside the near part. R197 counts demoted blocks
and saturated ones without naming the moment: they count as the new frame is built, whether or not its swap succeeds
(assumption 130). -/
def State.demoteFrame (s : State) (a : Act) (r : SentRec) (w : Slot) (old new base n : Nat) : Option State :=
  let e := r.elems
  let st := w.stage + 1
  let blocks := s.frameBlocks e w.stage old
  let q := blocks.map (fun b => demoteBlock st b)
  let head := s.home old 128 ++ toBytes st 2 ++ toBytes (w.sgen + 1) 2 ++ List.replicate 380 0
  let scales := q.map (fun b => (BitVec.ofNat 8 b.1 : Byte))
  let body := q.flatMap (fun b => packCodes (stageFmt st) b.2.1)
  let dec := q.map (fun b => b.2.1.map (fun x => mxDecode (stageFmt st) b.1 x))
  let sum := summaryBytes r (fun t => tokSize (fun x => memByte s.mem x) old t) dec
  match (s.ctx a.ctx).nearBytes (summaryOff r base n a.slot) r.sumSize with
  | none => none
  | some p =>
    let s := s.writeAt a.die new (head ++ scales)
    let s := s.writeAt a.die (new + elemOff e st) body
    let s := s.writeAt a.die p sum
    some (s.setDie a.die (fun x => { x with
      demblk := (x.demblk + q.length) % 2 ^ 64
      satblk := (x.satblk + (q.filter (fun b => b.2.2)).length) % 2 ^ 64 }))

/-- The swap of R199: the slot word changed in one atomic, or none where it no longer may be. -/
def swapWord (a : Act) (w : Slot) (frame : Nat) (tier : Bool) (stage : Nat) : Option Slot :=
  let flag := if a.kind == ActKind.demote then w.declining else w.moving
  if w.present && w.sgen == a.gen && flag && (!w.pinned || a.kind == .evac) then
    some { w with
      frame := frame, tier := tier, stage := stage, sgen := (a.gen + 1) % 2 ^ 16
      declining := if a.kind == ActKind.demote then false else w.declining
      moving := if a.kind == ActKind.demote then w.moving else false
      age := if stage = w.stage then w.age else 0 }
  else none

/-- The counters of a completed tier move (R488). -/
def State.countMove (s : State) (a : Act) : State :=
  s.setDie a.die (fun x => match a.kind with
    | .far => { x with movfar := (x.movfar + 1) % 2 ^ 64 }
    | .near => { x with movnear := (x.movnear + 1) % 2 ^ 64 }
    | _ => x)

/-- FRAME_SWAP (R195 to R202): the action builds its new frame and swaps it in, or is abandoned. Where its record or its slot word is
invalid by then, it is abandoned and the word is left as it is, its flag set, which is the model's choice (assumption 153). The engine reads the record as a
device-scope acquire (R171), so that it finds the array in force. -/
def execFrameSwap (n : Nat) (s : State) : Out :=
  match s.acts.find? (fun a => a.id == n && a.swapped.isNone) with
  | none => .next s
  | some a =>
    let s := s.applyAll a.die
    match s.engineRec a.die a.ctx a.recd with
    | none => .next ((s.engineSkip a.die a.recd).abandon a none false)
    | some b =>
      let r := SentRec.read b
      let c := s.ctx a.ctx
      match s.homeSlot a.die a.ctx a.recd r a.slot with
      | .error _ => .next ((s.engineSkip a.die a.recd).abandon a none false)
      | .ok (base, lg, l) =>
        let w := Slot.read l
        if slotValid l = false then .next (s.abandon a none false)
        else if w.present = false ∨ w.sgen ≠ a.gen then .next (s.abandon a (some r) false)
        else
          let stage := if a.kind = .demote then w.stage + 1 else w.stage
          let far := a.kind = .far ∨ a.kind = .evac
          let gOld := frameGranules r.elems w.stage
          let gNew := frameGranules r.elems stage
          match c.frame w.tier w.frame gOld with
          | none => .next ((s.engineSkip a.die a.recd).abandon a (some r) false)
          | some old =>
            let blocks := if a.kind = .demote ∧ w.stage = 0 then s.frameBlocks r.elems 0 old else []
            if blocks.any (fun x => x.any (fun y => !y.isFinite)) = true then .next (s.abandon a (some r) true)
            else if a.kind = .demote ∧ (s.poisonWord old (4096 * gOld)).isSome then
              .next ((s.engineSkip a.die a.recd).abandon a (some r) false)
            else match s.newFrame a w gNew with
              | (_, none) => .next (s.abandon a (some r) false)
              | (s1, some f) =>
                match c.frame far f gNew with
                | none => .next (((s1.giveFrame a.die a.ctx gNew f far).engineSkip a.die a.recd).abandon a (some r) false)
                | some new =>
                  let built := if a.kind = .demote then s1.demoteFrame a r w old new base lg
                    else some ((frameParts r.elems w.stage).foldl (fun s p => s.copyRange a.die (old + p.1) (new + p.1) p.2) s1)
                  match built with
                  | none => .next (((s1.giveFrame a.die a.ctx gNew f far).engineSkip a.die a.recd).abandon a (some r) false)
                  | some s2 =>
                    match swapWord a w f far stage, slotAddr c base a.slot with
                    | some x, .ok p =>
                      let s3 := (s2.writeAt a.die p x.bytes).countMove a
                      .next { s3 with acts := s3.acts.map (fun (y : Act) => if y.id = n then
                        { y with swapped := some (w.frame, w.tier, gOld) } else y) }
                    | _, _ => .next ((s2.giveFrame a.die a.ctx gNew f far).abandon a (some r) false)

/-- READER_EPOCH_ADVANCE (R200): a die that has applied the swaps takes its next epoch, or ends the step that waits once the
readers counted under the old epoch have ended. -/
def execReaderEpochAdvance (d : Nat) (s : State) : Out :=
  let x := s.die d
  match x.epochWait with
  | some l =>
    if (if (x.re + 1) % 2 = 0 then x.c0 else x.c1) ≠ 0 then .next s
    else
      let s := s.setDie d (fun x => { x with epochWait := none })
      .next { s with acts := s.acts.map (fun (a : Act) => if l.contains a.id then { a with epochs := d :: a.epochs } else a) }
  | none =>
    let l := (s.acts.filter (fun a => a.swapped.isSome && !a.epochs.contains d)).map (fun a => a.id)
    if l = [] then .next s
    else .next ((s.applyAll d).setDie d (fun x => { x with re := x.re + 1, epochWait := some l }))

/-- OLD_FRAME_FREE (R200, R425): once all four dies have drained, the old frame returns to its list. -/
def execOldFrameFree (n : Nat) (s : State) : Out :=
  match s.acts.find? (fun a => a.id == n) with
  | none => .next s
  | some a =>
    match a.swapped with
    | none => .next s
    | some (f, tier, g) =>
      if (List.range 4).all (fun d => a.epochs.contains d) then
        let s := s.giveFrame a.die a.ctx g f tier
        let s := s.setDie a.die (fun x => { x with freed := (x.freed + 1) % 2 ^ 64 })
        .next { s with acts := s.acts.filter (fun x => x.id != n) }
      else .next s

/-- The far frames that a record's slot words name: each as its address. -/
def State.farFrames (s : State) (c : Nat × Ctx) (r : SentRec) : List Nat :=
  (List.range r.pages).filterMap (fun i => match readSlot c.2 (fun a => s.home a 16) r i with
    | .ok (_, _, w) => if w.present && w.tier then some (c.2.afar + 4096 * w.frame) else none
    | .error _ => none)

/-- The arena frames of the far part that the engines know of, each as its address: those of the pages of every listed record, and old
frames not yet freed. Frames of records in no list are known to the driver alone (R471; assumption 146). -/
def State.arenaFrames (s : State) : List Nat :=
  s.acts.filterMap (fun a => match a.swapped with
    | some (f, true, _) => some ((s.ctx a.ctx).afar + 4096 * f)
    | _ => none)
  ++ s.ctxs.flatMap (fun c => (List.range 4).flatMap (fun d => (s.recordList d c.1).flatMap (fun en =>
    match en.2.bind (s.engineRec d c.1) with
    | some b => s.farFrames c (SentRec.read b)
    | none => [])))

/-- Arena frames in an expander, each counted once (R488). -/
def State.framesIn (s : State) (e : Nat) : Nat := ((s.arenaFrames.filter (fun a => s.expanderOf a == some e)).eraseDups).length

end Sys2Proof.Machine
end

