-- ==== Sys2Proof/Machine/Slots.lean ====
section
/-! DEFINITION. Slot requests: MASSR, DCLN, TIER and SQGROW, and the steps in which they take place; LOAD_COMPLETE, which also
brings back the results of MASSR and TIER (major 0x30, funcs 10 to 12 and 15; R174, R357 to R360, R90). -/

namespace Sys2Proof.Machine

/-! ### MASSR and TIER -/

/-- MASSR or TIER issues: the record is read, the slot is placed, and the request goes to the slot's home (R171, R173, R335). -/
def State.askSlot (s : State) (c : Cx) (tier : Bool) (q sl dst : Nat) (full : List RegRef) (arg : Bool) : State :=
  let va := c.qaddr q
  let i := (c.warp.sreg sl).toNat
  if va % 128 ≠ 0 then s.trap c .misalign c.split.mask va
  else match s.readSent c (some .gld) va c.keptRec with
    | .error t => t
    | .ok (s1, l) =>
      let place : Except KvStop Nat := match slotPlace (SentRec.read l) i with
        | .error e => .error e
        | .ok p => slotAddr c.ctx p.1 i
      match place with
      | .error (.access x) => s1.trap c .access c.split.mask x
      | .error (.arena g far) =>
        ((s1.onWarp c (fun w => { w with kept := l })).raise c .gld 1).parkOn c 7
          [(lowLane c.split.mask, .kvArena, false, g + field (b2n far) 32 1)] c.split.mask (some (.gld, 1)) (fun _ => va)
      | .ok _ =>
        let b := (((s1.raise c .gld 1).onWarp c (fun w => { w with kept := [] })).renumber c.w s1.uid).begin c full (some (.gld, 1)) (.slotReq tier va l i dst arg)
        b.1.holdFor c b.2

/-- MASSR (R357). -/
def execMassr (q : BitVec 4) (bs : BitVec 4) (r : BitVec 4) (c : BitVec 1) (s : State) : Out :=
  issue s (fun x => once (q.toNat % 2 == 0 && r.toNat % 2 == 0) accNoMod x [qref q.toNat, sref bs.toNat] (qref r.toNat)) (fun x =>
    if x.room .gld 1 = false then .next s
    else .next (s.askSlot x false q.toNat bs.toNat r.toNat (qref r.toNat) (c == 1)))

/-- TIER (R359). -/
def execTier (q : BitVec 4) (bs : BitVec 4) (c : BitVec 4) (n : BitVec 1) (s : State) : Out :=
  issue s (fun x => once (q.toNat % 2 == 0) accNoMod x [qref q.toNat, sref bs.toNat] (sref c.toNat)) (fun x =>
    if x.room .gld 1 = false then .next s
    else .next (s.askSlot x true q.toNat bs.toNat c.toNat (sref c.toNat) (n == 1)))

/-- The result of MASSR (R357). -/
def massrWord (w : Slot) : Nat :=
  w.mass + field w.stage 32 2 + field (b2n w.tier) 34 1 + field (b2n w.present) 35 1 + field (b2n w.moving) 36 1
    + field (b2n w.declining) 37 1 + field (b2n w.pinned) 38 1 + field (b2n w.nonfinite) 39 1 + field w.age 40 8
    + field w.selcnt 48 16

/-- Why TIER starts no move: 1 not RESIDENT, 2 PINNED, 3 sink or tail, 4 already there; 0 when it may (R359). -/
def tierStatus (r : SentRec) (i : Nat) (near : Bool) (w : Slot) : Nat :=
  if !w.present || w.moving || w.declining then 1
  else if w.pinned then 2
  else if decide (i < r.sinks) || decide (i + 1 = r.pages) then 3
  else if w.tier != near then 4
  else 0

/-- MASSR or TIER stops when its result returns: precisely at the instruction (R178, R357, R359); in a warp that has stopped
meanwhile it executes again on resume. -/
def State.slotStop (s : State) (o : Op) (sent : List Byte) (e : KvStop) : State :=
  match s.cxOf o.warp o.split with
  | none => s.dropOp o
  | some c =>
    if c.warp.life ≠ .running then (s.dropOp o).unhold c
    else match e with
      | .access i => ((s.dropOp o).unhold c).trap c .access c.split.mask i
      | .arena g far =>
        if c.warp.fault.isSome then s
        else
          let s := State.renumber { s with ops := s.ops.filter (fun x => x.id != o.id) } o.id o.warp
          let s := s.setWarp o.warp (fun x => { (x.markAll false o.full) with kept := sent })
          (s.unhold c).parkOn c 7 [(lowLane c.split.mask, .kvArena, false, g + field (b2n far) 32 1)] c.split.mask o.path
            (fun _ => match o.kind with | .slotReq _ va _ _ _ _ => va | _ => 0)

/-- The request performed at the slot's home (R178, R357, R359), after the warp's earlier engine instructions (R108). -/
def State.slotDone (s : State) (o : Op) (tier : Bool) (recd : Nat) (sent : List Byte) (i dst : Nat) (arg : Bool) : State :=
  if s.ops.any (fun x => x.warp == o.warp && decide (x.id < o.id) && x.kind.isWork) then s
  else
    let r := SentRec.read sent
    match s.homeSlot o.die o.ctx recd r i with
    | .error e => s.slotStop o sent e
    | .ok (b, _, l) =>
      if !slotValid l then s.slotStop o sent (.access (b + 16 * i))
      else
        let w := Slot.read l
        let put := fun (s : State) (x : Slot) => match slotAddr (s.ctx o.ctx) b i with
          | .ok a => s.writeAt o.die a x.bytes
          | .error _ => s
        let done := fun (s : State) (regs : List RegWrite) =>
          (s.setWarp o.warp (fun x => x.writeAll (s.widthOf o.warp) regs)).endOp o
        if tier then
          let st := tierStatus r i arg w
          let s := if st = 0 then
              let x := { w with moving := true }
              (put s x).startAct o.die o.ctx recd i x (if arg then .near else .far)
            else s.setDie o.die (fun x => { x with tierdrop := (x.tierdrop + 1) % 2 ^ 64 })
          done s [.s dst (BitVec.ofNat 32 st) false]
        else
          let s := (if arg then put s { w with mass := 0 } else s).acquire o.die 5
          done s (swrite true dst (massrWord w) false)

/-- LOAD_COMPLETE (R90): a load's lanes are performed, or the result of MASSR or TIER returns; its registers are full and GLD
falls in order. An acquire takes effect with it (R112). -/
def execLoadComplete (n : Nat) (s : State) : Out :=
  match s.op n with
  | none => .next s
  | some o =>
    match o.kind with
    | .load accs z sx vd order scope form _ => .next (s.loadDone o accs z sx vd order scope form)
    | .slotReq tier recd sent i dst arg => .next (s.slotDone o tier recd sent i dst arg)
    | _ => .next s

/-! ### DCLN -/

/-- DCLN (R358): the request sets out to every die. -/
def execDcln (q : BitVec 4) (bs : BitVec 4) (e : BitVec 1) (s : State) : Out :=
  let sem := e == 1
  let wf := q.toNat % 2 == 0 && (if sem then bs.toNat % 2 == 0 else bs == 0)
  issue s (fun x => once wf accNoMod x (qref q.toNat :: (if sem then [qref bs.toNat] else [])) []) (fun x =>
    let va := x.qaddr q.toNat
    let sv := x.qaddr bs.toNat
    if va % 128 ≠ 0 then .next (s.trap x .misalign x.split.mask va)
    else if sem = true ∧ sv % 8 ≠ 0 then .next (s.trap x .misalign x.split.mask sv)
    else .next ((s.addOp x [] none (.dcln va (if sem then some sv else none) [0, 1, 2, 3] false)).advance x))

/-- SWEEP_REQUEST (R193, R358): the request reaches a die. Once it has reached every die and no list held its record, it is
dropped and counted. -/
def execSweepRequest (n : Nat) (die : Nat) (s : State) : Out :=
  match s.op n with
  | none => .next s
  | some o =>
    match o.kind with
    | .dcln recd sem left found =>
      if left.contains die = false then .next s
      else
        let hit := (s.recordList die o.ctx).find? (fun e => e.2 == some recd)
        let sems := match sem with | some a => [a] | none => []
        let s1 := match hit with
          | some e => s.requestSweep die o.ctx recd e.1 (if found then [] else sems) none
          | none => s
        let left := ldel left die
        let found := found || hit.isSome
        if left ≠ [] then .next (s1.setOp n (.dcln recd sem left found))
        else
          let s2 := s1.endOp o
          if found then .next s2
          else
            let s3 := s2.setDie o.die (fun x => { x with dclndrop := (x.dclndrop + 1) % 2 ^ 64 })
            .next (match sem with
              | some a => s3.completeSem o.die o.ctx a (whoEngine o.die 2)
              | none => s3)
    | _ => .next s

/-! ### SQGROW (R174, R360) -/

/-- The 16 bytes of ARRAY (R169). -/
def arrayBytes (slots n oldSlots oldN : Nat) (fwd : Bool) (bound : Nat) : List Byte :=
  toBytes (field slots 0 40 + field n 40 5 + field oldSlots 48 40 + field oldN 88 5 + field (b2n fwd) 93 1 + field bound 96 17) 16

/-- Bytes of an array of 2^n slots with their summaries (R172). -/
def arraySize (r : SentRec) (n : Nat) : Nat := 2 ^ n * (16 + r.sumSize)

/-- SQGROW (R360): its checks, then the second step of R174 at the record's home. The checks come in the order of R360's steps, ACCESS of
the array before the alignment of the semaphore, which is the model's choice against R336's order (assumption 154). -/
def execSqgrow (a : BitVec 4) (b : BitVec 4) (c : BitVec 4) (s : State) : Out :=
  let wf := a.toNat % 2 == 0 && b.toNat % 2 == 0 && c.toNat % 2 == 0
  issue s (fun x => once wf accNoMod x [qref a.toNat, qref b.toNat, qref c.toNat] []) (fun x =>
    let va := x.qaddr a.toNat
    let off := x.qaddr b.toNat
    let sem := x.qaddr c.toNat
    if va % 128 ≠ 0 then .next (s.trap x .misalign x.split.mask va)
    else match s.readSent x none va x.keptRec with
      | .error t => .next t
      | .ok (s1, l) =>
        let s1 := s1.onWarp x (fun w => { w with kept := l })
        let q := SentRec.read l
        if off % 4096 ≠ 0 ∨ x.ctx.nearBytes off (arraySize q (q.n + 1)) = none then .next (s1.trap x .access x.split.mask off)
        else if sem % 8 ≠ 0 then .next (s1.trap x .misalign x.split.mask sem)
        else if q.fwd = true ∨ q.n = 16 then .next (s1.trap x .illegal x.split.mask 0)
        else match s1.semAddr x none va .atomic with
          | .error t => .next t
          | .ok pa =>
            match s1.semAddr x none sem .atomic with
            | .error t => .next t
            | .ok spa =>
              let h := SentRec.read (s1.home pa 128)
              if h.fwd = true ∨ h.n = 16 then .next (s1.trap x .illegal x.split.mask 0)
              else if x.ctx.nearBytes h.slots (arraySize q h.n) = none then
                .next (s1.parkOn x 7 [(lowLane x.split.mask, .kvArena, false, h.slots / 4096)] x.split.mask none (fun _ => va))
              else
                let s2 := s1.writeAt x.die pa (arrayBytes off (h.n + 1) h.slots h.n true 0)
                let s3 := s2.onWarp x (fun w => { w with kept := [] })
                .next ((s3.addOp x [] none (.sqgrow pa 0 spa none)).advance x))

/-- A slot word's bytes with FORWARDED as given, every other bit as it is (R174, R176). -/
def setForwarded (l : List Byte) (b : Bool) : List Byte := lset l 5 (bvPut (byteAt l 5) 0 b)

/-- SQGROW_SLOT_COPY (R174): one slot and its summary copied, the old word forwarded, BOUND raised. -/
def execSqgrowSlotCopy (n : Nat) (s : State) : Out :=
  match s.op n with
  | none => .next s
  | some o =>
    match o.kind with
    | .sqgrow recd i sem none =>
      let r := SentRec.read (s.home recd 128)
      let c := s.ctx o.ctx
      if r.fwd = false ∨ 2 ^ r.oldN ≤ i then .next s
      else
        let t := match c.nearBytes (summaryOff r r.oldSlots r.oldN i) r.sumSize, c.nearBytes (summaryOff r r.slots r.n i) r.sumSize,
            slotAddr c r.oldSlots i, slotAddr c r.slots i with
          | some p, some q, .ok x, .ok y =>
            let w := s.home x 16
            let s := s.copyRange o.die p q r.sumSize
            let s := s.writeAt o.die y (setForwarded w false)
            s.writeAt o.die x (setForwarded w true)
          | _, _, _, _ => s
        let t := t.writeAt o.die recd (arrayBytes r.slots r.n r.oldSlots r.oldN true (i + 1))
        .next (t.setOp n (.sqgrow recd (i + 1) sem none))
    | _ => .next s

/-- The operation is of an instruction that has read ARRAY and may still use the old array (R174). -/
def Op.usesArray (o : Op) : Bool :=
  o.par != 2 || (match o.kind with
    | .work _ _ _ => true
    | .slotReq _ _ _ _ _ _ => true
    | _ => false)

/-- The warp has begun an instruction that it has not completed and that reads a record: it is parked on the record, or with what it read of
it, or owes a replay. -/
def Warp.reading (w : Warp) : Bool :=
  !w.kept.isEmpty || !w.attnZ.isEmpty || w.replay.isSome || (w.fault.any (fun f => f.kind == 9))

/-- Instructions under way (R174): those at work, by the number of their operation, and those parked on a fault, by their warp, resident or
saved. -/
def State.underWay (s : State) : List Nat :=
  let parked := fun (t : Table Warp) => (t.filter (fun e => e.2.reading)).map (fun e => e.1)
  (s.ops.filter Op.usesArray).map (fun o => o.id) ++ parked s.warps ++ parked s.kept

/-- SQGROW_COMPLETE (R174): FWD is cleared after the last slot; the semaphore is raised once the instructions that began before
have completed. -/
def execSqgrowComplete (n : Nat) (s : State) : Out :=
  match s.op n with
  | none => .next s
  | some o =>
    match o.kind with
    | .sqgrow recd i sem none =>
      let r := SentRec.read (s.home recd 128)
      if r.fwd = false ∨ i < 2 ^ r.oldN then .next s
      else
        let t := s.writeAt o.die recd (arrayBytes r.slots r.n r.oldSlots r.oldN false r.bound)
        .next (t.setOp n (.sqgrow recd i sem (some t.underWay)))
    | .sqgrow _ _ sem (some l) =>
      if l.any (fun k => s.underWay.contains k) then .next s
      else .next ((s.writeAt o.die sem (toBytes (s.semValue sem + 1) 8)).endOp o)
    | _ => .next s

end Sys2Proof.Machine
end

