-- ==== Sys2Proof/Machine/Contract.lean ====
section
/-! DEFINITION. The contraction unit: CTRC and EXPD, and ENGINE_INSTRUCTION_DONE, in which an engine instruction at work is done
(major 0x30, funcs 13 and 14; R203 to R208, R335, R361 to R363). -/

namespace Sys2Proof.Machine

/-- Fields of a contraction record (R361). -/
structure ConRec where
  d    : Nat
  h    : Nat
  nin  : Nat
  rmax : Nat
  ink  : Nat
  inv  : Nat
  ins  : Nat
  outk : Nat
  outv : Nat
  outs : Nat
  map  : Nat
  recd : Nat
deriving DecidableEq, Repr

/-- The fields of a contraction record's bytes (R361). -/
def ConRec.read (l : List Byte) : ConRec :=
  let a := fun (o : Nat) => recBits l (8 * o) 57
  { d := 64 * 2 ^ recBits l 4 2, h := recBits l 8 6, nin := recBits l 16 13, rmax := recBits l 32 13, ink := a 8, inv := a 16
    ins := a 24, outk := a 32, outv := a 40, outs := a 48, map := a 56, recd := a 64 }

/-- Bytes of the keys, or of the values, of n tokens (R361). -/
def ConRec.bytes (r : ConRec) (n : Nat) : Nat := 2 * n * r.h * r.d

/-- Bytes of the expansion map of n tokens (R206). -/
def mapSize (n : Nat) : Nat := 32 + 2 * n

/-- Positions of set A (even) or B (odd) among the sizes (R203). -/
def conSet (sizes : List Nat) (odd : Bool) : List Nat :=
  (List.range sizes.length).filter (fun t => (t % 2 == 1) == odd && sizes.getD t 0 != 0)

/-! ### Similarity and matching (R204, R205) -/

/-- Mean over the heads of one token's keys, for each element (R204): keys gives the FP32 bits of element (h, d). -/
def conMean (h d : Nat) (key : Nat → Nat → Nat) : List FV :=
  (List.range d).map (fun e =>
    let acc := (List.range h).foldl (fun (a : FV) k => FV.op f32add a (key k e, 0)) (0, 0)
    FV.op f32div acc ((roundNum fp32 rne (intNum h, 0)).1, 0))

/-- Sim of two tokens by their means (R204). -/
def conSim (x y : List FV) : FV :=
  let r := (x.zip y).foldl (fun (a : FV × FV × FV) p =>
    (FV.op f32add a.1 (FV.op f32mul p.1 p.2), FV.op f32add a.2.1 (FV.op f32mul p.1 p.1),
      FV.op f32add a.2.2 (FV.op f32mul p.2 p.2))) ((0, 0), (0, 0), (0, 0))
  let f := r.1.2 ||| r.2.1.2 ||| r.2.2.2
  if (fp32.decode r.2.1.1).isZero || (fp32.decode r.2.2.1).isZero then (0, f)
  else
    let rsq := fun (v : FV) => let q := f32fn .rsq v.1; ((q.1, v.2 ||| q.2) : FV)
    FV.op f32mul (FV.op f32mul r.1 (rsq r.2.1)) (rsq r.2.2)

/-- Similarity x ranks above y: a NaN ranks below every number (R205). -/
def simAbove (x y : Nat) : Bool :=
  let a := fp32.decode x
  let b := fp32.decode y
  !a.isNan && (b.isNan || f32gt x y)

/-- The edge of a token of A: the token of B with the largest similarity, the lower position among equals (R205). -/
def bestOf : List (Nat × Nat) → Option (Nat × Nat)
  | [] => none
  | x :: r => some (r.foldl (fun m y => if simAbove y.2 m.2 then y else m) x)

/-- The edges walked in rank order until so many are accepted (R205): sizes merged so far by token of B, edges accepted. -/
def conAccept (sizes : List Nat) : List (Nat × Nat × Nat) → Nat → Table Nat → List (Nat × Nat)
  | [], _, _ => []
  | _, 0, _ => []
  | (a, b, _) :: r, n + 1, t =>
    let z := tget (sizes.getD b 0) t b + sizes.getD a 0
    if z ≤ 65535 then (a, b) :: conAccept sizes r n (tput t b z) else conAccept sizes r (n + 1) t

/-- One merged element: Σ s x over b and the accepted tokens, over Σ s, rounded once (R205). -/
def mergeElem (l : List (Nat × Num)) : Nat × Flags :=
  let terms := l.map (fun x => mulNum (intNum x.1) x.2)
  let sum : Num × Flags := match terms with
    | [] => (Num.fin false 0 0 false, 0)
    | t :: r => r.foldl (fun (a : Num × Flags) (y : Num × Flags) => let z := addNum rne a.1 y.1; (z.1, a.2 ||| y.2 ||| z.2)) t
  let q := divNum sum.1 (intNum (l.foldl (fun n x => n + x.1) 0))
  roundNum bf16 rne (q.1, sum.2 ||| q.2)

/-- What CTRC writes: surviving tokens with sizes and elements, the map's entries, and its flags. -/
structure ConOut where
  sizes : List Nat
  keys  : List Nat              -- BF16 patterns in output order
  vals  : List Nat
  out   : List Nat
  flags : Flags
deriving DecidableEq, Repr

/-- R205 over a chunk: width w = H × D of a token, its sizes, keys and values as BF16 patterns. R205 gives no order for the sum of step 4,
which shows where a term is a NaN or an infinity: b comes first, then the tokens of S in the order in which they were accepted. A token
of B with no accepted edge is not merged, and is copied bit for bit (assumption 65). -/
def contract (h d rmax : Nat) (sizes : List Nat) (k v : Nat → Nat) : ConOut :=
  let w := h * d
  let a := conSet sizes false
  let b := conSet sizes true
  let mean := fun (t : Nat) => conMean h d (fun i e => k (t * w + i * d + e) * 65536)
  let mb := b.map (fun t => (t, mean t))
  let sims : List (Nat × List (Nat × FV)) := if b = [] then [] else a.map (fun t =>
    let m := mean t
    (t, mb.map (fun y => (y.1, conSim m y.2))))
  let edges := sims.filterMap (fun x => (bestOf (x.2.map (fun y => (y.1, y.2.1)))).map (fun e => (x.1, e.1, e.2)))
  let ranked := sortBy (fun (x y : Nat × Nat × Nat) => simAbove x.2.2 y.2.2) edges
  let acc := conAccept sizes ranked rmax []
  let keep := (List.range sizes.length).filter (fun t => sizes.getD t 0 != 0 && !(acc.any (fun e => e.1 == t)))
  let group := fun (t : Nat) => t :: (acc.filter (fun e => e.2 == t)).map (fun e => e.1)
  let elems := fun (x : Nat → Nat) => keep.flatMap (fun t =>
    let g := group t
    (List.range w).map (fun i =>
      if g.length = 1 then ((x (t * w + i), 0) : FV)
      else mergeElem (g.map (fun u => (sizes.getD u 0, bf16.decode (x (u * w + i)))))))
  let ek := elems k
  let ev := elems v
  let f1 := sims.foldl (fun (f : Flags) x => x.2.foldl (fun f y =>
    f ||| y.2.2 ||| (if (fp32.decode y.2.1).isNan then flagIV else 0)) f) 0
  let f2 := (ek ++ ev).foldl (fun (f : Flags) x => f ||| x.2) f1
  { sizes := keep.map (fun t => ((group t).map (fun u => sizes.getD u 0)).foldl (fun n x => n + x) 0)
    keys := ek.map (fun x => x.1), vals := ev.map (fun x => x.1)
    out := (List.range sizes.length).map (fun t =>
      if sizes.getD t 0 = 0 then 0xFFFF
      else
        let u := match acc.find? (fun e => e.1 == t) with | some e => e.2 | none => t
        keep.findIdx (fun x => x == u))
    flags := f2 }

/-! ### CTRC (R362) -/

/-- The pieces of several ranges, each with its need and kind of fault, or the first fault. -/
def State.piecesAll (s : State) (d ctx : Nat) : List (Nat × Nat × Need × Nat) → Except (Nat × WalkFault × Nat) (List (List Piece))
  | [] => .ok []
  | (va, n, need, kind) :: r =>
    match s.pieces d ctx need va n with
    | .error e => .error (kind, e)
    | .ok l =>
      match State.piecesAll s d ctx r with
      | .error e => .error e
      | .ok m => .ok (l :: m)

/-- Writes of an engine instruction that its counter does not name for themselves: they are issued, and performed later (R121). -/
def State.issuePuts (s : State) (c : Cx) (puts : List Put) : State :=
  let w := s.enginePost c.die puts
  (w.1.begin c [] none (.engine w.2.1 w.2.2 0)).1.readKv c.die w.1.uid w.2.2

/-- CTRC (R362): its checks; the first of its writes makes its map invalid, and the work begins (R207). Poison among the sizes stops the
work, so that VALID is 0 by then. -/
def execCtrc (h : BitVec 4) (bs : BitVec 4) (s : State) : Out :=
  issue s (fun x => once true accNoMod x [[.h h.toNat]] (sref bs.toNat)) (fun x =>
    if x.room .gst 1 = false then .next s
    else match s.record x h.toNat 4 with
      | .error t => .next t
      | .ok l =>
        let r := ConRec.read l
        match s.readSent x (some .gst) r.recd x.keptRec with
        | .error t => .next t
        | .ok (s1, sb) =>
          let ask := [(r.ink, r.bytes r.nin, Need.load, 0), (r.inv, r.bytes r.nin, Need.load, 0), (r.ins, 2 * r.nin, Need.load, 0),
            (r.map, mapSize r.nin, Need.store, 6)]
          match s1.piecesAll x.die x.grid.ctx ask with
          | .error e => .next (s1.parkSent x sb e.1 e.2)
          | .ok ps =>
            if ps.any (fun p => s1.ownAhead x.w p) then .next s
            else match s1.takeIn x (ps.getD 2 []) with
            | .error t => .next t
            | .ok rd =>
              let sizes := listOf rd.2.1 r.nin
              let least := (conSet sizes false).length + (conSet sizes true).length - r.rmax
              match s1.piecesAll x.die x.grid.ctx [(r.outk, r.bytes least, .store, 6), (r.outv, r.bytes least, .store, 6),
                  (r.outs, 2 * least, .store, 6)] with
              | .error e => .next (s1.parkSent x sb e.1 e.2)
              | .ok _ =>
                if rd.2.2 = none ∧ (conSet sizes false).length < r.rmax then .next (s1.trap x .access x.split.mask r.rmax)
                else match s1.pieces x.die x.grid.ctx .store (r.map + 16) 1 with
                  | .error e => .next (s1.parkSent x sb 6 e)
                  | .ok p =>
                    if s1.putsAhead x.w s.uid p then .next s
                    else .next (((rd.1.issuePuts x [(p, [0], [])]).startWork x (sref bs.toNat) 2 (bs.toNat :: nats l ++ nats sb) false)))

/-- The map's bytes while VALID is 0 (R206, R207). -/
def mapBytes (r : ConRec) (gen nout : Nat) (out : List Nat) : List Byte :=
  toBytes r.recd 8 ++ toBytes gen 4 ++ toBytes r.nin 2 ++ toBytes nout 2 ++ toBytes 0 16 ++ out.flatMap (fun x => toBytes x 2)

/-- Writes of free bytes over pieces (R9). -/
def State.freePut (s : State) (l : List Piece) : State × Put :=
  let n := l.foldl (fun n p => n + p.len) 0
  let r := s.freeBytes n
  (r.1, l, r.2, [])

/-- The physical ranges of two lists of pieces overlap. -/
def piecesOverlap (a b : List Piece) : Bool := a.any (fun p => b.any (fun q => overlaps p.pa p.len q.pa q.len))

/-- Puts in order, those marked replaced by free bytes. -/
def State.freePuts (s : State) : List (Bool × Put) → State × List Put
  | [] => (s, [])
  | (b, p) :: r =>
    let x := if b then s.freePut p.1 else (s, p)
    let y := State.freePuts x.1 r
    (y.1, x.2 :: y.2)

/-- CTRC's outputs and map entries, issued before VALID := 1 (R207). Where an output or the map overlaps an input, the results and the map
are undefined (R207, R9): the writes, NOUT and VALID are free, and no flag is set. -/
def State.ctrcWrite (s : State) (o : Op) (c : Cx) (sd : Nat) (r : ConRec) (sb : List Byte) (all : List Put) (ins : List (List Piece))
    (n : Nat) (f : Flags) : State :=
  if all.any (fun p => ins.any (fun i => piecesOverlap i p.1)) then
    let d := s.draw
    let x := d.1.toNat
    let w := d.2.freePuts (all.map (fun p => (true, p)))
    (w.1.issuePuts c w.2).setOp o.id (.work 5 ([sd, bits x 0 32, 0, r.map, bits x 40 8] ++ nats sb) 2)
  else (s.issuePuts c all).setOp o.id (.work 5 ([sd, n, f.toNat, r.map, 1] ++ nats sb) 2)

/-- CTRC's computation done, or stopped: it starts again from its beginning (R203 to R207, R362). -/
def State.ctrcRun (s : State) (o : Op) (c : Cx) (args : List Nat) : State :=
  let sd := args.headD 0
  let r := ConRec.read (bytesOf ((args.drop 1).take 128))
  let sb := bytesOf (args.drop 129)
  match s.piecesAll c.die c.grid.ctx [(r.ink, r.bytes r.nin, .load, 0), (r.inv, r.bytes r.nin, .load, 0), (r.ins, 2 * r.nin, .load, 0),
      (r.map, mapSize r.nin, .store, 6)] with
  | .error e => s.engStop o c sb (.park e.1 e.2.1.1 e.2.1.2 e.2.2)
  | .ok ps => s.engReads o c sb (ps.take 3) (fun s =>
    let k := s.piecesRead c.w c.die c.grid.ctx (ps.getD 0 [])
    let v := k.1.piecesRead c.w c.die c.grid.ctx (ps.getD 1 [])
    let z := v.1.piecesRead c.w c.die c.grid.ctx (ps.getD 2 [])
    let s := z.1
    let w := contract r.h r.d r.rmax (listOf z.2.1 r.nin) (fun i => leAt k.2.1 (2 * i) 2) (fun i => leAt v.2.1 (2 * i) 2)
    let n := w.sizes.length
    match s.piecesAll c.die c.grid.ctx [(r.outk, r.bytes n, .store, 6), (r.outv, r.bytes n, .store, 6), (r.outs, 2 * n, .store, 6)] with
    | .error e => s.engStop o c sb (.park e.1 e.2.1.1 e.2.1.2 e.2.2)
    | .ok out =>
      if s.engWaits o (ps.take 3) (ps.getD 3 [] :: out) then s
      else
      let half := fun (l : List Nat) => l.flatMap (fun x => toBytes x 2)
      let puts : List Put := (out.zip [half w.keys, half w.vals, half w.sizes]).map (fun x => (x.1, x.2, []))
      match (k.2.2.or v.2.2).or z.2.2 with
      | some a =>
        let f := s.freePuts (puts.map (fun p => (true, p)))
        let e := f.1.enginePost c.die f.2
        (e.1.flushTo c.die e.2.1).engStop o c sb (.trap .poison a)
      | none => s.ctrcWrite o c sd r sb (puts ++ [(ps.getD 3 [], mapBytes r (SentRec.read sb).gen n w.out, [])]) (ps.take 3) n w.flags)

/-- CTRC's end: VALID := 1 as a device-scope release, after its other writes (R207). -/
def State.ctrcEnd (s : State) (o : Op) (c : Cx) (args : List Nat) : State :=
  if s.released o.warp o.die 5 = false then s
  else match s.pieces c.die c.grid.ctx .store (args.getD 3 0 + 16) 1 with
    | .error e => s.engStop o c (bytesOf (args.drop 5)) (.park 6 e.1.1 e.1.2 e.2)
    | .ok p => s.engDone o [.s (args.headD 0) (BitVec.ofNat 32 (args.getD 1 0)) false] [(p, [BitVec.ofNat 8 (args.getD 4 0)], [])]
        (BitVec.ofNat 5 (args.getD 2 0))

/-! ### EXPD (R208, R363) -/

/-- The map's own fields are valid (R206, R208): reserved fields zero, counts in their ranges. That a count outside its range is ACCESS is the
model's choice (assumption 143). -/
def mapValid (l : List Byte) : Bool :=
  recBits l 57 7 == 0 && recBits l 129 7 == 0 && leAt l 17 15 == 0 && decide (2 ≤ leAt l 12 2) && decide (leAt l 12 2 ≤ 4096)
    && decide (leAt l 14 2 ≤ 4096)

/-- EXPD (R363): the map and the record are read once and checked; then the rows are copied. -/
def execExpd (h : BitVec 4) (q : BitVec 4) (r : BitVec 4) (t : BitVec 9) (s : State) : Out :=
  let wf := q.toNat % 2 == 0 && r.toNat % 2 == 0
  issue s (fun x => once wf accNoMod x [[.h h.toNat], qref q.toNat, qref r.toNat] []) (fun x =>
    let src := x.qaddr q.toNat
    let dst := x.qaddr r.toNat
    if x.room .gst 1 = false then .next s
    else match s.record x h.toNat 4 with
      | .error e => .next e
      | .ok l =>
        let cr := ConRec.read l
        if src % 16 ≠ 0 ∨ dst % 16 ≠ 0 then
          .next (s.trap x .misalign x.split.mask (if src % 16 ≠ 0 then src else dst))
        else match s.readSent x (some .gst) cr.recd x.keptRec with
          | .error e => .next e
          | .ok (s1, sb) =>
            match s1.readKept x sb cr.map 32 with
            | .error e => .next e
            | .ok (s2, m, bad) =>
              match bad with
              | some a => .next (s2.trap x .poison x.split.mask a)
              | none =>
                if bit (leAt m 16 1) 0 = false ∨ leAt m 8 4 ≠ (SentRec.read sb).gen ∨ recBits m 0 57 ≠ cr.recd then
                  .next (s2.trap x .mapstale x.split.mask cr.map)
                else if mapValid m = false then .next (s2.trap x .access x.split.mask cr.map)
                else match s2.readKept x sb (cr.map + 32) (2 * leAt m 12 2) with
                  | .error e => .next e
                  | .ok (s3, ol, bad) =>
                    let out := listOf ol (leAt m 12 2)
                    match bad with
                    | some a => .next (s3.trap x .poison x.split.mask a)
                    | none =>
                      if out.any (fun n => decide (leAt m 14 2 ≤ n) && n != 0xFFFF) then
                        .next (s3.trap x .access x.split.mask cr.map)
                      else .next (s3.startWork x [] 3 (16 * (t.toNat + 1) :: src :: dst :: nats sb ++ out) false))

/-- The source rows of an EXPD: pieces of each row that the list names, none for a row of zeros. -/
def State.expdRows (s : State) (d ctx rowb src : Nat) : List Nat → Except (WalkFault × Nat) (List (Option (List Piece)))
  | [] => .ok []
  | n :: r =>
    match State.expdRows s d ctx rowb src r with
    | .error e => .error e
    | .ok l =>
      if n = 0xFFFF then .ok (none :: l)
      else match s.pieces d ctx .load (src + n * rowb) rowb with
        | .error e => .error e
        | .ok p => .ok (some p :: l)

/-- EXPD done, or stopped: it starts again from its beginning (R208, R363). -/
def State.expdRun (s : State) (o : Op) (c : Cx) (args : List Nat) : State :=
  let rowb := args.getD 0 16
  let src := args.getD 1 0
  let dst := args.getD 2 0
  let sb := bytesOf ((args.drop 3).take 128)
  let out := args.drop 131
  match s.expdRows c.die c.grid.ctx rowb src out with
  | .error e => s.engStop o c sb (.park 0 e.1.1 e.1.2 e.2)
  | .ok rows =>
    match s.piecesAll c.die c.grid.ctx ((List.range out.length).map (fun t => (dst + t * rowb, rowb, Need.store, 6))) with
    | .error e => s.engStop o c sb (.park e.1 e.2.1.1 e.2.1.2 e.2.2)
    | .ok dest =>
      if s.engWaits o (rows.filterMap (fun p => p)) dest then s
      else s.engReads o c sb (rows.filterMap (fun p => p)) (fun s =>
      let x := (rows.zip dest).foldl (fun (acc : State × List (Bool × Put)) p =>
        match p.1 with
        | none => (acc.1, acc.2 ++ [(false, (p.2, List.replicate rowb 0, []))])
        | some l =>
          let r := acc.1.piecesRead c.w c.die c.grid.ctx l
          let bad := acc.1.badWords c.w c.die c.grid.ctx 0 l
          (r.1, acc.2 ++ [(false, (p.2, r.2.1, bad))])) (s, [])
      let used := rows.filterMap (fun p => p)
      let f := x.1.freePuts (x.2.map (fun p => (used.any (fun u => piecesOverlap u p.2.1), p.2)))
      f.1.engDone o [] f.2 0)

/-! ### Engine instructions done -/

/-- ENGINE_INSTRUCTION_DONE (R335): the engine instruction for which the split holds has done its work, or stops. -/
def execEngineInstructionDone (w : Nat) (sp : Nat) (s : State) : Out :=
  match s.waiting w sp with
  | none => .next s
  | some c =>
    match c.split.wait with
    | .op n =>
      match s.op n with
      | some o =>
        match o.kind with
        | .work 0 args _ => .next (s.attnRun o c args)
        | .work 1 args _ => .next (s.selpgRun o c args)
        | .work 2 args _ => .next (s.ctrcRun o c args)
        | .work 3 args _ => .next (s.expdRun o c args)
        | .work 5 args _ => .next (s.ctrcEnd o c args)
        | _ => .next s
      | none => .next s
    | _ => .next s

end Sys2Proof.Machine
end

