-- ==== Sys2Proof/Machine/Streams.lean ====
section
/-! DEFINITION. Copy-engine streams (R326 to R330, R454): their operands, the rows they copy, their stops, and one meaning for
each stream instruction; OUTBOUND_ACCESS_ABORT, for operations and for streams (R124). -/

namespace Sys2Proof.Machine

/-- The selected stream if it runs. -/
def streamCx (s : State) : Option (Nat × Stream) :=
  match s.cur with
  | .stream n =>
    match tfind s.streams n with
    | some x => if x.st = .run ∨ x.st = .outbound then some (n, x) else none
    | none => none
  | _ => none

/-! ### Stopping and faulting -/

/-- The stream stops with a code: its status, then +1 to DONE as a system-scope release, both completion writes (R330, R454). A free stream
may have no status; a bound one's goes to BSTAT + 16w, whatever that is. -/
def State.stopStream (s : State) (n : Nat) (code : Nat) : State :=
  match tfind s.streams n with
  | none => s
  | some x =>
    let who := whoCopy x.die x.engine
    let bytes := toBytes (x.pc % vaMod) 8 ++ toBytes code 1 ++ toBytes x.flags.toNat 1 ++ List.replicate 6 0
    let s := s.setStream n (fun x => { x with st := .stopped code, fault := none, moved := 0 })
    let s := if x.status = 0 ∧ x.group = none then s else s.complete x.die x.ctx x.status false bytes who
    if x.doneSem = 0 then s else (s.releaseAll x.die).completeSem x.die x.ctx x.doneSem who

/-- The stream parks on a fault record of KIND 8 (R330, R426). -/
def State.parkStream (s : State) (n : Nat) (x : Stream) (e : WalkFault × Nat) : State :=
  let r := s.agentFault x.die x.ctx 8 e (whoCopy x.die x.engine) (1, n)
  r.1.setStream n (fun x => { x with
    st := .fault
    moved := 0
    fault := some ⟨r.2, e.1.1, 8, e.1.2, 0, 0, 0, [e.1.1.page e.2], true, none, none, none, e.2, none⟩ })

/-- The stream goes to its next instruction: a head word and so many operand words. -/
def State.streamNext (s : State) (n : Nat) (words : Nat) : State :=
  s.setStream n (fun x => { x with st := .run, moved := 0, pc := (x.pc + 4 * (1 + words)) % vaMod })

/-! ### Operands (R327) -/

/-- The space of an operand: 0 global, 1 A-buffer, 2 W-buffer. -/
def opSpace (x : DWord) : Nat := bits x.toNat 61 2

/-- The address of an operand: local, or global with the base added where REL is set. -/
def Stream.addr (x : Stream) (a : DWord) : Nat :=
  if opSpace a = 0 ∧ bit a.toNat 60 then (x.xb.toNat + bits a.toNat 0 57) % vaMod else bits a.toNat 0 57

/-- One row: destination as an exact offset or address, source address, bytes read, bytes written. -/
structure StreamRow where
  dst : Int
  src : Nat
  len : Nat
  out : Nat
deriving DecidableEq, Repr

/-- A row cut into the lines in which it is read and written: at 128-byte lines of the source and, for a global destination, at its pages.
The fuel bounds the lines. -/
def cutRow (glob : Bool) : Nat → StreamRow → List StreamRow
  | 0, _ => []
  | k + 1, r =>
    if r.len = 0 then []
    else
      let n := min r.len (lineBytes - r.src % lineBytes)
      let n := if glob then min n (65536 - (r.dst % 65536).toNat) else n
      ⟨r.dst, r.src, n, n⟩ :: cutRow glob k ⟨r.dst + n, (r.src + n) % vaMod, r.len - n, r.len - n⟩

/-- The lines of rows that are copied. -/
def cutRows (glob : Bool) (l : List StreamRow) : List StreamRow := l.flatMap (fun r => cutRow glob (r.len / lineBytes + r.len / 65536 + 4) r)

/-- The code that stops an instruction before anything is written for its local destination (R327, R329, R330): UNBOUND,
ALIGN, LIMIT; 0 for none. -/
def State.localStop (s : State) (x : Stream) (dst : DWord) (rows : List (Int × Nat)) : Nat :=
  if opSpace dst = 0 then 0
  else match x.group with
    | none => 4
    | some g =>
      let size : Nat := match tfind s.groups g with
        | some gr => match tfind s.grids gr.grid with
          | some y => y.bufSize (opSpace dst - 1)
          | none => 0
        | none => 0
      if bits dst.toNat 0 57 % 4 ≠ 0 ∨ rows.any (fun r => r.1 % 4 != 0 || r.2 % 4 != 0) = true then 5
      else if rows.any (fun r => r.2 != 0 && (decide (r.1 < 0) || decide ((size : Int) < r.1 + r.2))) = true then 3
      else 0

/-! ### Moving bytes -/

/-- Where a row of bytes goes: pieces of memory, or an offset of the bound workgroup's buffer. -/
inductive Place where
  | mem (l : List Piece)
  | buf (gid u o : Nat)
deriving DecidableEq, Repr

/-- A row ready to be written: its place, its bytes, the offsets of its poisoned 4-byte words. -/
abbrev Load := Place × List Byte × List Nat

/-- What ends a stream instruction's accesses early. -/
inductive StreamEnd where
  | fault (e : WalkFault × Nat)
  | abort
deriving DecidableEq, Repr

/-- Some piece reaches no memory; some piece reaches host memory (R124). -/
def State.piecesLost (s : State) (l : List Piece) : Bool := l.any (fun p => p.win.isNone && !s.installed p.pa)
def State.piecesHost (s : State) (l : List Piece) : Bool := l.any (fun p => p.win.isNone && s.isHost p.pa)

/-- The pieces that a stream's access reaches. -/
def State.streamPieces (s : State) (x : Stream) (need : Need) (va n : Nat) : Except StreamEnd (List Piece) :=
  match s.pieces x.die x.ctx need va n with
  | .error e => .error (.fault e)
  | .ok l => if s.piecesLost l then .error .abort else .ok l

/-- The place of a row's destination. -/
def State.streamPlace (s : State) (x : Stream) (dst : DWord) (a : Int) (n : Nat) : Except StreamEnd Place :=
  if opSpace dst = 0 then
    match s.streamPieces x .store (a % (vaMod : Int)).toNat n with
    | .error e => .error e
    | .ok l => .ok (.mem l)
  else .ok (.buf (x.group.getD 0) (opSpace dst - 1) a.toNat)

/-- Bytes read for a row with the offsets of their poisoned words. -/
def State.streamRead (s : State) (x : Stream) (l : List Piece) (n : Nat) : State × List Byte × List Nat :=
  let r := s.piecesRead 0 x.die x.ctx l
  (r.1, r.2.1, s.badWords 0 x.die x.ctx 0 l)

/-- Rows read in order, up to the first that ends the instruction: the rows, their sources, and that end. Where gen is given the bytes come
from it, by their place, and not from memory. -/
def State.streamRows (s : State) (x : Stream) (dst : DWord) (gen : Option (Nat → Byte)) :
    List StreamRow → State × List Load × List Piece × Option StreamEnd
  | [] => (s, [], [], none)
  | r :: more =>
    match (if gen.isSome then .ok [] else s.streamPieces x .load r.src r.len), s.streamPlace x dst r.dst r.out with
    | .error e, _ => (s, [], [], some e)
    | _, .error e => (s, [], [], some e)
    | .ok src, .ok p =>
      let y := match gen with
        | some g => (s, (List.range r.len).map (fun i => g (r.src + i)), [])
        | none => s.streamRead x src r.len
      let z := State.streamRows y.1 x dst gen more
      (z.1, (p, y.2.1, y.2.2) :: z.2.1, src ++ z.2.2.1, z.2.2.2)

/-- The physical bytes that two lists of pieces share (R326). -/
def sharedBytes (a b : List Piece) : List (Nat × Nat) :=
  a.flatMap (fun p => b.filterMap (fun q =>
    if p.win.isNone && q.win.isNone && overlaps p.pa p.len q.pa q.len then
      let lo := max p.pa q.pa
      some (lo, min (p.pa + p.len) (q.pa + q.len) - lo)
    else none))

/-- Rows written in ascending order and performed at their homes (R326). -/
def State.streamWrite (s : State) (x : Stream) (l : List Load) : State :=
  let puts : List Put := l.filterMap (fun r => match r.1 with | .mem p => some (p, r.2.1, r.2.2) | _ => none)
  let w := s.enginePost x.die puts
  let s := w.1.meetWrite 0 (w.1.writeRanges w.2.1)
  let s := if w.2.1 = 0 then s else s.flushTo x.die w.2.1
  let s := if w.2.2 = [] then s else s.winWrite 0 x.die x.ctx w.2.2
  l.foldl (fun (s : State) (r : Load) => match r.1 with
    | .buf g u o => r.2.2.foldl (fun (s : State) k => s.bufWrite g u (o + k) ((r.2.1.drop k).take 4) true) (s.bufWrite g u o r.2.1 false)
    | .mem _ => s) s

/-- Overlapped destination bytes hold free values (R326, R9). -/
def State.freeShared (s : State) (x : Stream) (l : List (Nat × Nat)) : State :=
  l.foldl (fun (s : State) (r : Nat × Nat) => let f := s.freeBytes r.2; f.1.writeAt x.die r.1 f.2) s

/-- A key-value page among the pieces is being replaced, so that a write to it waits at its home (R201). -/
def State.piecesBusy (s : State) (x : Stream) (l : List Piece) : Bool :=
  s.winBusy x.die x.ctx (l.map (fun p => ⟨0, p.va, p.pa, [], [], p.win, 0, none⟩))

/-- Memory pieces of places. -/
def placePieces (l : List Load) : List Piece := l.flatMap (fun r => match r.1 with | .mem p => p | _ => [])

/-- A page that is moving delays a stream's access (R327). -/
def StreamEnd.delays : StreamEnd → Bool
  | .fault e => e.1.1 == .tierMove
  | .abort => false

/-- The end of a stream instruction's accesses: a page that is moving leaves the stream where it is, a fault parks it, an abort
stops it with ABORT (R327, R330). -/
def State.streamEnd (s : State) (n : Nat) (x : Stream) (words : Nat) : Option StreamEnd → State
  | none => s.streamNext n words
  | some (.fault e) => if e.1.1 = .tierMove then s else s.parkStream n x e
  | some .abort => s.stopStream n 7

/-- What a stream's access to pieces waits for: a key-value page that is being replaced (R201), a lost link (R466), a held channel (R485). -/
def State.streamHeld (s : State) (x : Stream) (src dst : List Piece) : Bool :=
  s.piecesBusy x dst || s.piecesHeld x.die src || s.piecesHeld x.die dst

/-- A stream whose instruction reaches host memory waits for it (R124, R447): what it reads there is asked for. -/
def State.streamOutbound (s : State) (n : Nat) (src : List Piece) : State :=
  (s.askAll n (plainPieces src)).setStream n (fun x => { x with st := .outbound })

/-- A copying instruction (R326, R329, R330): its lines, converted by f before they are written. As many as the environment names are
written now; after the last the stream goes to its next instruction. -/
def streamMove (s : State) (n : Nat) (x : Stream) (words : Nat) (dst : DWord) (gen : Option (Nat → Byte)) (rows : List StreamRow)
    (f : List Load → List Load × Flags) : State :=
  let rest := rows.drop x.moved
  let part := match x.quota with | some k => rest.take k | none => rest
  let r := s.streamRows x dst gen part
  let dest := placePieces r.2.1
  if (r.2.2.2.map StreamEnd.delays).getD false || s.streamHeld x r.2.2.1 dest then s
  else if (s.piecesHost r.2.2.1 || s.piecesHost dest) && x.st == .run then s.streamOutbound n r.2.2.1
  else match s.askFor n (plainPieces r.2.2.1) with
    | .wait t => t
    | .abort t => t.stopStream n 7
    | .ready _ =>
      let y := f r.2.1
      let t := (r.1.streamWrite x y.1).freeShared x (sharedBytes r.2.2.1 (placePieces y.1))
      let t := t.dropAsks n
      let t := t.setStream n (fun x => { x with flags := x.flags ||| y.2 })
      if r.2.2.2.isNone && decide (part.length < rest.length) then t.setStream n (fun x => { x with st := .run, moved := x.moved + part.length })
      else t.streamEnd n x words r.2.2.2

/-- The common form of a stream instruction: its operand check (R232), then its body. -/
def onStream (s : State) (wf : Bool) (f : Nat → Stream → State) : Out :=
  match streamCx s with
  | none => .next s
  | some (n, x) => .next (if wf then f n x else s.stopStream n 1)

/-- A copying instruction with its local checks first. -/
def streamCopy (s : State) (n : Nat) (x : Stream) (words : Nat) (dst : DWord) (rows : List StreamRow) : State :=
  match s.localStop x dst (rows.map (fun r => (r.dst, r.out))) with
  | 0 => streamMove s n x words dst none (cutRows (opSpace dst == 0) rows) (fun l => (l, 0))
  | c => s.stopStream n c

/-! ### One meaning for each -/

/-- CPY (R329). -/
def execCpy (_na : BitVec 1) (dst : BitVec 64) (src : BitVec 64) (len : BitVec 32) (s : State) : Out :=
  onStream s (dstOp dst && globalOp src) (fun n x => streamCopy s n x 5 dst [⟨x.addr dst, x.addr src, len.toNat, len.toNat⟩])

/-- CPY2 (R329). -/
def execCpy2 (_na : BitVec 1) (dst : BitVec 64) (src : BitVec 64) (rowb : BitVec 32) (rows : BitVec 32) (dstr : BitVec 32)
    (sstr : BitVec 32) (s : State) : Out :=
  onStream s (dstOp dst && globalOp src) (fun n x =>
    streamCopy s n x 8 dst ((List.range rows.toNat).map (fun (i : Nat) =>
      ⟨x.addr dst + i * dstr.toInt, vaAt (x.addr src) (i * sstr.toInt), rowb.toNat, rowb.toNat⟩)))

/-- The row numbers of CGATH and CSCAT, read from IDX; or what ends the reading (R329). -/
def State.streamIdx (s : State) (x : Stream) (wide : Bool) (idx : DWord) (count : Nat) : Except StreamEnd (State × List Nat × List Piece) :=
  let z := if wide then 8 else 4
  match s.streamPieces x .load (x.addr idx) (z * count) with
  | .error e => .error e
  | .ok l =>
    let r := s.piecesRead 0 x.die x.ctx l
    .ok (r.1, (List.range count).map (fun i => leAt r.2.1 (z * i) z), l)

/-- A gather or scatter: the index list is read first, then the rows move. -/
def streamIndexed (s : State) (n : Nat) (x : Stream) (wide : Bool) (dst idx : DWord) (count : Nat)
    (row : Nat → Nat → StreamRow) : State :=
  if opSpace dst ≠ 0 ∧ x.group = none then s.stopStream n 4
  else match s.streamIdx x wide idx count with
    | .error e => if e.delays then s else s.streamEnd n x 7 (some e)
    | .ok (s1, l, p) =>
      if s.piecesHeld x.die p then s
      else if s.piecesHost p && x.st == .run then s.streamOutbound n p
      else match s.askFor n (plainPieces p) with
      | .wait t => t
      | .abort t => t.stopStream n 7
      | .ready _ => streamCopy s1 n x 7 dst ((List.range count).map (fun i => row i (l.getD i 0)))

/-- CGATH (R329). -/
def execCgath (rb : BitVec 16) (iw : BitVec 1) (_na : BitVec 1) (dst : BitVec 64) (src : BitVec 64) (idx : BitVec 64)
    (count : BitVec 32) (s : State) : Out :=
  onStream s (rb != 0 && dstOp dst && globalOp src && globalOp idx) (fun n x =>
    streamIndexed s n x (iw == 1) dst idx count.toNat (fun i k =>
      ⟨x.addr dst + i * rb.toNat % vaMod, (x.addr src + k * rb.toNat) % vaMod, rb.toNat, rb.toNat⟩))

/-- CSCAT (R329). -/
def execCscat (rb : BitVec 16) (iw : BitVec 1) (_na : BitVec 1) (dst : BitVec 64) (src : BitVec 64) (idx : BitVec 64)
    (count : BitVec 32) (s : State) : Out :=
  onStream s (rb != 0 && dstOp dst && globalOp src && globalOp idx) (fun n x =>
    streamIndexed s n x (iw == 1) dst idx count.toNat (fun i k =>
      ⟨x.addr dst + k * rb.toNat % vaMod, (x.addr src + i * rb.toNat) % vaMod, rb.toNat, rb.toNat⟩))

/-- CFILL (R329): the pattern stands in the instruction. -/
def execCfill (psz : BitVec 2) (dst : BitVec 64) (pat : BitVec 64) (len : BitVec 32) (s : State) : Out :=
  onStream s (dstOp dst) (fun n x =>
    let z := 2 ^ psz.toNat
    let k := len.toNat
    if opSpace dst ≠ 0 ∧ x.group = none then s.stopStream n 4
    else if x.addr dst % z ≠ 0 ∨ k % z ≠ 0 then s.stopStream n 5
    else match s.localStop x dst [(x.addr dst, k)] with
      | 0 => streamMove s n x 5 dst (some (fun i => BitVec.ofNat 8 (pat.toNat / 256 ^ (i % z))))
          (cutRows (opSpace dst == 0) [⟨x.addr dst, 0, k, k⟩]) (fun l => (l, 0))
      | c => s.stopStream n c)

/-- Bytes of an element of a format that CCONV takes (R328). -/
def convBytes (code : Nat) : Nat :=
  match code with | 0 => 4 | 1 => 2 | 8 => 8 | 9 => 4 | _ => 1

/-- A row of elements converted: bytes, poisoned words, flags (R149, R103). -/
def convRow (sf tf rm : Nat) (sat : Bool) (l : Load) : Load × Flags :=
  let zs := convBytes sf
  let zt := convBytes tf
  let count := l.2.1.length / zs
  let y := (List.range count).map (fun i => convert sf tf false false rm sat (leAt l.2.1 (zs * i) zs))
  let bad := (List.range count).filter (fun i => l.2.2.any (fun o => overlaps o 4 (zs * i) zs))
  let words := (bad.flatMap (fun i => (List.range (ceilDiv zt 4)).map (fun j => (zt * i) / 4 * 4 + 4 * j))).eraseDups
  ((l.1, y.flatMap (fun v => toBytes v.1 zt), words), y.foldl (fun f v => f ||| v.2) 0)

/-- The rows of a CCONV: 64 elements each. -/
def convRows (dst : Int) (src zs zt count : Nat) : List StreamRow :=
  (List.range (ceilDiv count 64)).map (fun i =>
    let k := min 64 (count - 64 * i)
    ⟨dst + 64 * zt * i, (src + 64 * zs * i) % vaMod, zs * k, zt * k⟩)

/-- CCONV (R329): its flags are the stream's. -/
def execCconv (sf : BitVec 4) (tf : BitVec 4) (rm : BitVec 2) (sat : BitVec 1) (dst : BitVec 64) (src : BitVec 64)
    (count : BitVec 32) (s : State) : Out :=
  onStream s (convCode sf && convCode tf && dstOp dst && globalOp src) (fun n x =>
    let zs := convBytes sf.toNat
    let zt := convBytes tf.toNat
    match s.localStop x dst [(x.addr dst, zt * count.toNat)] with
    | 0 => streamMove s n x 5 dst none (convRows (x.addr dst) (x.addr src) zs zt count.toNat) (fun l =>
        let y := l.map (convRow sf.toNat tf.toNat rm.toNat (sat == 1))
        (y.map (fun r => r.1), y.foldl (fun f r => f ||| r.2) 0))
    | c => s.stopStream n c)

/-- The physical address of a stream's semaphore, or what ends the instruction (R329, R330). -/
def State.streamSem (s : State) (x : Stream) (va : Nat) (need : Need) : Except StreamEnd Nat :=
  match s.translate x.die x.ctx va need with
  | .error e => .error (.fault (e, va / 65536 * 65536))
  | .ok t =>
    if t.window.isSome then .error (.fault ((.perm, false), va / 65536 * 65536))
    else if s.installed t.pa then .ok t.pa else .error .abort

/-- CSEMS (R329): an atomic at the home and a device-scope release, which waits until what the stream has written is applied on every die
(R112). -/
def execCsems (set : BitVec 1) (sem : BitVec 64) (value : BitVec 64) (s : State) : Out :=
  onStream s (globalOp sem) (fun n x =>
    let va := x.addr sem
    if va % 8 ≠ 0 then s.stopStream n 5
    else match s.streamSem x va .atomic with
      | .error e => s.streamEnd n x 4 (some e)
      | .ok pa =>
        if s.unserved x.die pa 8 then s
        else if s.isHost pa && x.st == .run then s.streamOutbound n [⟨va, pa, 8, none⟩]
        else if s.drained x.die = false then s
        else match s.askFor n [(pa, 8)] with
        | .wait t => t
        | .abort t => t.stopStream n 7
        | .ready s =>
          let s := s.meetRead x.die pa 8
          let v := if set = 1 then value.toNat else s.semValue pa + value.toNat
          (s.writeAt x.die pa (toBytes v 8)).streamNext n 4)

/-- CSEMW (R329): it waits, and then acquires at device scope. -/
def execCsemw (sem : BitVec 64) (threshold : BitVec 64) (s : State) : Out :=
  onStream s (globalOp sem) (fun n x =>
    let va := x.addr sem
    if va % 8 ≠ 0 then s.stopStream n 5
    else match s.streamSem x va .load with
      | .error e => s.streamEnd n x 4 (some e)
      | .ok pa =>
        let s := s.meetRead x.die pa 8
        if threshold.toNat ≤ s.semValue pa ∧ s.unserved x.die pa 8 = false ∧ s.acquires x.die 5 = true then (s.acquire x.die 5).streamNext n 4
        else s.setStream n (fun x => { x with st := .waitSem va threshold.toNat }))

/-- CSEMW_SATISFIED (R329): a translation that now faults makes the instruction execute again. -/
def execCsemwSatisfied (n : Nat) (s : State) : Out :=
  match tfind s.streams n with
  | none => .next s
  | some x =>
    match x.st with
    | .waitSem va th =>
      match s.streamSem x va .load with
      | .error _ => .next (s.setStream n (fun x => { x with st := .run }))
      | .ok pa =>
        let s := s.meetRead x.die pa 8
        if th ≤ s.semValue pa ∧ s.unserved x.die pa 8 = false ∧ s.acquires x.die 5 = true then .next ((s.acquire x.die 5).streamNext n 4)
        else .next s
    | _ => .next s

/-- CLOOP (R329). -/
def execCloop (back : BitVec 16) (count : BitVec 32) (s : State) : Out :=
  onStream s (back != 0) (fun n x =>
    if x.lc ≠ none ∧ x.la ≠ x.pc then s.stopStream n 6
    else
      let lc := x.lc.getD count.toNat
      if 1 < lc then s.setStream n (fun x => { x with
        lc := some (lc - 1)
        la := x.pc
        xb := x.xb + x.xs
        st := .run
        moved := 0
        pc := vaAt x.pc (-(4 * back.toNat : Int)) })
      else (s.setStream n (fun x => { x with lc := none, la := x.pc })).streamNext n 1)

/-- CJMP (R329). -/
def execCjmp (target : BitVec 64) (s : State) : Out :=
  onStream s (target.extractLsb' 57 7 == 0) (fun n _ =>
    if target.toNat % 4 ≠ 0 then s.stopStream n 5
    else s.setStream n (fun x => { x with pc := target.toNat % vaMod, moved := 0, st := .run }))

/-- CHALT (R329). -/
def execChalt (s : State) : Out := onStream s true (fun n _ => s.stopStream n 0)

/-- The unanswered MRDs of an agent that a test picks are aborted. -/
def State.failAsks (s : State) (who : Nat) (p : HostAsk → Bool) : State :=
  { s with asks := s.asks.map (fun a => if a.who = who ∧ a.got = none ∧ p a = true then { a with got := some false } else a) }

/-- An outbound access of this number aborts: an operation; the stream whose instruction waits for host memory; else the reads that a warp
makes at issue, which find it when they are tried again (R124, R330). -/
def State.abortOut (s : State) (n : Nat) (p : HostAsk → Bool) : State :=
  match s.op n with
  | some o => (s.abortOp o).dropAsks n
  | none =>
    match tfind s.streams n with
    | some x => if x.st = .outbound then (s.dropAsks n).stopStream n 7 else s
    | none => s.failAsks n p

/-- OUTBOUND_ACCESS_ABORT (R124, R330). -/
def execOutboundAccessAbort (n : Nat) (s : State) : Out := .next (s.abortOut n (fun _ => true))

end Sys2Proof.Machine
end

