-- ==== Sys2Proof/Machine/Faults.lean ====
section
/-! DEFINITION. The fault queue and the trap-notice ring: claiming, resolving, replaying (R66, R67, R426 to R429, R500), page
walks (R421, R423), and promotion of a split (R42). -/

namespace Sys2Proof.Machine

/-! ### Rings (R427, R428, R434) -/

/-- The entries of held records that now have space are written, oldest first (R427, R428): so many at most. -/
def State.releaseFaults (s : State) (d : Nat) : Nat → State
  | 0 => s
  | n + 1 =>
    let x := s.die d
    match x.heldFaults with
    | [] => s
    | r :: more =>
      if x.fqOn && decide (x.faults.length < 2 ^ x.fqlog2) then
        State.releaseFaults ((s.setDie d (fun x => { x with heldFaults := more })).putFault d r) d n
      else s

/-- A notice enters the die's ring in memory. -/
def State.putNotice (s : State) (d : Nat) (l : List Byte) : State :=
  let x := s.die d
  let a := x.tqbase + 16 * (x.tqtail % 2 ^ x.tqlog2)
  (s.setDie d (fun x => { x with notices := x.notices ++ [l], tqtail := x.tqtail + 1 })).writeAt d a l

/-- Held notices that now have space are written, oldest first. -/
def State.releaseNotices (s : State) (d : Nat) : Nat → State
  | 0 => s
  | n + 1 =>
    let x := s.die d
    match x.heldNotices with
    | [] => s
    | r :: more =>
      if x.tqOn && decide (x.notices.length < 2 ^ x.tqlog2) then
        State.releaseNotices ((s.setDie d (fun x => { x with heldNotices := more })).putNotice d r) d n
      else s

/-- A trap notice arises (R434, R428). -/
def State.notice (s : State) (d ctx : Nat) (l : List Byte) : State :=
  let x := s.die d
  if x.tqOn && decide (x.notices.length < 2 ^ x.tqlog2) && x.heldNotices.isEmpty then s.putNotice d l
  else
    let s := s.setDie d (fun x => { x with heldNotices := x.heldNotices ++ [l] })
    if x.tqOn then s else s.machineCheck d 5 ctx

/-- FAULT_HELD_RELEASE (R427). -/
def execFaultHeldRelease (d : Nat) (s : State) : Out := if d < 4 then .next (s.releaseFaults d 1) else .next s

/-- FQLOG2 written (R428): ignored while records stand in the queue; a valid value starts the ring. -/
def State.writeFqlog2 (s : State) (d v : Nat) : State :=
  if (s.die d).faults ≠ [] then s
  else
    let s := s.setDie d (fun x => { x with fqlog2 := v, fqtail := 0 })
    s.releaseFaults d (s.die d).heldFaults.length

/-- TQLOG2 written (R428). -/
def State.writeTqlog2 (s : State) (d v : Nat) : State :=
  if (s.die d).notices ≠ [] then s
  else
    let s := s.setDie d (fun x => { x with tqlog2 := v, tqtail := 0 })
    s.releaseNotices d (s.die d).heldNotices.length

/-- FAULT_QUEUE_ENABLE (R428). -/
def execFaultQueueEnable (d : Nat) (v : BitVec 64) (s : State) : Out :=
  if d < 4 then .next (s.writeFqlog2 d (bits v.toNat 0 4)) else .next s

/-- TRAP_RING_ENABLE (R428). -/
def execTrapRingEnable (d : Nat) (v : BitVec 64) (s : State) : Out :=
  if d < 4 then .next (s.writeTqlog2 d (bits v.toNat 0 4)) else .next s

/-! ### Claiming -/

/-- The oldest unclaimed record of a die. -/
def Die.oldest (x : Die) : Option FaultRec := x.faults.find? (fun r => r.claimed.isNone)

/-- The oldest unclaimed record or notice claimed by the split into its registers, none where there is none (R427). -/
def State.claim (s : State) (c : Cx) (trap : Bool) (sd : Nat) : Option State :=
  if trap then
    match (s.die c.die).notices with
    | [] => none
    | l :: more =>
      let s := s.setDie c.die (fun x => { x with notices := more })
      let s := s.releaseNotices c.die (s.die c.die).heldNotices.length
      some (s.onWarp c (fun w => w.writeAll c.grid.w ((List.range 4).map (fun i =>
        RegWrite.s (sd + i) (BitVec.ofNat 32 (leAt l (4 * i) 4)) false))))
  else
    match (s.die c.die).oldest with
    | none => none
    | some r =>
      let s := s.setDie c.die (fun x => { x with faults := x.faults.map (fun (q : FaultRec) =>
        if q.token = r.token then { q with claimed := some c.w } else q) })
      some (s.onWarp c (fun w => w.writeAll c.grid.w ((List.range 32).map (fun i => RegWrite.s (sd + i) (r.words.getD i 0) false))))

/-- FLTQ.POP (R427): with no record the split parks. -/
def execFltqPop (d : BitVec 7) (s : State) : Out :=
  issue s (fun c => { once (d.toNat % 32 == 0) Accept.none c [] (sgroup d.toNat 32) with priv := true }) (fun c =>
    match s.claim c false d.toNat with
    | some t => .next (t.advance c)
    | none => .next (s.hold c (.claim false d.toNat)))

/-- FLTQ.TPOP (R427). -/
def execFltqTpop (d : BitVec 7) (s : State) : Out :=
  issue s (fun c => { once (d.toNat % 4 == 0) Accept.none c [] (sgroup d.toNat 4) with priv := true }) (fun c =>
    match s.claim c true d.toNat with
    | some t => .next (t.advance c)
    | none => .next (s.hold c (.claim true d.toNat)))

/-- CLAIM_RESUME (R427). -/
def execClaimResume (w sp : Nat) (s : State) : Out :=
  match s.waiting w sp with
  | none => .next s
  | some c =>
    match c.split.wait with
    | .claim trap sd =>
      match s.claim c trap sd with
      | some t => .next (t.resume c)
      | none => .next s
    | _ => .next s

/-! ### Resolving (R427, R429, R500) -/

/-- A warp's parked fault changed, whether the warp is resident or saved (R429). -/
def State.setParked (s : State) (w : Nat) (f : ParkedFault → ParkedFault) : State :=
  match tfind s.warps w with
  | some _ => s.setWarp w (fun x => { x with fault := x.fault.map f })
  | none =>
    match tfind s.kept w with
    | some k => { s with kept := tput s.kept w { k with fault := k.fault.map f } }
    | none => s

/-- The ACCESS that a fault no handler can service becomes (R67): at the parked instruction, for its unfinished lanes. Rows of a
TCOPY and a load that is being made again are given up, and the instruction's counter raise with them. -/
def State.accessFault (s : State) (c : Cx) (f : ParkedFault) : State :=
  let s := s.onWarp c (fun x => { x with fault := none, landed := (0, 0, 0, 0) })
  let s := match f.raised with
    | some (p, n) => s.onWarp c (fun x => x.setCount p (x.count p - n))
    | none => s
  let s := if f.kind = 5 ∨ f.again.isSome then s.dropRows c.w else s
  let s := match f.op.bind s.op with
    | some o => s.dropOp o
    | none => s
  let s := s.disown c.w
  s.trapAt { c with sp := f.split, split := c.warp.split f.split } .access f.pc f.lanes f.addr

/-- Every load of a warp that is to be made again and has no translation yet tries once more (R96, R440). -/
def State.reissueAll (s : State) (w : Nat) : State :=
  (s.ops.filter (fun o => o.warp == w)).foldl (fun s o => match o.kind with
    | .load _ _ _ _ _ _ 2 _ => s.reissueLoad o
    | .ldt _ _ _ _ _ _ _ _ => s.reissueLoad o
    | _ => s) s

/-- A warp's fault has been resolved and its workgroup runs: it replays the instruction for the unfinished lanes (R66), or takes
ACCESS (R67). An instruction whose fetch had faulted has not been executed; it is no replay but of an instruction that replayed as its
word was fetched. -/
def State.takeResolved (s : State) (w : Nat) : State :=
  match s.cxOf w 0 with
  | none => s
  | some c =>
    match c.warp.fault with
    | none => s
    | some f =>
      if c.warp.life ≠ .running ∨ c.group.st ≠ .running then s
      else match f.resolved with
        | none => s
        | some false => s.accessFault c f
        | some true =>
          match f.op with
          | some _ => (s.onWarp c (fun x => { x with fault := none })).reissueAll w
          | none => s.onWarp c (fun x => { x with
              fault := none, replay := if f.kind = 3 then f.again.map (fun r => (f.split, r)) else some (f.split, f.lanes, f.raised) })

/-- FAULT_REPLAY (R66). -/
def execFaultReplay (w : Nat) (s : State) : Out := .next (s.takeResolved w)

/-- Bytes of a structure in memory that the host reads, written by a die as a system-scope write (R123). -/
def State.tellHost (s : State) (d a : Nat) (l : List Byte) : State := (s.writeAt d a l).writeBack d a l.length

/-- A record fails (R456): the queue stops at HEAD, its descriptor tells why, and the host is notified. -/
def State.queueError (s : State) (q code : Nat) : State :=
  let d := tget Queue.reset s.queues q
  let a := (s.die d.owner).qtbase + 64 * q
  let head := s.home (a + 16) 4
  let s := { s with queues := tset Queue.reset s.queues q { d with fault := none, work := .idle } }
  let s := (s.tellHost d.owner (a + 24) (toBytes code 2)).tellHost d.owner (a + 28) head
  s.note 3 d.owner (toBytes q 4 ++ toBytes code 2 ++ [0, 0] ++ head)

/-- What the resolution of a record does to its agent: it tries again, or gives up (R427, R500). -/
def State.resolveAgent (s : State) (agent : Nat × Nat) (replay : Bool) : State :=
  match agent.1 with
  | 0 => s.setParked agent.2 (fun f => { f with resolved := some replay })
  | 1 => if replay then s.setStream agent.2 (fun x => { x with st := .run, fault := none }) else s.stopStream agent.2 2
  | 2 => if replay then s.retryCompletion agent.2 else s.dropCompletion agent.2
  | _ =>
    let q := agent.2
    let d := tget Queue.reset s.queues q
    let s := { s with queues := tset Queue.reset s.queues q { d with fault := none } }
    if replay then s else s.queueError q 3

/-- The claimed record with the token leaves the queue and its agent is told; none where no claimed record has it (R427). -/
def State.resolveToken (s : State) (d token : Nat) (replay : Bool) : Option State :=
  match (s.die d).faults.find? (fun r => r.token == token && r.claimed.isSome) with
  | none => none
  | some r => some ((s.setDie d (fun x => { x with faults := x.faults.filter (fun q => q.token != token) })).resolveAgent r.agent replay)

/-- FLTQ.RPL (R427): first a device-scope release. -/
def execFltqRpl (d a : BitVec 7) (s : State) : Out :=
  issue s (fun c => { once true Accept.none c [sref a.toNat] (sref d.toNat) with priv := true }) (fun c =>
    match s.resolveToken c.die (c.warp.sreg a.toNat).toNat true with
    | none => .next (s.now c [.s d.toNat 1 false])
    | some t => if s.released c.w c.die 5 = false then .next s else .next (t.now c [.s d.toNat 0 false]))

/-- FLTQ.ACC (R427): a warp whose workgroup runs takes ACCESS at once (R67). -/
def execFltqAcc (d a : BitVec 7) (s : State) : Out :=
  issue s (fun c => { once true Accept.none c [sref a.toNat] (sref d.toNat) with priv := true }) (fun c =>
    let token := (c.warp.sreg a.toNat).toNat
    let agent := ((s.die c.die).faults.find? (fun r => r.token == token)).map (fun r => r.agent)
    match s.resolveToken c.die token false with
    | none => .next (s.now c [.s d.toNat 1 false])
    | some t =>
      let t := match agent with
        | some (0, w) => t.takeResolved w
        | _ => t
      .next (t.now c [.s d.toNat 0 false]))

/-! ### Walks and promotion -/

/-- Translations that the L2 TLBs of a die hold at most: 3,072 for each cluster (R21). -/
abbrev tlbRoom : Nat := 2 * 3072

/-- The last n elements of a list. -/
def lastOf {α : Type} (n : Nat) (l : List α) : List α := l.drop (l.length - n)

/-- The L2 TLB of a die drops its entry for a page (R423). -/
def State.dropTlb (s : State) (d asid va : Nat) : State :=
  s.setDie d (fun x => { x with tlb := x.tlb.filter (fun t => !(t.core.isNone && t.asid == asid && t.va == va)) })

/-- A TLB takes an entry for a page: that of a core or, for none, the die's L2 TLB; a full one drops its oldest (assumption 16). -/
def Die.fillTlb (x : Die) (core : Option Nat) (room : Nat) (e : TlbEnt) : Die :=
  let mine := x.tlb.filter (fun t => t.core == core && !(t.asid == e.asid && t.va == e.va && t.size == e.size))
  { x with tlb := x.tlb.filter (fun t => t.core != core) ++ lastOf room (mine ++ [{ e with core := core }]) }

/-- The physical addresses of the entries that a walk from a table at a level reads (R421). -/
def walkReads (s : State) : Nat → Nat → Nat → List Nat
  | 0, table, va => [table + walkIndex 0 va]
  | n + 1, table, va =>
    let a := table + walkIndex (n + 1) va
    let e := s.pte a
    if bit e 0 && !pteMalformed (n + 1) e && bit e 1 then a :: walkReads s n (bits e 8 44 * 256) va else [a]

/-- PAGE_WALK (R423): a walk of the slot's tables fills the die's L2 TLB; one that faults leaves it as it was. Walks read entries as
device-scope acquires. -/
def execPageWalk (d ctx va : Nat) (s : State) : Out :=
  let c := s.ctx ctx
  if 4 ≤ d ∨ c.valid = false ∨ c.ptroot = 0 then .next s
  else
    let s := s.acquire d 5
    let s := (walkReads s 4 c.ptroot (va % vaMod)).foldl (fun (s : State) a => s.injectMem a 8 true) s
    match walkFrom s 4 c.ptroot (va % vaMod) with
    | .error _ => .next s
    | .ok (e, level) =>
      let base := va % vaMod / pageBytes level * pageBytes level
      .next (s.setDie d (fun x => x.fillTlb none tlbRoom ⟨c.asid, base, level, BitVec.ofNat 64 e, none⟩))

/-- A core's L1 TLB takes the leaf of an address as the core sees it (R21); what faults it does not hold (R423). -/
def State.fillL1Tlb (s : State) (core ctx va : Nat) : State :=
  let c := s.ctx ctx
  if 4 * Config.dieCores ≤ core ∨ c.valid = false ∨ c.ptroot = 0 then s
  else match s.leaf (4 + core) ctx (va % vaMod) with
    | .error _ => s
    | .ok t => s.setDie (core / Config.dieCores) (fun x => x.fillTlb (some core) 96 ⟨c.asid, t.base, t.size, BitVec.ofNat 64 t.pte, none⟩)

/-- A core's L1 TLB drops its entry for a page. -/
def State.dropL1Tlb (s : State) (core asid va : Nat) : State :=
  s.setDie (core / Config.dieCores) (fun x => { x with tlb := x.tlb.filter (fun t => !(t.core == some core && t.asid == asid && t.va == va)) })

/-- Lines that a core's L1 data cache holds (R21): 96 KiB. -/
abbrev l1Lines : Nat := 768

/-- A core's L1 data cache takes a clean copy of a global line; a full one drops its oldest. A copy shows what the die sees: a write is
visible to reads on a die as soon as the die applies it (R105), so that no copy ever gives another value (R26). -/
def State.lineFill (s : State) (core line : Nat) : State :=
  if 4 * Config.dieCores ≤ core then s
  else { s with l1 := tset [] s.l1 core (lastOf l1Lines ((tget [] s.l1 core).filter (fun l => l != line) ++ [line])) }

/-- A core's L1 data cache drops its copy of a line. -/
def State.lineDrop (s : State) (core line : Nat) : State :=
  { s with l1 := tset [] s.l1 core ((tget [] s.l1 core).filter (fun l => l != line)) }

/-- SPLIT_PROMOTION (R42): a split that has been continuously ready for 4,028 slot cycles. -/
def execSplitPromotion (w sp : Nat) (s : State) : Out :=
  match s.waiting w sp with
  | none => .next s
  | some c =>
    if 4 ≤ sp ∨ c.split.wait ≠ .ready ∨ s.slotCyc c.warp.core c.warp.slot < c.split.readyFrom + 4028 then .next s
    else .next (s.onWarp c (fun x => x.setSplit sp (fun p => { p with promoted := true })))

end Sys2Proof.Machine
end

