-- ==== Sys2Proof/Machine/Traps.lean ====
section
/-! DEFINITION. Skid, trap records and their delivery, the return from a trap (R69 to R73, R433 to R435), and the stops of a
pre-emption request (R74 to R77, R437). -/

namespace Sys2Proof.Machine

/-- The record of how a warp stands stopped: that of its stop, or of one stopped at its YIELD. -/
def Warp.stopRec (x : Warp) : StopRec :=
  match x.life with
  | .stopped r => r
  | _ => x.plainStop 0 .none false

/-- The 32-byte trap record of a warp (R72). A warp with CODE 0 that is parked on a fault names its parked instruction. -/
def Warp.trapRecord (x : Warp) : List Byte :=
  if x.life = .exited then toBytes (field 1 21 1 + field x.idx 24 7) 32
  else
    let r := x.stopRec
    let own := r.code != .none
    let park := x.fault.isSome
    let split := match x.fault with | some f => if own then r.split else f.split | none => r.split
    let pc := match x.fault with | some f => if own then r.pc else f.pc | none => if own then r.pc else (x.split r.split).first
    let lanes := match x.fault with | some f => if own then r.lanes.toNat else f.lanes.toNat | none => r.lanes.toNat
    let w0 := r.code.num + field r.skid 8 4 + field r.cyc 12 7 + field (b2n r.primary) 19 1 + field (b2n park) 20 1
      + field split 22 2 + field x.idx 24 7
    toBytes w0 8 ++ toBytes (pc % vaMod) 8 ++ toBytes lanes 8 ++ toBytes r.info 8

/-- A sibling of a trapped warp stops at an instruction boundary (R69). -/
def State.skidStop (s : State) (c : Cx) : State :=
  (s.stopWarp c.w (c.warp.plainStop (s.clockOf c) .none false)).settle c.gid

/-- A sibling of a trapped warp is in its skid and may stop at any instruction boundary (R69). A replay that it owes it makes when it
resumes (R78). -/
def Cx.inSkid (c : Cx) : Bool := c.group.st == .halting && c.warp.life == .running

/-- SKID_STOP (R69): a sibling of a trapped warp stops at an instruction boundary as its slot clock stands that many cycles, at most
64, after the trap. -/
def execSkidStop (w cyc : Nat) (s : State) : Out :=
  match s.cxOf w 0 with
  | none => .next s
  | some c =>
    if c.inSkid = false ∨ 64 < cyc ∨ c.warp.skidCyc (s.clockOf c) ≠ cyc then .next s else .next (s.skidStop c)

/-- The core reports a machine check of its workgroup once (R434). -/
def State.tell (s : State) (gid d bitNo ctx : Nat) : State :=
  match tfind s.groups gid with
  | some g => if g.told.getLsbD bitNo then s
    else (s.machineCheck d bitNo ctx).setGroup gid (fun g => { g with told := bvPut g.told bitNo true })
  | none => s

/-- The code of a halted workgroup's primary warp (R433). -/
def primaryCode (l : List Warp) : Nat :=
  ((l.find? (fun x => x.life != .exited && x.stopRec.primary)).map (fun x => x.stopRec.code.num)).getD 0

/-- Coordinates of a workgroup by its linear index (R55). -/
def Grid.coords (g : Grid) (lin : Nat) : Nat × Nat × Nat := (lin % g.x, lin / g.x % g.y, lin / g.x / g.y)

/-- The trap-area header (R433), STATE as given. -/
def State.trapHeader (s : State) (g : Group) (gr : Grid) (l : List Warp) (state seq : Nat) : List Byte :=
  let p := gr.coords g.lin
  toBytes state 4 ++ toBytes gr.ctx 2 ++ toBytes (s.ctx gr.ctx).asid 2 ++ toBytes p.1 4 ++ toBytes p.2.1 4 ++ toBytes p.2.2 4
    ++ toBytes (coreNumber g.core) 4 ++ toBytes l.length 2 ++ toBytes gr.w 1 ++ toBytes (primaryCode l) 1 ++ toBytes seq 4
    ++ toBytes g.grid 8 ++ toBytes g.since 8 ++ List.replicate 16 0

/-- TRAP_DELIVERY (R434): with no entry free, or none at all, the records stay on the core and a machine check says so. -/
def execTrapDelivery (gid : Nat) (s : State) : Out :=
  match tfind s.groups gid with
  | none => .next s
  | some g =>
    match tfind s.grids g.grid with
    | none => .next s
    | some gr =>
      let d := g.core / Config.dieCores
      let c := s.ctx gr.ctx
      if g.st ≠ .halted then .next s
      else if c.trapn = 0 then .next (s.tell gid d 4 gr.ctx)
      else
        let a := c.trapbase + 8192 * c.trapnext
        if leAt (s.home a 1) 0 1 % 4 ≠ 0 then .next (s.tell gid d 3 gr.ctx)
        else
          let l := s.groupWarps g
          let seq := ((s.die d).seq + 1) % 2 ^ 32
          let s := s.setDie d (fun x => { x with seq := seq })
          let s := s.writeAt d (a + 64) (l.flatMap Warp.trapRecord)
          let s := s.writeAt d (a + 4) ((s.trapHeader g gr l 1 seq).drop 4)
          let s := (s.writeAt d a (toBytes 1 4)).releaseAll d
          let s := s.setCtx gr.ctx (fun c => { c with trapnext := (c.trapnext + 1) % c.trapn })
          let s := s.setGroup gid (fun g => { g with st := .delivered a, told := 0 })
          let note := toBytes a 8 ++ toBytes gr.ctx 2 ++ toBytes (primaryCode l) 1 ++ toBytes d 1 ++ toBytes seq 4
          let s := s.notice d gr.ctx note
          .next (if c.hostn then s.note 1 d note else s)

/-- The workgroup delivered to a trap-area entry. -/
def State.deliveredTo (s : State) (a : Nat) : Option (Nat × Group) :=
  s.groups.find? (fun g => match g.2.st with | .delivered e => e == a | _ => false)

/-- A split resumes at the PC of its warp's record; one parked at an implicit JOIN stays there unless the PC was edited (R435). -/
def Split.resumeAt (p : Split) (pc : Nat) : Split :=
  if p.st = .park ∧ p.pc ≠ pc then { p with st := .run, pc := pc, hints := [], imp := false } else { p with pc := pc, hints := [] }

/-- A warp resumes from its record (R435): the entry named by SPLIT takes the record's PC, and a split parked at a JOIN executes it
again (R70). -/
def Warp.resumeAt (x : Warp) (split pc stamp : Nat) : Warp :=
  let y := { x with splits := x.splits.map (fun (p : Split) => p.unpark stamp) }
  let y := y.setSplit split (fun p => p.resumeAt pc)
  { y with life := .running, skid := 0, haltAt := none, fault := y.fault.map (fun (f : ParkedFault) => if f.split = split then { f with pc := pc } else f) }

/-- TRET (R435). -/
def execTret (d a : BitVec 7) (s : State) : Out :=
  issue s (fun c => { once (even a) Accept.none c [qref a.toNat] (sref d.toNat) with priv := true }) (fun c =>
    let v := (c.warp.qreg a.toNat).toNat
    if 2 ^ 52 ≤ v then .next (s.trap c .access c.split.mask v)
    else
      let s1 := s.acquire c.die 5
      let head := s1.view c.die v 4096
      if leAt head 0 1 % 4 ≠ 1 then .next (s1.now c [.s d.toNat 1 false])
      else match s1.deliveredTo v with
        | none => .next ((s1.writeAt c.die v (toBytes 0 4)).now c [.s d.toNat 0 false])
        | some (gid, g) =>
          let word := fun (x : Warp) (o : Nat) => leAt head (64 + 32 * x.idx + o) 8
          let go := (s1.groupWarps g).filter (fun x => !bit (word x 0) 21)
          if go.any (fun x => word x 8 % 4 != 0) = true then .next (s1.now c [.s d.toNat 3 false])
          else
            let moved := fun (x : Warp) => (x.replay.map (fun r => r.1)) == some (bits (word x 0) 22 2)
              && (x.split (bits (word x 0) 22 2)).first != word x 8 % vaMod
            let s1 := g.warps.foldl (fun (s : State) w => if ((tfind s.warps w).map moved).getD false then s.giveUp w else s) s1
            let s2 := g.warps.foldl (fun (s : State) w => s.setWarp w (fun x =>
              if x.life = .exited ∨ bit (word x 0) 21 then x else 
                x.resumeAt (bits (word x 0) 22 2) (word x 8 % vaMod) (s.slotCyc x.core x.slot))) s1
            let s3 := s2.setGroup gid (fun g => { g with st := .running })
            .next ((((s3.writeAt c.die v (toBytes 0 4)).openBars gid)).now c [.s d.toNat 0 false]))

/-! ### Pre-emption (R74 to R77, R437) -/

/-- FORCED_SAVE (R75, R77): past the deadline a warp that has not yielded stops, unless it masks traps. -/
def execForcedSave (w : Nat) (s : State) : Out :=
  match s.cxOf w 0 with
  | none => .next s
  | some c =>
    if c.warp.life ≠ .running ∨ s.saveForced c = false then .next s
    else .next (s.haltWarp w (.stopped (c.warp.plainStop (s.clockOf c) .preempt false)) true)

/-- WATCHDOG (R77): a handler of the workgroup still masks traps 65,536 cycles after the deadline. -/
def execWatchdog (gid : Nat) (s : State) : Out :=
  match tfind s.groups gid with
  | none => .next s
  | some g =>
    let late := g.warps.any (fun w => match s.cxOf w 0 with
      | some c => c.warp.tm && c.warp.life == .running && s.saveAsked c && decide (c.deadline + 65536 ≤ s.slotCyc c.warp.core c.warp.slot)
      | none => false)
    match tfind s.grids g.grid with
    | some gr => if late then .next (s.tell gid (g.core / Config.dieCores) 0 gr.ctx) else .next s
    | none => .next s

/-- REQ and HOLD of a slot raised (R437): the deadline runs from the slot clocks as they stand. -/
def State.request (s : State) (ctx : Nat) : State :=
  s.setCtx ctx (fun c => { c with req := true, hold := true, reqAt := if c.req then c.reqAt else s.cyc })

/-- PREEMPT names a slot that it may not name (R437). -/
def Cx.badSlot (c : Cx) (s : State) (n : Nat) : Bool := decide (4096 ≤ n) || !(s.ctx n).valid || n == c.grid.ctx

/-- PREEMPT.REQ (R437). -/
def execPreemptReq (a : BitVec 7) (s : State) : Out :=
  issue s (fun c => { once true Accept.none c [sref a.toNat] [] with priv := true }) (fun c =>
    let n := (c.warp.sreg a.toNat).toNat
    if c.badSlot s n then .next (s.trap c .access c.split.mask n) else .next ((s.request n).advance c))

/-- A workgroup of the slot is resident (R419, R437). -/
def State.slotResident (s : State) (ctx : Nat) : Bool :=
  s.groups.any (fun g => g.2.onCore && ((tfind s.grids g.2.grid).map (fun x => x.ctx == ctx)).getD false)

/-- PREEMPT.WAIT (R437): as it issues it makes the request, once; then it waits until no workgroup of the slot is resident. -/
def execPreemptWait (d a : BitVec 7) (s : State) : Out :=
  issue s (fun c => { once true Accept.none c [sref a.toNat] (sref d.toNat) with priv := true }) (fun c =>
    let n := (c.warp.sreg a.toNat).toNat
    let key := 4 * c.w + c.sp
    if c.badSlot s n then .next (s.trap c .access c.split.mask n)
    else
      let s1 := if (tfind (s.ctx n).waiting key).isSome then s else s.request n
      let start := (tfind (s1.ctx n).waiting key).getD (s1.ctx n).savedCount
      if s1.slotResident n then .next (s1.setCtx n (fun x => { x with waiting := tput x.waiting key start }))
      else
        let s2 := s1.setCtx n (fun x => { x with waiting := terase x.waiting key })
        .next (s2.now c [.s d.toNat (BitVec.ofNat 32 ((s1.ctx n).savedCount - start)) false]))

/-- PREEMPT.CLR (R437). -/
def execPreemptClr (a : BitVec 7) (s : State) : Out :=
  issue s (fun c => { once true Accept.none c [sref a.toNat] [] with priv := true }) (fun c =>
    let n := (c.warp.sreg a.toNat).toNat
    if c.badSlot s n then .next (s.trap c .access c.split.mask n)
    else .next ((s.setCtx n (fun x => { x with req := false, hold := false })).advance c))

end Sys2Proof.Machine
end

