-- ==== Sys2Proof/Machine/Launch.lean ====
section
/-! DEFINITION. Grids: launch records, code-object headers and kernel descriptors (R403, R404, R406, R453), what a core can hold
(R60 to R62), admission (R457 to R460), LAUNCH (R266). -/

namespace Sys2Proof.Machine

/-! ### Starting state -/

/-- A warp as it starts (R460): entry 0 runs with the launched lanes at the entry address, and q16 holds KARG. -/
def Warp.start (group idx core slot : Nat) (landing : Bool) (lanes : Mask) (entry : Nat) (karg : DWord) : Warp :=
  { group := group, idx := idx, core := core, slot := slot, landing := landing, life := .running, v := []
    s := tset 0 (tset 0 [] 16 (karg.truncate 32)) 17 ((karg >>> 32).truncate 32)
    k := [], t := [], h := [], vE := 0, sE := 0, kE := 0, tE := 0, hE := 0, vP := 0, sP := 0, kP := 0, gld := 0, gst := 0
    lrm := 0, tcp := 0, tmd := 0, peer := none, late := none, fstat := 0
    splits := [{ Split.free with st := .run, pc := entry, mask := lanes }, Split.free, Split.free, Split.free]
    joins := [], nb := 0, latch := none, openSet := [], batches := [], mrdys := [], tm := false, fault := none, replay := none
    landed := (0, 0, 0, 0), sufx := none, bound := 0, spoilt := 0, attnZ := [], kept := [], tlbinvs := [], skid := 0
    haltAt := none, loose := [], last := 0, owed := [], part := none }

/-- A warp whose splits are created at a cycle of its slot (R41, R42). -/
def Warp.created (x : Warp) (n : Nat) : Warp := { x with splits := x.splits.map (fun (p : Split) => p.rebase n) }

/-- A launch of one workgroup of one warp of 64 lanes under slot 0, as firmware is launched. -/
def Grid.firmware : Grid :=
  { ctx := 0, w := 64, vregs := 128, agr := 0, wgr := 0, cgr := 0, wgsize := 64, cluster := 0, coop := false, migr := false
    cap := 0, priv := 0, entry := 0, kdesc := 0, x := 1, y := 1, z := 1, karg := 0, depth := 1, parent := none, doneSem := 0
    bind := none, die := 2, anyDie := false, owner := 2, prio := 0, device := false, since := 0, next := 1, total := 1
    retired := 0, away := 0, frozen := false, queue := none }

/-- Slot 0 as firmware's own: VALID, PRIV, no page tables. -/
def Ctx.firmware : Ctx := { Ctx.reset with valid := true, priv := true }

/-! ### Launch records (R403 to R406, R452, R453) -/

/-- An address word of a record: bits [63:57] clear, and a multiple. -/
def addrOk (x m : Nat) : Bool := decide (x < vaMod) && x % m == 0

/-- The record's own fields are valid (R452, R453). -/
def launchOk (l : List Byte) : Bool :=
  let w := leAt l 0 8
  let g := leAt l 16 8
  bits w 0 4 == 1 && bits w 24 40 == 0 && addrOk (leAt l 8 8) 65536
    && bits g 60 4 == 0 && bits g 0 20 != 0 && bits g 20 20 != 0 && bits g 40 20 != 0
    && addrOk (leAt l 32 8) 8 && addrOk (leAt l 56 8) 16 && (bit w 7 || leAt l 56 8 == 0)

/-- The header is that of an object for this part (R403). -/
def headerOk (h : List Byte) : Bool := leAt h 0 4 == 0x424F4E4F && leAt h 4 2 == 0x4480 && leAt h 6 2 == 1

/-- A kernel descriptor is valid in its object (R404). -/
def kernelOk (h k : List Byte) : Bool :=
  let entry := leAt k 0 4
  let w := leAt k 8 1
  let v := leAt k 9 1
  let code := leAt h 16 4
  let size := leAt k 16 2
  let cl := leAt k 18 2
  let mig := bit (leAt k 11 1) 1
  entry % 4 == 0 && decide (code ≤ entry) && decide (entry < code + leAt h 20 4)
    && (w == 8 || w == 16 || w == 32 || w == 64) && v % 8 == 0 && decide (8 ≤ v) && decide (v ≤ 128)
    && decide (1 ≤ leAt k 10 1) && decide (leAt k 10 1 ≤ 128) && bits (leAt k 11 1) 2 6 == 0
    && decide (leAt k 12 1 ≤ 48) && decide (leAt k 13 1 ≤ 48) && decide (leAt k 14 1 ≤ 24) && decide (leAt k 15 1 ≤ 4)
    && decide (1 ≤ size) && decide (size ≤ 1024) && (cl == 0 || (decide (2 ≤ cl) && decide (cl ≤ 192)))
    && decide (leAt k 20 4 ≤ 65536) && decide (leAt k 26 2 ≤ leAt h 60 2) && (k.drop 28).all (fun b => b == 0)
    && !(mig && (leAt k 12 1 != 0 || leAt k 13 1 != 0 || leAt k 14 1 != 0 || decide (w < size)))

/-- A grid as its record and descriptor declare it; what the launcher supplies is filled in after. -/
def gridOf (ctx : Nat) (l k : List Byte) (stream : Nat) : Grid :=
  let w := leAt l 0 8
  let g := leAt l 16 8
  { Grid.firmware with
    ctx := ctx
    w := leAt k 8 1
    vregs := leAt k 9 1
    agr := leAt k 12 1
    wgr := leAt k 13 1
    cgr := leAt k 14 1
    wgsize := leAt k 16 2
    cluster := leAt k 18 2
    coop := bit (leAt k 11 1) 0
    migr := bit (leAt k 11 1) 1
    cap := leAt k 24 2
    priv := leAt k 20 4
    entry := leAt l 8 8 + leAt k 0 4
    x := bits g 0 20
    y := bits g 20 20
    z := bits g 40 20
    karg := BitVec.ofNat 64 (leAt l 24 8)
    doneSem := leAt l 32 8
    bind := if bit w 7 then some (leAt l 8 8 + stream, leAt l 40 8, leAt l 48 8, leAt l 56 8) else none
    die := bits w 4 2
    anyDie := bit w 6
    next := 0
    total := bits g 0 20 * bits g 20 20 * bits g 40 20 }

/-- n bytes of an object as die d reads them. -/
def State.objBytes (s : State) (d ctx va n : Nat) : Except (WalkFault × Nat) (State × List Byte) :=
  match s.pieces d ctx .load va n with
  | .error e => .error e
  | .ok l => let r := s.piecesRead 0 d ctx l; .ok (r.1, r.2.1)

/-- What a launch record names, read under a slot's translations: none where the launch is invalid (R453). -/
def State.readLaunch (s : State) (d ctx : Nat) (l : List Byte) : Except (WalkFault × Nat) (State × Option Grid) :=
  if !launchOk l then .ok (s, none)
  else
    let obj := leAt l 8 8
    match s.objBytes d ctx obj 128 with
    | .error e => .error e
    | .ok (s, h) =>
      let kidx := bits (leAt l 0 8) 8 16
      if !headerOk h || decide (leAt h 44 2 ≤ kidx) then .ok (s, none)
      else
        let kva := obj + leAt h 40 4 + 64 * kidx
        match s.objBytes d ctx kva 64 with
        | .error e => .error e
        | .ok (s, k) =>
          let bind := bit (leAt l 0 8) 7
          let n := leAt k 26 2
          let count := bits (leAt l 16 8) 0 20 * bits (leAt l 16 8) 20 20 * bits (leAt l 16 8) 40 20
          if !kernelOk h k || (bind && n == 0) || (leAt k 18 2 != 0 && count % leAt k 18 2 != 0) then .ok (s, none)
          else if bind then
            match s.objBytes d ctx (obj + leAt h 56 4 + 16 * (n - 1)) 16 with
            | .error e => .error e
            | .ok (s, t) => .ok (s, some { gridOf ctx l k (leAt t 0 4) with kdesc := kva })
          else .ok (s, some { gridOf ctx l k 0 with kdesc := kva })

/-! ### What a core can hold (R22, R23, R60 to R62) -/

/-- Warps of one of the grid's workgroups. -/
def Grid.warpsPer (g : Grid) : Nat := ceilDiv g.wgsize g.w
/-- Vector register file bytes of one of its warps (R22). -/
def Grid.warpBytes (g : Grid) : Nat := 4 * g.w * g.vregs

/-- Warps and register bytes held in each slot of a core, and granules of each buffer. -/
structure CoreUse where
  slots : List (Nat × Nat)
  gran  : List Nat
deriving DecidableEq, Repr

/-- An idle core. -/
def CoreUse.idle : CoreUse := ⟨[(0, 0), (0, 0), (0, 0), (0, 0)], [0, 0, 0]⟩

/-- n warps of so many bytes placed from slot b on (R60). -/
def slotsFrom (l : List (Nat × Nat)) (n size b : Nat) : List (Nat × Nat) :=
  (List.range n).foldl (fun l w =>
    let k := (b + w) % 4
    let u := l.getD k (0, 0)
    lset l k (u.1 + 1, u.2 + size)) l

/-- Every slot within its 16 warps and its 64 KiB. -/
def slotsOk (l : List (Nat × Nat)) : Bool := l.all (fun u => decide (u.1 ≤ 16) && decide (u.2 ≤ 65536))

/-- A core with one more workgroup of a grid, and the first slot b with which it fits; none where none does (R60). -/
def CoreUse.add (u : CoreUse) (g : Grid) : Option (CoreUse × Nat) :=
  let gr := [u.gran.getD 0 0 + g.agr, u.gran.getD 1 0 + g.wgr, u.gran.getD 2 0 + g.cgr]
  if gr.getD 0 0 ≤ 48 ∧ gr.getD 1 0 ≤ 48 ∧ gr.getD 2 0 ≤ 24 then
    ((List.range 4).find? (fun b => slotsOk (slotsFrom u.slots g.warpsPer g.warpBytes b))).map (fun b =>
      (⟨slotsFrom u.slots g.warpsPer g.warpBytes b, gr⟩, b))
  else none

/-- Workgroups of a grid that an idle core holds at once; a slot's 16 warps bound them by 64. -/
def CoreUse.room (g : Grid) : Nat → CoreUse → Nat
  | 0, _ => 0
  | n + 1, u => match u.add g with
    | some (v, _) => 1 + CoreUse.room g n v
    | none => 0

/-- Workgroups of the grid that one idle core holds (R61). -/
def Grid.perCore (g : Grid) : Nat := CoreUse.room g 64 CoreUse.idle

/-- The grid's die, or every die for a host grid with ANY (R458). -/
def Grid.dies (g : Grid) : List Nat := if g.anyDie then List.range 4 else [g.die]

/-- A core counts for the never-fits tests (R61, R62, R491): in service, or being replaced. -/
def State.countsFor (s : State) (core : Nat) : Bool :=
  s.inService core || (s.die (core / Config.dieCores)).coresvc.active == some (core % Config.dieCores)

/-- Cores of a cluster that will never accept work: their spares are used up (R491). -/
def State.lostCores (s : State) (d cl : Nat) : Nat :=
  let x := s.die d
  (x.outCores.filter (fun i => i / Config.clusterCores == cl && x.coresvc.active != some i)).length

/-- The grid could never fit (R61, R62). -/
def State.neverFits (s : State) (g : Grid) : Bool :=
  let n := g.perCore
  let cores := fun (d cl : Nat) => (List.range Config.clusterCores).filter (fun i =>
    s.countsFor (d * Config.dieCores + cl * Config.clusterCores + i))
  n == 0
    || (g.cluster != 0 && g.dies.all (fun d => [0, 1].all (fun cl => decide ((192 - s.lostCores d cl) * n < g.cluster))))
    || (g.coop && decide (g.dies.foldl (fun k d => [0, 1].foldl (fun k cl =>
        let room := (cores d cl).length * n
        k + (if g.cluster = 0 then room else room / g.cluster * g.cluster)) k) 0 < g.total))

/-- The workgroup's bound stream still runs, so that its buffers are held (R331). -/
def State.streamRuns (s : State) (g : Group) : Bool :=
  match g.stream.bind (tfind s.streams) with
  | some x => (match x.st with | .stopped _ => false | .saved => false | _ => true)
  | none => false

/-- Workgroups of the grid that share a cluster with a workgroup. -/
def State.clusterOf (s : State) (g : Group) (gr : Grid) : List (Nat × Group) :=
  if gr.cluster = 0 then []
  else s.groups.filter (fun x => x.2.grid == g.grid && x.2.lin / gr.cluster == g.lin / gr.cluster)

/-- The granules that a workgroup holds (R59, R83, R331). -/
def State.granules (s : State) (g : Group) (gr : Grid) : List Nat :=
  if g.onCore || (g.st == .exited && s.streamRuns g) then [gr.agr, gr.wgr, gr.cgr]
  else if g.st == .exited && (s.clusterOf g gr).any (fun x => x.2.onCore) then [gr.agr, 0, 0]
  else [0, 0, 0]

/-- What a core holds now. -/
def State.coreUse (s : State) (core : Nat) : CoreUse :=
  (s.groups.filter (fun g => g.2.core == core)).foldl (fun u g =>
    match tfind s.grids g.2.grid with
    | none => u
    | some gr =>
      let b := s.granules g.2 gr
      let gran := [u.gran.getD 0 0 + b.getD 0 0, u.gran.getD 1 0 + b.getD 1 0, u.gran.getD 2 0 + b.getD 2 0]
      let slots := if g.2.onCore then g.2.warps.foldl (fun l w =>
        match tfind s.warps w with
        | some x => if x.landing then l else
          let v := l.getD x.slot (0, 0)
          lset l x.slot (v.1 + 1, v.2 + gr.warpBytes)
        | none => l) u.slots else u.slots
      ⟨slots, gran⟩) CoreUse.idle

/-! ### Admission (R459, R460) -/

/-- In-service cores of a list in the dispatcher's order: fewest resident warps, then the lowest (R459). -/
def State.coreOrder (s : State) (cores : List Nat) : List Nat :=
  (sortBy (fun (a b : Nat × Nat) => decide (a.1 < b.1))
    ((cores.filter s.inService).map (fun c => (s.residents c, c)))).map (fun p => p.2)

/-- Cores of a die, and of a cluster of it. -/
def dieCoreList (d : Nat) : List Nat := (List.range Config.dieCores).map (fun i => d * Config.dieCores + i)
def clusterCoreList (d cl : Nat) : List Nat :=
  (List.range Config.clusterCores).map (fun i => d * Config.dieCores + cl * Config.clusterCores + i)

/-- The first core of a list that can hold one more workgroup of the grid and has the paths it requires (R37, R459). -/
def State.findCore (s : State) (g : Grid) (cores : List Nat) : Option (Nat × Nat) :=
  (s.coreOrder cores).findSome? (fun c =>
    if g.cap &&& s.mmaFmt c = g.cap then ((s.coreUse c).add g).map (fun r => (c, r.2)) else none)

/-- The copy engine of a die that holds the fewest streams (R454). -/
def State.engineFor (s : State) (d : Nat) : Nat :=
  let count := fun (e : Nat) => (s.streams.filter (fun x => x.2.die == d && x.2.engine == e
    && (match x.2.st with | .stopped _ => false | _ => true))).length
  (List.range 32).foldl (fun b e => if count e < count b then e else b) 0

/-- A stream starts on a die's copy engine. -/
def State.startStream (s : State) (x : Stream) : State × Nat :=
  let n := s.uid
  ({ s with uid := n + 1, streams := tput s.streams n { x with engine := s.engineFor x.die } }, n)

/-- The bound stream of the workgroup of linear index w (R454). -/
def Grid.boundStream (g : Grid) (d gid w : Nat) : Option Stream :=
  g.bind.map (fun b => { die := d, engine := 0, ctx := g.ctx, st := .run, pc := b.1
                         xb := BitVec.ofNat 64 (b.2.1 + w * b.2.2.1)
                         xs := BitVec.ofNat 64 b.2.2.1
                         lc := none, la := 0, flags := 0, group := some gid, status := b.2.2.2 + 16 * w
                         doneSem := 0, queue := none, fault := none, moved := 0, quota := none })

/-- A core is woken and its instruction cache holds nothing from before (R27, R477); the die has applied what went before (R114). -/
def State.wakeCore (s : State) (core : Nat) : State :=
  let d := core / Config.dieCores
  let s := s.setDie d (fun x => { x with gated := ldel x.gated (core % Config.dieCores) })
  { (s.applyAll d) with icache := terase s.icache core }

/-- A workgroup placed on a core from slot b on (R60, R85, R460). -/
def State.putGroup (s : State) (gid : Nat) (g : Grid) (lin core b : Nat) : State :=
  let s := s.wakeCore core
  let n := g.warpsPer
  let u := s.uid
  let gr : Group := { grid := gid, lin := lin, core := core, warps := (List.range n).map (fun i => u + 1 + i), st := .running
                      abuf := [], wbuf := [], cbuf := [], bufP := [], priv := s.privNext, children := 0, stream := none
                      since := 0, told := 0 }
  let size := n * g.w * g.privSize
  let s := { s with uid := u + 1 + n, groups := tput s.groups u gr, privNext := s.privNext + ceilDiv size 256 * 256 }
  let s := (List.range n).foldl (fun (s : State) i =>
    let m := fullMask (min g.w (g.wgsize - i * g.w))
    let k := (b + i) % 4
    { s with warps := tput s.warps (u + 1 + i) ((Warp.start u i core k false m g.entry g.karg).created (s.slotCyc core k)) }) s
  match g.boundStream (core / Config.dieCores) u lin with
  | none => s
  | some x => let r := s.startStream x; r.1.setGroup u (fun y => { y with stream := some r.2 })

/-- One workgroup of a grid admitted to one of the cores, if one can hold it. -/
def State.admitOne (s : State) (gid : Nat) (g : Grid) (lin : Nat) (cores : List Nat) : Option State :=
  (s.findCore g cores).map (fun p => s.putGroup gid g lin p.1 p.2)

/-- So many workgroups from a linear index on, all or none. -/
def State.admitRun (s : State) (gid : Nat) (g : Grid) (cores : List Nat) : Nat → Nat → Option State
  | _, 0 => some s
  | lin, n + 1 => (s.admitOne gid g lin cores).bind (fun t => t.admitRun gid g cores (lin + 1) n)

/-- A cluster admitted to core cluster 0 of a die if all of it fits there, else to core cluster 1 (R459). -/
def State.admitCluster (s : State) (gid : Nat) (g : Grid) (lin d : Nat) : Option State :=
  (s.admitRun gid g (clusterCoreList d 0) lin g.cluster).or (s.admitRun gid g (clusterCoreList d 1) lin g.cluster)

/-- Free warp positions of a die (R458). -/
def State.freePositions (s : State) (d : Nat) : Nat :=
  ((dieCoreList d).filter s.inService).foldl (fun n c => n + (64 - s.residents c)) 0

/-- The dies in the order in which a grid tries them for a whole dispatch step (R458, assumption 139). -/
def State.dieOrder (s : State) (g : Grid) : List Nat :=
  if g.anyDie then
    (sortBy (fun (a b : Nat × Nat) => decide (b.1 < a.1)) ((List.range 4).map (fun d => (s.freePositions d, d)))).map (fun p => p.2)
  else [g.die]

/-- The next workgroup, or the next whole cluster, admitted to the first die of a list that can (R458); the count admitted. None over a
lost link, where it waits for that die (R466). -/
def State.admitNext (s : State) (dies : List Nat) (gid : Nat) (g : Grid) : Option (State × Nat) :=
  let fit := dies.findSome? (fun d =>
    if g.cluster = 0 then (s.admitOne gid g g.next (dieCoreList d)).map (fun t => (d, t, 1))
    else (s.admitCluster gid g g.next d).map (fun t => (d, t, g.cluster)))
  fit.bind (fun r => if s.reaches g.owner r.1 then some r.2 else none)

/-- Workgroups admitted one after another until one does not fit or none is left. -/
def State.admitWhile (s : State) (dies : List Nat) (gid : Nat) : Nat → State
  | 0 => s
  | n + 1 =>
    match tfind s.grids gid with
    | none => s
    | some g =>
      if g.total ≤ g.next then s
      else match s.admitNext dies gid g with
        | none => s
        | some (t, k) => State.admitWhile (t.setGrid gid (fun g => { g with next := g.next + k })) dies gid n

/-! ### LAUNCH (R57, R58, R266) -/

/-- The priority that the queue of a grid's depth-1 ancestor has now (R457); firmware's own grid has none. -/
def State.ancestorPrio (s : State) : Nat → Grid → Nat
  | 0, _ => 0
  | n + 1, g =>
    match g.queue with
    | some q => (tget Queue.reset s.queues q).prio
    | none => match (g.parent.bind (tfind s.groups)).bind (fun x => tfind s.grids x.grid) with
      | some h => s.ancestorPrio n h
      | none => 0

/-- A grid enters the pending list of a die with the next identifier (R457, R460). -/
def State.enterGrid (s : State) (d : Nat) (g : Grid) : State :=
  let x := s.die d
  let id := 4 * x.gridCount + d
  let s := s.setDie d (fun x => { x with gridCount := x.gridCount + 1, pending := x.pending ++ [id] })
  { s with grids := tput s.grids id { g with owner := d, since := x.time } }

/-- A child grid's own fields (R58, R266, R458). -/
def Cx.child (c : Cx) (g : Grid) : Grid :=
  { g with
    die := if g.anyDie then c.die else g.die
    anyDie := false
    depth := c.grid.depth + 1
    parent := some c.gid
    prio := 0
    device := true
    queue := none }

/-- What LAUNCH finds of a record: its status, and the grid that it queues (R266). -/
def State.launchStatus (s : State) (c : Cx) (g : Option Grid) : Nat × Option Grid :=
  match g with
  | none => (2, none)
  | some g =>
    let g := c.child g
    if s.neverFits g then (1, none) else (0, some g)

/-- LAUNCH takes a queue entry and goes on: its status is to come. The parent's workgroup waits for the child from here on (R59). -/
def State.takeEntry (s : State) (c : Cx) (g : Option Grid) (dst : Nat) : State :=
  let r := s.launchStatus c g
  let s := s.setDie c.die (fun x => { x with dlq := x.dlq + 1 })
  let s := if r.2.isSome then s.setGroup c.gid (fun y => { y with children := y.children + 1 }) else s
  (s.begin c [.s dst] none (.launch r.1 r.2 dst)).1

/-- The record and all that it names as LAUNCH reads them, or the state where it parks, waits or traps. -/
def State.launchRead (s : State) (c : Cx) (va : Nat) : Except State (State × Option Grid) :=
  match s.readVa c 9 none va 64 with
  | .error t => .error t
  | .ok (s1, l, bad) =>
    match bad with
    | some a => .error (s1.trap c .poison c.split.mask a)
    | none =>
      match s1.readLaunch c.die c.grid.ctx l with
      | .error e => .error (s1.parkCounted c none 9 e)
      | .ok r => .ok r

/-- LAUNCH (R266). -/
def execLaunch (d a : BitVec 7) (s : State) : Out :=
  issue s (fun c => once (even a) Accept.none c [qref a.toNat] (sref d.toNat)) (fun c =>
    let va := (c.warp.qreg a.toNat).toNat % vaMod
    if c.warp.idx ≠ 0 then .next (s.trap c .illegal c.split.mask 0)
    else if c.grid.depth = 10 then .next (s.trap c .depth c.split.mask 0)
    else if va % 64 ≠ 0 then .next (s.trap c .misalign c.split.mask va)
    else match s.launchRead c va with
      | .error t => .next t
      | .ok (s1, g) =>
        if s.released c.w c.die 5 = false then .next s
        else if Config.launchQueue ≤ (s.die c.die).dlq then .next (s.hold c (.launch d.toNat va))
        else .next ((s1.takeEntry c g d.toNat).advance c))

/-- A LAUNCH that holds a queue entry ends: its grid enters the pending list or was rejected, and the entry is free (R266). -/
def State.launchEnd (s : State) (o : Op) : State :=
  match o.kind with
  | .launch st g dst =>
    let s := match g with | some g => s.enterGrid o.die g | none => s
    let s := s.setDie o.die (fun x => { x with dlq := x.dlq - 1 })
    (s.setWarp o.warp (fun w => w.putS dst (BitVec.ofNat 32 st) false)).endOp o
  | _ => s

/-- LAUNCH_QUEUE_ENTRY (R266): a LAUNCH that waits for space takes an entry once one is free, or executes again where its record
now faults; one that holds an entry ends with it. -/
def execLaunchQueueEntry (w sp : Nat) (s : State) : Out :=
  match s.ops.find? (fun o => o.warp == w && o.split == sp && match o.kind with | .launch _ _ _ => true | _ => false) with
  | some o => .next (s.launchEnd o)
  | none =>
    match s.waiting w sp with
    | none => .next s
    | some c =>
      match c.split.wait with
      | .launch sd va =>
        if Config.launchQueue ≤ (s.die c.die).dlq then .next s
        else match s.launchRead c va with
          | .error _ => .next (s.unhold c)
          | .ok (s1, g) => .next ((s1.takeEntry c g sd).resume c)
      | _ => .next s

end Sys2Proof.Machine
end

