-- ==== Sys2Proof/Machine/Local.lean ====
section
/-! DEFINITION. Local-buffer loads and stores, own and cluster-remote: majors 0x22 and 0x23 (R81, R82, R84, R311). -/

namespace Sys2Proof.Machine

/-- Access size of a local form: FUNC[1:0] selects .W, .D, .Q or .H (R311). -/
def localSize : Nat → Nat
  | 0 => 4 | 1 => 8 | 2 => 16 | _ => 2

/-- The local address of lane l (R304). -/
def Cx.localAddr (c : Cx) (vo im z l : Nat) : Nat := toBits (c.offset vo 5 im z l) 32

/-- The address names another workgroup of the cluster (R81). -/
def remoteBit (a : Nat) : Bool := bit a 28

/-- The local checks in their order (R82). -/
def State.localChecks (s : State) (c : Cx) (u z : Nat) (l : List (Nat × Nat)) : Option State :=
  let bad := l.filter (fun p => p.2 % z != 0)
  let form := l.filter (fun p => bits p.2 18 2 != 0 || bits p.2 29 3 != 0
    || (remoteBit p.2 && (u != 0 || c.grid.cluster == 0 || decide (c.grid.cluster ≤ bits p.2 20 8))))
  let lim := l.filter (fun p => decide (c.grid.bufSize u < bits p.2 0 18 + z))
  let go := fun (code : TrapCode) (x : List (Nat × Nat)) =>
    some (s.trap c code (maskOf (x.map (fun p => p.1))) ((x.head?.map (fun p => p.2)).getD 0))
  if !bad.isEmpty then go .misalign bad
  else if !form.isEmpty then go .access form
  else if !lim.isEmpty then go .access lim
  else none

/-- How a reissue record names the addresses of an LDL: no base, and the displacement IMM × z (R440). -/
def Cx.localIss (c : Cx) (im z : Nat) : Reissue := ⟨0, c.imm 5 im * z, false⟩

/-- The workgroup that a local address names (R81). -/
def State.localTarget (s : State) (c : Cx) (a : Nat) : Nat :=
  if remoteBit a then
    let lin := c.group.lin / c.grid.cluster * c.grid.cluster + bits a 20 8
    match s.groups.find? (fun g => g.2.grid == c.group.grid && g.2.lin == lin) with
    | some g => g.1
    | none => c.gid
  else c.gid

/-- MOD8 and order of a local form are zero (R224, R311). -/
def accLocal : Accept := { Accept.none with himm := true, hgrd := true, hmod := true }

/-- The buffer bytes that a lane reads in its own workgroup, with poison by 4 bytes. -/
def State.localRead (s : State) (gid u o z : Nat) : State × List Byte × (Nat → Bool) :=
  let p := fun (i : Nat) => match tfind s.groups gid with
    | some g => g.poisonIn u (o + 4 * i) (min z 4)
    | none => false
  if u = 2 then let r := s.cRead gid o z; (r.1, r.2, p)
  else match tfind s.groups gid with
    | some g => (s, g.bytes u o z, p)
    | none => (s, List.replicate z 0, p)

/-- LDL (R311). -/
def execLdl (u : BitVec 2) (z : BitVec 2) (d : BitVec 7) (vo : BitVec 7) (im : BitVec 5) (s : State) : Out :=
  let n := localSize z.toNat
  issue s (fun c =>
    let i := perLane (u != 3 && group z d && c.vok vo.toNat 1 && c.vok d.toNat (groupRegs n)) accLocal c [vref vo.toNat 1]
      (vref d.toNat (groupRegs n))
    { i with pinfo := c.localAddr vo.toNat im.toNat n (lowLane i.poison) }) (fun c =>
    let l := (lanes c.combined).map (fun k => (k, c.localAddr vo.toNat im.toNat n k))
    if c.combined = 0 then .next (s.advance c)
    else match s.localChecks c u.toNat n l with
      | some s' => .next s'
      | none =>
        let rem := l.any (fun p => remoteBit p.2)
        let far := l.filter (fun p => s.localTarget c p.2 != c.gid)
        let near := l.filter (fun p => s.localTarget c p.2 == c.gid)
        if rem = true ∧ c.room .lrm 1 = false then .next s
        else
          let r := near.foldl (fun (acc : State × List RegWrite) p =>
            let x := acc.1.localRead c.gid u.toNat (bits p.2 0 18) n
            (x.1, acc.2 ++ loadWrites d.toNat p.1 n false x.2.1 x.2.2)) (s, [])
          if rem then
            let s1 := (r.1.raise c .lrm 1).onWarp c (fun w => w.writeAll c.grid.w r.2)
            .next ((s1.begin c (vref d.toNat (groupRegs n)) (some (.lrm, 1))
              (.remote false (far.map (fun p => ⟨p.1, p.2, s.localTarget c p.2, [], [], none, 0, none⟩)) n d.toNat (c.localIss im.toNat n))).1.advance c)
          else .next (r.1.laterAs c (vref d.toNat (groupRegs n)) (.ldl r.2 l n d.toNat u.toNat (c.localIss im.toNat n))))

/-- Bytes stored into a buffer, of which some 4-byte elements are poisoned (R102). -/
def State.bufStore (s : State) (gid u o : Nat) (l : List Byte) (p : List Nat) : State :=
  (List.range (ceilDiv l.length 4)).foldl (fun s i => s.bufWrite gid u (o + 4 * i) ((l.drop (4 * i)).take 4) (p.contains i)) s

/-- A store into the own workgroup's buffer; C bytes of an open batch become undefined (R84). -/
def State.localWrite (s : State) (gid u o : Nat) (l : List Byte) (p : List Nat) : State :=
  if u = 2 ∧ s.cPending gid o l.length = true then
    let f := s.freeBytes l.length
    f.1.bufStore gid u o f.2 p
  else s.bufStore gid u o l p

/-- STL (R311): the W-buffer form is a reserved encoding. -/
def execStl (u : BitVec 2) (z : BitVec 2) (d : BitVec 7) (vo : BitVec 7) (im : BitVec 5) (s : State) : Out :=
  let n := localSize z.toNat
  issue s (fun c =>
    let i := perLane ((u == 0 || u == 2) && group z d && c.vok vo.toNat 1 && c.vok d.toNat (groupRegs n)) accLocal c
      [vref vo.toNat 1, vref d.toNat (groupRegs n)] []
    let p := c.poisonLanes [vref vo.toNat 1]
    { i with poison := p, pinfo := c.localAddr vo.toNat im.toNat n (lowLane p) }) (fun c =>
    let l := (lanes c.combined).map (fun k => (k, c.localAddr vo.toNat im.toNat n k))
    if c.combined = 0 then .next (s.advance c)
    else match s.localChecks c u.toNat n l with
      | some s' => .next s'
      | none =>
        let rem := l.any (fun p => remoteBit p.2)
        let far := l.filter (fun p => s.localTarget c p.2 != c.gid)
        let near := l.filter (fun p => s.localTarget c p.2 == c.gid)
        if rem = true ∧ c.room .lrm 1 = false then .next s
        else
          let s1 := near.foldl (fun s p =>
            s.localWrite c.gid u.toNat (bits p.2 0 18) (c.groupBytes d.toNat n p.1) (c.groupPoison d.toNat n p.1)) s
          if rem then
            .next (((s1.raise c .lrm 1).begin c [] (some (.lrm, 1)) (.remote true (far.map (fun p =>
              ⟨p.1, p.2, s.localTarget c p.2, c.groupBytes d.toNat n p.1, c.groupPoison d.toNat n p.1, none, 0, none⟩)) n 0 (c.localIss im.toNat n))).1.advance c)
          else .next (s1.advance c))

/-- REMOTE_LOCAL_COMPLETE (R311): the lanes are performed at the target core in issue order, and LRM falls. -/
def execRemoteLocalComplete (n : Nat) (s : State) : Out :=
  match s.op n with
  | none => .next s
  | some o =>
    match o.kind with
    | .remote store accs z vd _ =>
      if s.inOrder o = false then .next s
      else
        let s1 := accs.foldl (fun s a =>
          if store then s.bufStore a.pa 0 (bits a.va 0 18) a.data a.poison
          else
            let x := s.localRead a.pa 0 (bits a.va 0 18) z
            x.1.setWarp o.warp (fun w => w.writeAll (s.widthOf o.warp) (loadWrites vd a.lane z false x.2.1 x.2.2))) s
        .next (s1.endOp o)
    | _ => .next s

end Sys2Proof.Machine
end

