-- ==== Sys2Proof/Machine/Tile.lean ====
section
/-! DEFINITION. The tile copy: major 0x2A (R323 to R325), row by row. -/

namespace Sys2Proof.Machine

/-- The three forms of TCOPY (R323). -/
inductive TileForm where
  | plain | gath | scat
deriving DecidableEq, Repr

/-- The four registers of a TCOPY descriptor (R323). -/
structure TileDesc where
  aoff : Nat
  wb   : Bool
  n    : Nat
  rb   : Nat
  stride : Int
deriving DecidableEq, Repr

/-- The descriptor in s d to s (d + 3). -/
def Cx.tileDesc (c : Cx) (d : Nat) : TileDesc :=
  let x := fun (i : Nat) => (c.warp.sreg (d + i)).toNat
  { aoff := bits (x 0) 0 18, wb := bit (x 0) 18, n := bits (x 1) 0 8, rb := bits (x 2) 0 14, stride := sext (x 3) 32 }

/-- The value of the first register of an invalid descriptor, or of one that passes the end of its buffer (R323). -/
def Cx.tileBad (c : Cx) (f : TileForm) (d : Nat) : Option Nat :=
  let x := fun (i : Nat) => (c.warp.sreg (d + i)).toNat
  let t := c.tileDesc d
  if t.aoff % 16 ≠ 0 ∨ bits (x 0) 19 13 ≠ 0 ∨ (t.wb ∧ f = .scat) then some (x 0)
  else if bits (x 1) 8 24 ≠ 0 ∨ t.n = 0 ∨ (f ≠ .plain ∧ c.grid.w < t.n) then some (x 1)
  else if bits (x 2) 14 18 ≠ 0 ∨ t.rb % 16 ≠ 0 ∨ t.rb < 16 ∨ 8192 < t.rb then some (x 2)
  else if t.stride % 16 ≠ 0 then some (x 3)
  else none

/-- Global offset of row r (R324). -/
def Cx.rowOff (c : Cx) (f : TileForm) (t : TileDesc) (vo im r : Nat) : Int :=
  c.imm 5 im * 4 + (match f with
    | .plain => (r : Int) * t.stride
    | _ => ((c.warp.vreg vo r).toNat : Int) * t.stride)

/-- The row is copied: every row of the plain form, the rows of active lanes of the others (R324). -/
def Cx.rowOn (c : Cx) (f : TileForm) (r : Nat) : Bool := f == .plain || c.combined.getLsbD r

/-- The 16-byte pieces of a row, or its first fault: a row inside the register's frame uses it whole, another walks (R88). -/
def State.rowPieces (s : State) (c : Cx) (tr : TReg) (n : Need) (rb r : Nat) (off : Int) : List Reach :=
  if tr.covers off rb then (List.range (rb / 16)).map (fun (k : Nat) => s.reach c.seat c.grid.ctx tr n 16 r (off + 16 * k))
  else (List.range (rb / 16)).map (fun (k : Nat) => s.reach c.seat c.grid.ctx { tr with limit := 0 } n 16 r (off + 16 * k))

/-- Rows in a set of up to 256. -/
def rowIn (l : Mask × Mask × Mask × Mask) (r : Nat) : Bool :=
  match r / 64 with
  | 0 => l.1.getLsbD r
  | 1 => l.2.1.getLsbD (r - 64)
  | 2 => l.2.2.1.getLsbD (r - 128)
  | _ => l.2.2.2.getLsbD (r - 192)

/-- A set of rows from a list. -/
def rowSet (l : List Nat) : Mask × Mask × Mask × Mask :=
  let m := fun (k : Nat) => maskOf ((l.filter (fun r => r / 64 == k)).map (fun r => r % 64))
  (m 0, m 1, m 2, m 3)

/-- The row operation of a parked TCOPY that waits for its translation. -/
def State.rowSlot (s : State) (w r : Nat) : Option Nat :=
  (s.ops.find? (fun o => o.warp == w && match o.kind with | .row q _ _ [] _ => q == r | _ => false)).map (fun o => o.id)

/-- One row issued: a new operation, or that of the parked row filled. done is a row that needs no copy. -/
def State.issueRow (s : State) (c : Cx) (r : Nat) (k : OpKind) : State :=
  let segs := match k with | .row _ _ _ l _ => l | _ => []
  match s.rowSlot c.w r with
  | some n => (s.setOp n k).readKv c.die n segs
  | none => (s.begin c [] (some (.tcp, 1)) k).1.readKv c.die s.uid segs

/-- The pieces of row r of a scatter that a replay still writes: not those to the addresses of a higher row that has been issued before it,
whose value stands (R324, R325). -/
def Cx.rowRest (c : Cx) (base : Nat) (off : Nat → Int) (rb : Nat) (issued : List Nat) (r : Nat) (l : List LaneAcc) : List LaneAcc :=
  let past := (issued.filter (fun q => decide (r < q))).flatMap (fun q =>
    (List.range (rb / 16)).map (fun (k : Nat) => vaAt base (off q + 16 * k)))
  if c.warp.replay.isSome then l.filter (fun a => !past.contains a.va) else l

/-- TCOPY in its three forms (R323 to R325). -/
def tileCopy (wf : Bool) (f : TileForm) (d t vo : Nat) (im : BitVec 5) (s : State) : Out :=
  issue s (fun c =>
    let i := perLane (wf && (f == .plain || c.vok vo 1)) (accMem (fun o sc => o == 0 && sc == 0) naMod8) c
      ([sgroup d 4, [.t t]] ++ (if f = .plain then [] else [vref vo 1])) []
    { i with pinfo := (c.warp.treg t).base }) (fun c =>
    let tr := c.warp.treg t
    let td := c.tileDesc d
    let rows := List.range td.n
    let on := rows.filter (fun r => c.rowOn f r)
    let again := c.warp.replay.isSome
    if c.combined = 0 then .next (s.advance c)
    else if !tr.valid then .next (s.trap c .access c.combined 0)
    else match c.tileBad f d with
      | some v => .next (s.trap c .access c.combined v)
      | none =>
        let bad := on.filter (fun r => vaAt tr.base (c.rowOff f td vo im.toNat r) % 16 != 0)
        if bad ≠ [] then
          .next (s.trap c .misalign c.combined (vaAt tr.base (c.rowOff f td vo im.toNat (bad.headD 0))))
        else if c.grid.bufSize (if td.wb then 1 else 0) < td.aoff + td.n * td.rb then
          .next (s.trap c .access c.combined (c.warp.sreg d).toNat)
        else if again = false ∧ c.room .tcp td.n = false then .next s
        else
          let need := if f = .scat then Need.store else .load
          let todo := on.filter (fun r => !(again && rowIn c.warp.landed r))
          let res := todo.map (fun r => (r, s.rowPieces c tr need td.rb r (c.rowOff f td vo im.toNat r)))
          let faults := res.flatMap (fun x => (faultsOf x.2).take 1)
          let s1 := if again then s else s.raise c .tcp td.n
          let parked := again && (rows.any (fun r => (s.rowSlot c.w r).isSome))
          let issued := if f = .scat then on.filter (fun r => !todo.contains r) else []
          let rest := c.rowRest tr.base (c.rowOff f td vo im.toNat) td.rb issued
          let kind := fun (r : Nat) =>
            match res.find? (fun x => x.1 == r) with
            | some x =>
              if faultsOf x.2 = [] then
                (if rest r (oksOf x.2) = [] then OpKind.done
                  else OpKind.row r td.wb (td.aoff + r * td.rb) (rest r (oksOf x.2)) (f == .scat))
              else OpKind.row r td.wb (td.aoff + r * td.rb) [] (f == .scat)
            | none => OpKind.done
          let first := (rows.find? (fun r => !rowIn c.warp.landed r)).getD 0
          let mine := if parked then todo else if again then rows.filter (fun r => decide (first ≤ r)) else rows
          let s2 := mine.foldl (fun s r => s.issueRow c r (kind r)) s1
          let s2 := s2.lowerPath c.w .tcp s2.ops.length
          if faults ≠ [] then
            let fr := faults.map (fun x => x.1)
            let s3 := s2.onWarp c (fun w => { w with landed := rowSet (rows.filter (fun r => !fr.contains r)) })
            let s4 := if c.ctx.priv then s3.dropRows c.w else s3
            .next (s4.parkOn c 5 faults c.combined none (faultVa faults))
          else .next ((s2.onWarp c (fun w => { w with landed := (0, 0, 0, 0) })).advance c))

/-- TCOPY (R323). -/
def execTcopy (d : BitVec 7) (t : BitVec 3) (im : BitVec 5) (s : State) : Out :=
  tileCopy (mult 4 d) .plain d.toNat t.toNat 0 im s
/-- TCOPY.GATH (R323). -/
def execTcopyGath (d : BitVec 7) (t : BitVec 3) (vo : BitVec 7) (im : BitVec 5) (s : State) : Out :=
  tileCopy (mult 4 d) .gath d.toNat t.toNat vo.toNat im s
/-- TCOPY.SCAT (R323). -/
def execTcopyScat (d : BitVec 7) (t : BitVec 3) (vo : BitVec 7) (im : BitVec 5) (s : State) : Out :=
  tileCopy (mult 4 d) .scat d.toNat t.toNat vo.toNat im s

/-- A 16-byte piece read for a row: bytes, and poison of each 4. -/
def State.pieceRead (s : State) (o : Op) (a : LaneAcc) : State × List Byte × (Nat → Bool) :=
  match a.win with
  | some desc =>
    match (s.applyAll o.die).winRead o.warp o.die o.ctx desc a.va 16 with
    | .ok (l, p, f, s') => (s'.winRaise o.die desc f, l, fun i => p.contains i)
    | .error _ => let x := s.freeBytes 16; (x.1, x.2, fun _ => false)
  | none => s.loadBytes o a 16

/-- A row may not land yet: an older access of the warp comes first (R108, R120), among them a lower row of the same scatter to the same
bytes (R324), and a write to a page that is being replaced waits at its home (R201). -/
def State.rowWaits (s : State) (o : Op) (segs : List LaneAcc) (scat : Bool) : Bool :=
  if scat then
    s.winWaits o segs || segs.any (fun a => a.win.isNone && s.before o.warp o.id none a.pa 16)
  else segs.any (fun a => if a.win.isSome then s.winOlder o.warp o.id else s.beforeRow o.warp o.id a.pa)

/-- TCOPY_ROW_LANDED (R324): poison travels with the bytes (R103). -/
def execTcopyRowLanded (n : Nat) (s : State) : Out :=
  match s.op n with
  | none => .next s
  | some o =>
    match o.kind, tfind s.warps o.warp with
    | .row _ wb off segs scat, some w =>
      if segs = [] ∨ segs.any (fun a => a.win.isNone && !s.installed a.pa) = true ∨ s.rowWaits o segs scat = true then .next s
      else
        let parts := (List.range segs.length).zip segs
        if scat then
          match tfind s.groups w.group with
          | none => .next s
          | some g =>
            let data := parts.map (fun p => ({ p.2 with
              data := g.bytes 0 (off + 16 * p.1) 16
              poison := (List.range 4).filter (fun i => g.poisonIn 0 (off + 16 * p.1 + 4 * i) 4) } : LaneAcc))
            let plain := data.filter (fun a => a.win.isNone)
            let s1 := (s.meetWrite o.warp (plainRanges segs 16)).writeNow o.die (plain.flatMap (fun a => cellsAt a.pa a.data))
              (plain.flatMap (fun a => a.spans 16))
            .next ((s1.winWrite o.warp o.die o.ctx (data.filter (fun a => a.win.isSome))).endOp o)
        else
          let s1 := parts.foldl (fun s p =>
            let x := s.pieceRead o p.2
            (List.range 4).foldl (fun s i =>
              s.bufWrite w.group (if wb then 1 else 0) (off + 16 * p.1 + 4 * i) ((x.2.1.drop (4 * i)).take 4) (x.2.2 i)) x.1) s
          .next (s1.endOp o)
    | _, _ => .next s

end Sys2Proof.Machine
end

