-- ==== Sys2Proof/Machine/Fetch.lean ====
section
/-! DEFINITION. Fetching: an instruction word at a split's pc through the core's instruction cache (R27, R209), the words of a
stream instruction (R230), and how a lone instruction is placed for the machine to fetch next. -/

noncomputable section

namespace Sys2Proof.Machine

/-- The word that the core's instruction cache holds for a physical address. -/
def State.cached (s : State) (core pa : Nat) : Option Word := tfind (tget [] s.icache core) (pa / 4)

/-- Words that a core's instruction cache holds (R21): 64 KiB. -/
abbrev cacheWords : Nat := 16384

/-- A word enters the core's instruction cache; a full one drops a word that R27 does not name (assumption 16). -/
def State.cacheFill (s : State) (core pa : Nat) (w : Word) : State :=
  let m := tget [] s.icache core
  if m.length < cacheWords then { s with icache := tset [] s.icache core (tput m (pa / 4) w) }
  else
    let r := s.draw
    { r.2 with icache := tset [] s.icache core (tput (m.eraseIdx (r.1.toNat % m.length)) (pa / 4) w) }

/-- The word at the split's pc with the state after the fetch, or how the step ends: parked on a fault of KIND 3 (R66), POISON
for a poisoned word, or no memory there. A word that no cache holds may have to wait: for a lost link (R466), a held channel (R485), or the
host's answer (R447). -/
def State.fetch (s : State) (c : Cx) : Except Out (State × Word) :=
  let pc := c.split.pc
  match s.translate c.seat c.grid.ctx pc .fetch with
  | .error f =>
    let lanes := (c.warp.replay.map (fun r => r.2.1)).getD c.split.mask
    let t := s.park c f.1 3 f.2 lanes [pc / 65536 * 65536] pc (c.warp.replay.bind (fun r => r.2.2))
    .error (.next (t.onWarp c (fun x => { x with fault := x.fault.map (fun y => { y with again := c.warp.replay.map (fun r => r.2) }) })))
  | .ok t =>
    match s.cached c.warp.core t.pa with
    | some w => .ok (s, w)
    | none =>
      if !s.installed t.pa then .error (.fault (.fetchAborted t.pa))
      else if s.unserved c.die t.pa 4 then .error (.next s)
      else match s.askFor c.w [(t.pa, 4)] with
      | .wait t => .error (.next t)
      | .abort _ => .error (.fault (.fetchAborted t.pa))
      | .ready s =>
        let s := s.meetRead c.die t.pa 4
        if s.poisoned t.pa 4 then .error (.next (s.trap c .poison c.split.mask pc))
        else
        let w : Word := BitVec.ofNat 32 (ofBytes (s.view c.die t.pa 4))
        .ok (s.cacheFill c.warp.core t.pa w, w)

/-- The head word itself is valid (R232): it would be one of an instruction whose operand words are zero. -/
def streamHeadOk (h : Word) (k : Nat) : Bool :=
  match decodeStream (h :: List.replicate k 0) with
  | .ok _ => true
  | .error _ => false

/-- Words of code read for a stream, or the state where they wait (R447, R466, R485). -/
def State.streamWords (s : State) (n : Nat) (x : Stream) (l : List Piece) (k : Nat) : Except State (State × List Word) :=
  if s.piecesHeld x.die l then .error s
  else match s.askFor n (plainPieces l) with
    | .wait t => .error (t.setStream n (fun x => { x with st := .outbound }))
    | .abort t => .error (t.stopStream n 7)
    | .ready s =>
      let r := s.piecesRead 0 x.die x.ctx l
      .ok (r.1, (List.range k).map (fun i => BitVec.ofNat 32 (leAt r.2.1 (4 * i) 4)))

/-- The words of the stream instruction at a stream's pc with the state after the fetch, or the state where it parks, waits or stops (R230,
R330). Of an invalid head word's operand words none is read (R232). -/
def State.streamFetch (s : State) (n : Nat) (x : Stream) : Except State (State × List Word) :=
  match s.streamPieces x .load x.pc 4 with
  | .error e => .error (s.streamEnd n x 0 (some e))
  | .ok l => match s.streamWords n x l 1 with
    | .error t => .error t
    | .ok (s, h) =>
      let h := h.getD 0 0
      match streamLen (h.extractLsb' 26 6).toNat with
      | none => .ok (s, [h])
      | some k =>
        if streamHeadOk h k = false then .ok (s, [h])
        else match s.streamPieces x .load (x.pc + 4) (4 * k) with
          | .error e => .error (s.streamEnd n x 0 (some e))
          | .ok m => match s.streamWords n x m k with
            | .error t => .error t
            | .ok (s, r) => .ok (s, h :: r)

/-! ### What the environment does to the clocks and caches -/

/-- A word leaves a core's instruction cache, so that it is fetched anew (R27). -/
def State.evictWord (s : State) (core word : Nat) : State :=
  { s with icache := tset [] s.icache core (terase (tget [] s.icache core) word) }

/-! ### A lone instruction (see State.withFetchWord) -/

/-- Its workgroup, on core 2.0.0. -/
def Group.lone : Group :=
  { grid := 8, lin := 0, core := 768, warps := [0], st := .running, abuf := [], wbuf := [], cbuf := [], bufP := [], priv := 0
    children := 0, stream := none, since := 0, told := 0 }

/-- A free stream on F0's copy engine 0 under slot 0, at address 0. -/
def Stream.lone : Stream :=
  { die := 2, engine := 0, ctx := 0, st := .run, pc := 0, xb := 0, xs := 0, lc := none, la := 0, flags := 0, group := none
    status := 0, doneSem := 0, queue := none, fault := none, moved := 0, quota := none }

/-- Bytes placed at physical address 0, where F0's L2 starts, with nothing on its way to them. -/
def State.putCode (s : State) (l : List Byte) : State :=
  let drop := fun (w : Write) => { w with bytes := w.bytes.filter (fun c => decide (l.length ≤ c.1)) }
  { s with
    mem := memSetAll s.mem (cellsAt 0 l)
    memP := s.memP.filter (fun w => decide (l.length ≤ 8 * w))
    posted := s.posted.map drop
    wlog := s.wlog.map drop }

/-- A lone warp on core 2.0.0 at address 0, with code there, which issues next. -/
def State.placeWarp (s : State) (l : List Byte) : State :=
  let s := s.putCode l
  { s with
    ctxs := tput s.ctxs 0 Ctx.firmware
    grids := tput s.grids 8 Grid.firmware
    groups := tput s.groups 0 Group.lone
    warps := tput s.warps 0 (Warp.start 0 0 768 0 false (fullMask 64) 0 0)
    icache := terase s.icache 768
    agenda := [.issue 0 0] }

/-- A lone stream at address 0, with code there, which runs next. -/
def State.placeStream (s : State) (l : List Byte) : State :=
  let s := s.putCode l
  { s with ctxs := tput s.ctxs 0 Ctx.firmware, streams := tput s.streams 0 Stream.lone, agenda := [.stream 0] }

/-- A pending operation waits for the host's answer (R447), a lost link or a held channel (R466, R485): its bytes cannot be served at their home now, or the next die
it goes to is not reached. -/
def State.opLost (s : State) (o : Op) : Bool :=
  let lanes := fun (l : List LaneAcc) (z : Nat) => l.any (fun a => a.win.isNone && s.unserved o.die a.pa z)
  s.unanswered o || match o.kind with
  | .load l z _ _ order scope 0 _ => lanes l z || (order == 1 && !s.acquires o.die scope)
  | .atom _ l z _ order scope => lanes l z || (ordAcq order && !s.acquires o.die scope)
  | .store _ l z _ => lanes l z
  | .row _ _ _ l _ => lanes l 16
  | .engine w _ _ => (s.writeRanges w).any (fun r => s.unserved o.die r.1 r.2)
  | .tlbinv _ _ (d :: _) => !s.reaches o.die d
  | _ => false

/-- An event is held by a lost link (R466): it stays queued for that peer and goes no other way (R17). -/
def State.linkHolds (s : State) (i : Instr) : Bool :=
  let own := fun (n : Nat) => (s.op n).any s.opLost
  let going := fun (n d : Nat) => (s.op n).any (fun o => !s.reaches o.die d)
  match i with
  | .loadComplete n => own n
  | .storePerformed n => own n
  | .atomicPerformed n => own n
  | .tcopyRowLanded n => own n
  | .sttArrival n d => going n d
  | .ldtArrival n d => going n d
  | .ldtPerformed n d => going n d || (s.op n).any s.unanswered || (s.op n).any (fun o => match o.kind with | .ldt _ _ _ _ acq _ _ _ => acq && s.acquireHeld o.die | _ => false)
  | .pageWalk d ctx va => s.acquireHeld d || (walkReads s 4 (s.ctx ctx).ptroot (va % vaMod)).any (fun a => s.unserved d a 8)
  | .tlbinvPerform n d => going n d
  | .sweepRequest n d => going n d
  | .writeApply d n => (s.wlog.find? (fun w => w.id == n)).any (fun w => (s.homesOf w.bytes).any (fun h => !s.reaches h d))
  | _ => false

/-- The pending operation's own completion, as the module makes it when nothing else is asked of it. -/
def finishOp (o : Op) (s : State) : Out :=
  match o.kind with
  | .result _ _ => execMulticycleResult o.id s
  | .cb _ _ => execMulticycleResult o.id s
  | .ldl _ _ _ _ _ _ => execMulticycleResult o.id s
  | .load _ _ _ _ _ _ _ _ => execLoadComplete o.id s
  | .slotReq _ _ _ _ _ _ => execLoadComplete o.id s
  | .store _ _ _ _ => execStorePerformed o.id s
  | .privStore => execStorePerformed o.id s
  | .cwb _ _ => execStorePerformed o.id s
  | .engine _ _ _ => execStorePerformed o.id s
  | .atom _ _ _ _ _ _ => execAtomicPerformed o.id s
  | .remote _ _ _ _ _ => execRemoteLocalComplete o.id s
  | .row _ _ _ _ _ => execTcopyRowLanded o.id s
  | .work _ _ _ => execEngineInstructionDone o.warp o.split s
  | .sqgrow _ _ _ none => match execSqgrowSlotCopy o.id s with
    | .next t => if t.ops = s.ops then execSqgrowComplete o.id s else .next t
    | r => r
  | .sqgrow _ _ _ (some _) => execSqgrowComplete o.id s
  | .launch _ _ _ => .next (s.launchEnd o)
  | .tlbinv _ _ (d :: _) => execTlbinvPerform o.id d s
  | _ => .next s

/-- The first pending operation of the list that can go forward does so: it ends, or its warp records how far it has come (R190). One
that a lost link holds waits (R466). -/
def finishFirst (s : State) : List Op → Option State
  | [] => none
  | o :: r =>
    match finishOp o s with
    | .next t => if s.opLost o = true ∨ (t.ops = s.ops ∧ t.warps = s.warps) then finishFirst s r else some t
    | _ => finishFirst s r

end Sys2Proof.Machine

end
end

