-- ==== Sys2Proof/Machine/Injection.lean ====
section
/-! DEFINITION. Bit errors in the protected words of a core's own arrays (R101, R102, R436, R444) and injection there (R445). Which
architectural word an array index names is not in the manual: the environment says which word is struck (assumption 100). -/

namespace Sys2Proof.Machine

/-- The array of a site (R444). -/
def ErrSite.array (x : ErrSite) (s : State) : Nat :=
  match x with
  | .v _ _ _ => 0x01
  | .s _ _ => 0x02
  | .k _ _ => 0x02
  | .buf _ u _ => 0x03 + u
  | .l1 _ _ => 0x06
  | .code _ _ => 0x07
  | .mem pa => s.arrayOf pa
  | .control _ => 0x0C

/-- What ADDR of the error log holds for a site (R444): the physical address of a word of memory, else the array index that the environment
gives. -/
def ErrSite.addr (x : ErrSite) (index : Nat) : Nat :=
  match x with
  | .mem pa => pa / 8 * 8
  | _ => index

/-- The core that holds a site, and the slot whose work it is; none for a word that nothing holds now. A word of memory belongs to its
home die alone. -/
def ErrSite.place (x : ErrSite) (s : State) : Option (Nat × Nat) :=
  let ofGroup := fun (g : Nat) => (tfind s.groups g).bind (fun y => (tfind s.grids y.grid).map (fun gr => (y.core, gr.ctx)))
  let ofWarp := fun (w : Nat) => (tfind s.warps w).bind (fun y => ofGroup y.group)
  match x with
  | .v w r l => if r < 128 ∧ l < 64 then ofWarp w else none
  | .s w r => if r < 128 then ofWarp w else none
  | .k w r => if 0 < r ∧ r < 16 then ofWarp w else none
  | .buf g u word => if u < 3 ∧ word < 2 ^ 16 then ofGroup g else none
  | .l1 core pa => if (tget [] s.l1 core).contains (pa / lineBytes) then some (core, 0) else none
  | .code core pa => if (s.cached core pa).isSome then some (core, 0) else none
  | .mem pa => some (Config.dieCores * s.homeDie pa, 0)
  | .control w => ofWarp w

/-- The die's injector is armed and aims at this word of an array (R445). -/
def State.aimed (s : State) (d array pcore index : Nat) : Bool :=
  let x := s.die d
  bit x.injctl.toNat 0 && decide (bits x.injtgt.toNat 0 8 = array) && decide (bits x.injtgt.toNat 8 11 = pcore)
    && decide (x.injaddr.toNat = index)

/-- An uncorrectable error in a warp's control state: the machine check CTLERR, and its workgroup halts with POISON and INFO 0 (R436).
Of LANES the manual says nothing; they are those of the entry that issued last (assumption 131). -/
def State.controlError (s : State) (w : Nat) : State :=
  match (tfind s.warps w).bind (fun x => s.cxOf w x.last) with
  | none => s
  | some c =>
    let s := s.tell c.gid c.die 2 c.grid.ctx
    if c.warp.life = .running ∧ (c.group.st = .running ∨ c.group.st = .halting) then
      s.trapAt c .poison c.split.first c.split.mask 0
    else s

/-- A word of memory becomes poisoned (R102): of a private block, the thread's own word (R86). -/
def State.spoilMem (s : State) (pa : Nat) : State :=
  match s.privOf pa with
  | some a => { s with privP := ladd s.privP (a / 8) }
  | none => { s with memP := ladd s.memP (pa / 8) }

/-- A protected word becomes poisoned (R102); a copy in a cache is its word of memory (assumption 100). -/
def State.spoilWord (s : State) (x : ErrSite) : State :=
  match x with
  | .v w r l => s.setWarp w (fun y => { y with vP := bvPut y.vP (64 * r + l) true })
  | .s w r => s.setWarp w (fun y => { y with sP := bvPut y.sP r true })
  | .k w r => s.setWarp w (fun y => { y with kP := bvPut y.kP r true })
  | .buf g u word => s.setGroup g (fun y => { y with bufP := ladd y.bufP (bufWord u (4 * word)) })
  | .l1 _ pa => s.spoilMem pa
  | .code core pa => let s := s.evictWord core (pa / 4); { s with memP := ladd s.memP (pa / 8) }
  | .mem pa => s.spoilMem pa
  | .control w => s.controlError w

/-- Bits of a protected word have flipped by its next access: one is corrected and logged, more are logged as uncorrectable and poison the
word (R101, R102). An injector armed at the word says how many and is disarmed (R445). -/
def State.bitError (s : State) (x : ErrSite) (index n : Nat) : State :=
  match x.place s with
  | none => s
  | some (core, ctx) =>
    let d := core / Config.dieCores
    let array := x.array s
    let pcore := match x with | .mem _ => 0 | _ => s.pcore core
    let addr := x.addr index
    let inj := s.aimed d array pcore addr
    let n := if inj then popcount (s.die d).injmask.toNat 64 else n
    let s := if inj then s.setDie d (fun y => { y with injctl := bvPut y.injctl 0 false }) else s
    if n = 0 then s
    else
      let s := s.foundError d array (decide (1 < n)) inj pcore addr (s.ctx ctx).asid ctx
      if n = 1 then s else s.spoilWord x

end Sys2Proof.Machine
end

