-- ==== Sys2Proof/Machine/Images.lean ====
section
/-! DEFINITION. Save images (R439, R440): a stopped workgroup written to a save block, and one restored from it; the forced
context save, CTXSV and CTXLD (R96, R438, R441, R442). -/

namespace Sys2Proof.Machine

/-- Part of an image: an offset and its bytes. -/
abbrev Part := Nat × List Byte

/-- Bytes of a save block (R438). -/
abbrev blockSize : Nat := 2 ^ 22

/-- Bytes of one warp's block (R439). -/
def warpBlock (g : Grid) : Nat := 49152 + 4096 * ceilDiv (4 * g.w * g.vregs) 4096

/-! ### Writing -/

/-- A loop stack as an image holds it: bottom first (R440). -/
def loopBytes (l : List LoopEnt) : List Byte :=
  ((l.reverse.flatMap (fun (e : LoopEnt) => toBytes e.start 8 ++ toBytes e.stop 8 ++ toBytes e.count 4)) ++ List.replicate 80 0).take 80

/-- The plain load at which a split holds is made again from a record (R96), so the image's entry stands past it (assumption 144). -/
def Split.pastLoad (p : Split) : Split :=
  match p.wait with
  | .op _ => p.completed
  | _ => p

/-- A split entry (R440). -/
def Split.image (q : Split) : List Byte :=
  let p := q.pastLoad
  let st : Nat := match p.st with | .free => 0 | .run => 1 | .park => 2
  let df : Nat := match p.defSt with | .empty => 0 | .pending => 1 | .parked => 2
  let mk := p.mark.getD (0, 0)
  toBytes st 1 ++ toBytes df 1 ++ toBytes p.loops.length 1 ++ toBytes p.dloops.length 1 ++ toBytes (b2n p.mark.isSome) 4
    ++ toBytes p.first 8 ++ toBytes p.mask.toNat 8 ++ toBytes mk.1 8 ++ toBytes mk.2.toNat 8 ++ loopBytes p.loops
    ++ List.replicate 8 0 ++ toBytes p.dpc 8 ++ toBytes p.dmask.toNat 8 ++ loopBytes p.dloops ++ List.replicate 32 0

/-- A translation register (R87). -/
def TReg.image (t : TReg) : List Byte :=
  toBytes (t.base + field t.size 57 2 + field (b2n t.valid) 59 1 + field (b2n t.stale) 60 1) 8 ++ toBytes t.pa 8
    ++ toBytes (t.limit % 2 ^ 31 + field t.asid 31 16 + field (b2n t.rd) 47 1 + field (b2n t.wr) 48 1 + field (b2n t.ac) 49 1
      + field (b2n t.far) 50 1) 8

/-- A batch not yet named (R440). -/
def Batch.image (b : Batch) : List Byte :=
  toBytes (b.num.toNat + 256 + field (b2n b.chkmis) 9 1 + field (b2n b.poison.isSome) 10 1 + field b.gathered.toNat 11 5) 8

/-- A reissue record (R96, R440); none for an operation that is no plain load. -/
def Op.reissue (o : Op) : Option (List Byte) :=
  let make := fun (accs : List LaneAcc) (n kind z vd : Nat) (sx : Bool) (ord sc : Nat) (r : Reissue) =>
    let base := if kind = 1 ∨ kind = 2 then 0 else r.base
    let off := fun (l : Nat) => match accs.find? (fun a => a.lane == l) with
      | some a => toBits ((a.va : Int) - base - r.disp) 32
      | none => 0
    toBytes o.pc 8 ++ toBytes (maskOf (accs.map (fun a => a.lane))).toNat 8 ++ toBytes n 8 ++ toBytes base 8
      ++ toBytes (toBits r.disp 32) 4 ++ toBytes kind 1 ++ toBytes z 1 ++ toBytes (vd + 128 * b2n sx) 1
      ++ toBytes (ord + field sc 2 3 + field (b2n r.na) 5 1) 1 ++ List.replicate 24 0
      ++ (List.range 64).flatMap (fun l => toBytes (off l) 4)
  match o.kind with
  | .load accs z sx vd ord sc form r => some (make accs 0 (if form = 1 then 1 else 0) z vd sx ord sc r)
  | .ldt accs z vd n acq _ got r =>
    some (make (accs.filter (fun a => !got.contains a.lane)) n 3 z vd false (b2n acq) (if acq then 5 else 0) r)
  | .ldl _ l z vd u r => some (make (l.map (fun p => ⟨p.1, p.2, 0, [], [], none, 0, none⟩)) 0 2 z vd false (field u 6 2) 0 r)
  | .remote false accs z vd r => some (make accs 0 2 z vd false 0 0 r)
  | _ => none

/-- Bits of a mask of registers as bytes; full is 1 (R93). -/
def fullBytes (e : BitVec n) (k : Nat) : List Byte := toBytes (~~~e).toNat k

/-- Poison of the vector registers, bit r × W + l (R440). -/
def Warp.poisonMap (x : Warp) (w v : Nat) : Nat :=
  (List.range v).foldl (fun m r => m + (bits x.vP.toNat (64 * r) w) * 2 ^ (r * w)) 0

/-- The parts of a warp's block (R440). -/
def Warp.image (x : Warp) (g : Grid) (ops : List Op) : List Part :=
  let bar := (x.splits.findSome? (fun p => match p.wait with | .bar n => some n | _ => none)).getD 0
  let regs : List Part := [(0, (List.range 128).flatMap (fun r => toBytes (x.sreg r).toNat 4)),
    (0x200, (List.range 16).flatMap (fun r => toBytes (if r = 0 then 0 else x.kreg r).toNat 8)),
    (0x280, fullBytes x.vE 16 ++ fullBytes x.sE 16 ++ fullBytes x.kE 2 ++ fullBytes x.tE 1 ++ [0] ++ fullBytes x.hE 2),
    (0x2B0, toBytes x.sP.toNat 16 ++ toBytes x.kP.toNat 2),
    (0x300, toBytes x.gld 1 ++ toBytes x.gst 1 ++ toBytes x.lrm 1 ++ toBytes x.tcp 1 ++ toBytes x.tmd 1
      ++ toBytes (b2n x.peer.isSome + 2 * b2n x.late.isSome) 1 ++ toBytes bar 1 ++ toBytes (b2n x.tm) 1
      ++ toBytes x.fstat.toNat 4 ++ toBytes x.nb.toNat 1),
    (0x340, ((x.batches.filter (fun b => !b.named)).reverse.take 8).reverse.flatMap Batch.image),
    (0x380, toBytes (match x.latch with | some t => 1 + 16 * t.afmt | none => 0) 1),
    (0x400, toBytes (x.poisonMap g.w g.vregs) 1024),
    (0x800, (x.splits.take 4).flatMap Split.image),
    (0xC00, (List.range 8).flatMap (fun t => (x.treg t).image)),
    (0xCC0, toBytes x.landed.1.toNat 8 ++ toBytes x.landed.2.1.toNat 8 ++ toBytes x.landed.2.2.1.toNat 8 ++ toBytes x.landed.2.2.2.toNat 8),
    (0x2100, (List.range 16).flatMap (fun h => toBytes (match (x.hreg h).st with | .empty => 0 | .valid => 1 | .invalid => 2) 1)),
    (0x4000, (ops.filterMap Op.reissue).flatten)]
  let handles : List Part := (List.range 16).map (fun h => (0x2200 + 320 * h, (x.hreg h).bytes))
  let latch : List Part := match x.latch with
    | some t => (List.range t.rows.length).map (fun r => (0x1000 + 64 * r, match t.rows.getD r none with | some y => y.bytes | none => []))
        ++ [(0x2000, t.ascal)]
    | none => []
  let sufx : List Part := match x.sufx with
    | some y => [(0x3600, toBytes y.rows.toNat 8 ++ toBytes 1 8 ++ y.block), (0x8000, y.tile.flatMap (fun e => toBytes e.1.toNat 4))]
    | none => []
  let vec : List Part := (List.range g.vregs).map (fun r =>
    (0xC000 + 4 * r * g.w, (List.range g.w).flatMap (fun l => toBytes (x.vreg r l).toNat 4)))
  regs ++ handles ++ latch ++ sufx ++ vec

/-- Bit 0 HALTED, 1 FORCED, 2 COOP, 3 CLUSTER, 4 STREAM of an image's FLAGS (R439). -/
def imageFlags (halted forced : Bool) (g : Grid) (stream : Bool) : Nat :=
  b2n halted + 2 * b2n forced + 4 * b2n g.coop + 8 * b2n (g.cluster != 0) + 16 * b2n stream

/-- The bound stream's part of a workgroup header (R439). -/
def streamImage : Option Stream → List Byte
  | some x => toBytes x.pc 8 ++ toBytes x.xb.toNat 8 ++ toBytes x.xs.toNat 8 ++ toBytes (x.lc.getD 0) 4 ++ toBytes x.la 8
  | none => List.replicate 36 0

/-- The image's header (R439). -/
def imageHeader (g : Group) (gr : Grid) (flags : Nat) (x : Option Stream) : List Byte :=
  let p := gr.coords g.lin
  let fields : List (Nat × Nat) :=
    [(0x53585443, 4), (1, 2), (g.warps.length, 2), (gr.w, 1), (gr.vregs, 1), (gr.agr, 1), (gr.wgr, 1), (gr.cgr, 1), (flags, 1),
     (gr.ctx, 2), (p.1, 4), (p.2.1, 4), (p.2.2, 4), (if gr.cluster = 0 then 0 else g.lin % gr.cluster, 2), (gr.depth, 1),
     (g.core / Config.dieCores, 1), (g.grid, 8), (gr.kdesc, 8), (g.priv, 8), (gr.parent.getD 0, 8)]
  fields.flatMap (fun f => toBytes f.1 f.2) ++ streamImage x

/-- Bytes of a physical range that memory lists are set to zero. -/
def State.zeroRange (s : State) (d a n : Nat) : State :=
  let old := s.mem.filter (fun e => decide (a ≤ e.1) && decide (e.1 < a + n))
  s.writeNow d (old.map (fun e => (e.1, 0))) [(a, n, false)]

/-- An image's parts written at a block, with the poisoned words of the buffers. -/
def State.writeParts (s : State) (d a : Nat) (l : List Part) (bad : List Nat) : State :=
  let s := s.zeroRange d a blockSize
  s.writeNow d (l.flatMap (fun p => cellsAt (a + p.1) p.2)) (bad.map (fun o => (a + o, 4, true)))

/-! ### Saving (R96, R438) -/

/-- Offsets of the buffers' images (R439). -/
def bufImage : Nat → Nat
  | 0 => 0x2000
  | 1 => 0x32000
  | _ => 0x62000

/-- A warp may be saved: it has stopped, and nothing of it is in flight but plain loads, 32 at most, rows of a parked TCOPY and
what an engine does for no warp (R75, R96). A split may hold at a plain load. -/
def State.warpSavable (s : State) (w : Nat) (x : Warp) : Bool :=
  let mine := s.ops.filter (fun o => o.warp == w)
  (match x.life with | .running => false | _ => true)
    && x.splits.all (fun p => match p.wait with | .op n => mine.any (fun o => o.id == n && (Op.reissue o).isSome) | _ => true)
    && x.batches.all (fun b => b.done)
    && mine.all (fun o => match o.kind with
      | .load _ _ _ _ _ _ _ _ => true
      | .ldt _ _ _ _ _ _ _ _ => true
      | .ldl _ _ _ _ _ _ => true
      | .remote false l _ _ _ => !l.isEmpty
      | .row _ _ _ [] _ => true
      | .done => true
      | .sqgrow _ _ _ _ => true
      | .dcln _ _ _ _ => true
      | _ => false)
    && decide ((mine.filterMap Op.reissue).length ≤ 32)

/-- The bound stream has stopped or waits at a CSEMW (R439). -/
def State.streamSavable (s : State) (g : Group) : Bool :=
  match g.stream.bind (tfind s.streams) with
  | some x => (match x.st with | .stopped _ => true | .waitSem _ _ => true | _ => false)
  | none => true

/-- The workgroup may be saved. -/
def State.savable (s : State) (g : Group) : Bool :=
  s.streamSavable g && g.warps.all (fun w => match tfind s.warps w with | some x => s.warpSavable w x | none => true)

/-- The open set of a warp performed before its C-buffer is saved (R75): what it gathers waits for the MFENCE. -/
def State.drainOpen (s : State) (w : Nat) : State :=
  match s.cxOf w 0 with
  | none => s
  | some c =>
    if c.warp.openSet = [] then s
    else
      let r := Gather.runAll ⟨c.group, 0, false, none, s.free⟩ c.ctx.cbEntry c.warp.openSet
      let s := { (s.setGroup c.gid (fun _ => r.1.group)) with free := r.1.draws }
      s.setWarp w (fun x =>
        let b := x.partBatch
        { x with
          openSet := []
          part := some { (b.take r.1) with past := b.past ++ r.2, regs := b.regs ||| boundOf x.openSet } })

/-- The workgroup has halted with a trap. -/
def Group.halted (g : Group) : Bool :=
  match g.st with
  | .halted => true
  | .delivered _ => true
  | _ => false

/-- The image of a workgroup written to a block (R438 steps 2 and 3); a register that R399 leaves undefined is written as a free value. Its
trap records are those of the trap entry that a handler names
(R441), or the core's own. -/
def State.writeImage (s : State) (gid block : Nat) (entry : Option (List Byte)) : State :=
  match tfind s.groups gid with
  | none => s
  | some g0 =>
    let s := g0.warps.foldl (fun s w => s.drainOpen w) s
    match tfind s.groups gid with
    | none => s
    | some g =>
      match tfind s.grids g.grid with
      | none => s
      | some gr =>
        let l := s.groupWarps g
        let forced := l.any (fun x => match x.life with | .stopped r => r.code == .preempt | _ => false)
        let str := (g.stream.bind (tfind s.streams)).bind (fun x => match x.st with | .waitSem _ _ => some x | _ => none)
        let head : List Part := [(0, imageHeader g gr (imageFlags g.halted forced gr str.isSome) str)]
        let recs : List Part := if g.halted || forced then [(0x1000, entry.getD (l.flatMap Warp.trapRecord))] else []
        let bufs : List Part := (List.range 3).flatMap (fun u => (g.buf u).map (fun (e : Nat × Byte) => (bufImage u + e.1, [e.2])))
        let warps : List Part := l.flatMap (fun x =>
          let ops := s.ops.filter (fun o => o.warp == g.warps.getD x.idx 0)
          ((x.soften s.free).image gr ops).map (fun p => (0x80000 + x.idx * warpBlock gr + p.1, p.2)))
        let bad := g.bufP.map (fun k => bufImage (k / 2 ^ 20) + 4 * (k % 2 ^ 20))
        let s := { s with free := s.free + 1 }
        (s.writeParts (g.core / Config.dieCores) block (head ++ recs ++ bufs ++ warps) bad).releaseAll (g.core / Config.dieCores)

/-- A saved workgroup leaves its core (R438 step 4, R59): what its image has no place for is kept. Its loads, which are to be made again,
read no key-value page meanwhile (R200), and a PREEMPT.WAIT that waits is not executed (R437). -/
def State.leaveCore (s : State) (gid : Nat) : State :=
  match tfind s.groups gid with
  | none => s
  | some g =>
    let mine := fun (o : Op) => g.warps.contains o.warp && (match o.kind with | .sqgrow _ _ _ _ => false | .dcln _ _ _ _ => false | _ => true)
    let s := { (s.ops.foldl (fun (s : State) o => if mine o then s.readerOut o.die o.par else s) s) with ops := s.ops.filter (fun o => !mine o) }
    let s := { s with ctxs := s.ctxs.map (fun (e : Nat × Ctx) => (e.1, { e.2 with waiting := e.2.waiting.filter (fun k => !g.warps.contains (k.1 / 4)) })) }
    let s := g.warps.foldl (fun (s : State) w => match tfind s.warps w with
      | some x => { s with kept := tput s.kept w x, warps := terase s.warps w }
      | none => s) s
    let s := match g.st with
      | .delivered a => s.writeAt (g.core / Config.dieCores) a (toBytes 2 4)
      | _ => s
    let s := match g.stream with
      | some n => s.setStream n (fun x => match x.st with | .waitSem _ _ => { x with st := .saved } | _ => x)
      | none => s
    let s := s.setGroup gid (fun g => { g with st := .saved, abuf := [], wbuf := [], cbuf := [], bufP := [] })
    let s := s.setGrid g.grid (fun x => { x with away := x.away + 1 })
    s.markIdle g.core

/-- A stopped workgroup's save is due (R74, R75, R78): every warp stopped for a request, or halted while a request stands. -/
def State.saveDue (s : State) (g : Group) (gr : Grid) : Bool :=
  match g.st with
  | .running => (s.ctx gr.ctx).req || (s.groupWarps g).any (fun x => match x.life with
      | .yielded => true
      | .stopped r => r.code == .preempt
      | _ => false)
  | .halted => (s.ctx gr.ctx).req
  | .delivered _ => (s.ctx gr.ctx).req
  | _ => false

/-- The workgroups that are saved only with a workgroup, itself among them: those of its .coop grid or of its cluster (R56, R62,
R441). -/
def State.saveMates (s : State) (gid : Nat) (g : Group) (gr : Grid) : List (Nat × Group) :=
  if gr.coop then s.groups.filter (fun x => x.2.grid == g.grid && x.2.onCore)
  else if gr.cluster ≠ 0 then (s.clusterOf g gr).filter (fun x => x.2.st != .saved)
  else [(gid, g)]

/-- One workgroup saved by the four steps of R438, if SAVELIST has a block. -/
def State.saveOne (s : State) (ctx : Nat) (m : Nat × Group) : Option State :=
  let c := s.ctx ctx
  let d := m.2.core / Config.dieCores
  match s.popFree d c.savelist id with
  | (_, none) => none
  | (s1, some block) =>
    some ((((s1.writeImage m.1 block none).leaveCore m.1).pushFree d c.saved block id).setCtx ctx
      (fun c => { c with savedCount := c.savedCount + 1 }))

/-- CONTEXT_SAVE (R438): while SAVELIST has too few blocks, or something is in flight, the workgroup stays on its core. The members of a
.coop grid or of a cluster are saved together (R56, R62). -/
def execContextSave (gid : Nat) (s : State) : Out :=
  match tfind s.groups gid with
  | none => .next s
  | some g =>
    match tfind s.grids g.grid with
    | none => .next s
    | some gr =>
      let l := s.saveMates gid g gr
      if s.saveDue g gr = false ∨ l.any (fun m => !((m.2.st == .exited || s.saveDue m.2 gr) && s.savable m.2)) = true then .next s
      else .next ((l.foldlM (fun (t : State) m => t.saveOne gr.ctx m) s).getD s)

/-- CTXSV (R441): it waits, with its own state unchanged, until the workgroup may be saved. -/
def execCtxsv (d a b : BitVec 7) (s : State) : Out :=
  issue s (fun c => { once (even a && even b) Accept.none c [qref a.toNat, qref b.toNat] (sref d.toNat) with priv := true }) (fun c =>
    let ent := (c.warp.qreg a.toNat).toNat
    let block := (c.warp.qreg b.toNat).toNat
    let done := fun (s : State) (n : Nat) => Host.Outcome.next (s.now c [.s d.toNat (BitVec.ofNat 32 n) false])
    if 2 ^ 52 ≤ ent then .next (s.trap c .access c.split.mask ent)
    else if 2 ^ 52 ≤ block then .next (s.trap c .access c.split.mask block)
    else
      let s1 := s.acquire c.die 5
      if leAt (s1.view c.die ent 1) 0 1 % 4 ≠ 1 then done s1 1
      else if block % blockSize ≠ 0 then done s1 2
      else match s1.deliveredTo ent with
        | none => done s1 1
        | some (gid, g) =>
          match tfind s1.grids g.grid with
          | none => done s1 1
          | some gr =>
            if gr.coop = true ∨ gr.cluster ≠ 0 then done s1 3
            else if s1.savable g = false then .next s
            else done ((s1.writeImage gid block (some (s1.view c.die (ent + 64) (32 * g.warps.length)))).leaveCore gid) 0)

/-! ### Restoring (R96, R440, R442) -/

/-- A number in an image. -/
def State.img (s : State) (a o n : Nat) : Nat := ofBytes (s.home (a + o) n)

/-- The bytes of a range of an image are zero. -/
def State.imgZero (s : State) (a o n : Nat) : Bool :=
  !s.mem.any (fun e => decide (a + o ≤ e.1) && decide (e.1 < a + o + n))

/-- The grid and the linear index that an image names, where the grid is known. -/
def State.imgGrid (s : State) (a : Nat) : Option (Nat × Grid × Nat) :=
  let gid := s.img a 32 8
  (tfind s.grids gid).map (fun g => (gid, g, s.img a 16 4 + g.x * (s.img a 20 4 + g.y * s.img a 24 4)))

/-- The workgroup that an image holds, where its save is known. -/
def State.imgGroup (s : State) (gid lin : Nat) : Option Nat :=
  (s.groups.find? (fun g => g.2.grid == gid && g.2.lin == lin && g.2.st == .saved)).map (fun g => g.1)

/-- The reserved fields of a translation register are zero (R87). -/
def State.tregClean (s : State) (a : Nat) : Bool :=
  bits (s.img a 0 8) 57 2 != 3 && bits (s.img a 0 8) 61 3 == 0 && bits (s.img a 8 8) 52 12 == 0 && bits (s.img a 16 8) 51 13 == 0

/-- The reserved fields of a split entry are zero (R440). -/
def State.splitClean (s : State) (a : Nat) : Bool :=
  decide (s.img a 4 1 < 2) && s.imgZero a 5 3 && s.imgZero a 120 8 && s.imgZero a 224 32

/-- The reserved fields of a reissue record are zero (R440). -/
def State.reissueClean (s : State) (a : Nat) : Bool :=
  decide (s.img a 0 8 < vaMod) && decide (s.img a 24 8 < vaMod) && s.imgZero a 40 24

/-- The reserved fields of a parked SUFX are zero (R440). -/
def State.sufxClean (s : State) (a : Nat) : Bool := decide (s.img a 8 1 < 2) && s.imgZero a 9 7 && s.imgZero a 336 2224

/-- The reserved fields of a warp's block are zero (R440). -/
def State.warpClean (s : State) (a : Nat) : Bool :=
  s.imgZero a 0x0D00 768 && s.imgZero a 0x6800 6144 && s.sufxClean (a + 0x3600)
    && (List.range 4).all (fun i => s.splitClean (a + 0x800 + 256 * i))
    && (List.range 8).all (fun i => s.tregClean (a + 0xC00 + 24 * i))
    && (List.range 32).all (fun i => s.reissueClean (a + 0x4000 + 320 * i))

/-- The reserved fields of a trap record are zero (R72). -/
def State.recordClean (s : State) (a : Nat) : Bool := bits (s.img a 0 8) 31 33 == 0 && decide (s.img a 8 8 < vaMod)

/-- An image is valid (R442): its magic and version, its reserved fields, and a shape that a core can hold. Trap records stand where it
is HALTED or FORCED, and the bytes are zero otherwise (R439). -/
def State.imgValid (s : State) (a : Nat) : Bool :=
  s.img a 0 4 == 0x53585443 && s.img a 4 2 == 1 && bits (s.img a 13 1) 5 3 == 0 && s.img a 40 8 < vaMod && s.img a 48 8 < vaMod
    && s.imgZero a 100 3996 && s.imgZero a 0x7A000 24576
    && (if bits (s.img a 13 1) 0 2 = 0 then s.imgZero a 0x1000 4096
        else (List.range (s.img a 6 2)).all (fun i => s.recordClean (a + 0x1000 + 32 * i)))
    && match s.imgGrid a with
      | some (_, g, _) => s.img a 8 1 == g.w && s.img a 9 1 == g.vregs && s.img a 10 1 == g.agr && s.img a 11 1 == g.wgr
          && s.img a 12 1 == g.cgr && s.img a 6 2 == g.warpsPer && decide (0 < g.perCore)
          && (List.range g.warpsPer).all (fun i => s.warpClean (a + 0x80000 + i * warpBlock g))
      | none => false

/-- CTXLD (R442). -/
def execCtxld (d a : BitVec 7) (s : State) : Out :=
  issue s (fun c => { once (even a) Accept.none c [qref a.toNat] (sref d.toNat) with priv := true }) (fun c =>
    let block := (c.warp.qreg a.toNat).toNat
    let done := fun (s : State) (n : Nat) => Host.Outcome.next (s.now c [.s d.toNat (BitVec.ofNat 32 n) false])
    if 2 ^ 52 ≤ block then .next (s.trap c .access c.split.mask block)
    else if s.imgValid block = false then done s 1
    else
      let n := s.img block 14 2
      if (s.ctx n).valid = false then done s 2
      else done (s.setCtx n (fun x => { x with reload := x.reload ++ [block] })) 0)

/-- A loop stack of an image. -/
def State.imgLoops (s : State) (a depth : Nat) : List LoopEnt :=
  ((List.range (min depth 4)).map (fun i => (⟨s.img (a + 20 * i) 0 8, s.img (a + 20 * i) 8 8, s.img (a + 20 * i) 16 4⟩ : LoopEnt))).reverse

/-- A split entry of an image. What the image has no place for comes from the entry that the core kept (R59): the divided calls that led to
its code (R399), the implicit JOIN at which its lanes are parked (R255), and, for an entry parked at a hinted JOIN, the JOIN's own address,
since the image's PC is that of the group's first hint (R225). -/
def State.imgSplit (s : State) (a stamp : Nat) (old : Split) : Split :=
  let st : EntState := match s.img a 0 1 with | 1 => .run | 2 => .park | _ => .free
  let df : DefState := match s.img a 1 1 with | 1 => .pending | 2 => .parked | _ => .empty
  let pc := s.img a 8 8 % vaMod
  let parked := st == .park && old.st == .park && old.first == pc
  let holds := (match old.wait with | .op _ => true | _ => false) && st == .run && old.st == .run && old.pastLoad.pc == pc
  { Split.free with
    wait := if holds then old.wait else .ready
    imp := parked && old.imp
    dimp := df == .parked && old.defSt == .parked && old.dpc == s.img a 128 8 % vaMod && old.dimp
    div := if st = .free then 0 else old.div
    ddiv := if df = .empty then 0 else old.ddiv
    hints := if parked || holds then old.hints else []
    st := st
    defSt := df
    loops := if holds then old.loops else s.imgLoops (a + 40) (s.img a 2 1)
    dloops := s.imgLoops (a + 144) (s.img a 3 1)
    mark := if bit (s.img a 4 1) 0 then some (s.img a 24 8 % vaMod, BitVec.ofNat 64 (s.img a 32 8)) else none
    pc := if parked || holds then old.pc else pc
    mask := BitVec.ofNat 64 (s.img a 16 8)
    dpc := s.img a 128 8 % vaMod
    dmask := BitVec.ofNat 64 (s.img a 136 8)
    stamp := stamp }

/-- A translation register of an image, STALE where it is valid (R89). -/
def State.imgTreg (s : State) (a : Nat) : TReg :=
  let w0 := s.img a 0 8
  let w2 := s.img a 16 8
  if bit w0 59 then
    { base := bits w0 0 57, size := bits w0 57 2, valid := true, stale := true, pa := bits (s.img a 8 8) 0 52
      limit := bits w2 0 31, asid := bits w2 31 16, rd := bit w2 47, wr := bit w2 48, ac := bit w2 49, far := bit w2 50 }
  else { TReg.invalid with base := bits w0 0 57 }

/-- The batches of an image, in the places of those that the warp had (R349). -/
def State.imgBatches (s : State) (a : Nat) (nb : BitVec 8) (old : Option Warp) : List Batch :=
  let none8 : List Batch := (List.range 8).map (fun i => ⟨nb - BitVec.ofNat 8 (8 - i), [], [], 0, true, false, none, 0, true⟩)
  let base := match old with | some x => x.batches | none => none8
  (List.range 8).foldl (fun (l : List Batch) i =>
    let e := s.img (a + 0x340) (8 * i) 8
    if bit e 8 then l.map (fun (b : Batch) => if b.num.toNat = e % 256 then { b with
      done := true
      named := false
      chkmis := bit e 9
      poison := if bit e 10 then some (b.poison.getD 0) else none
      flags := if b.gathered.toNat = bits e 11 5 then b.flags else BitVec.ofNat 5 (bits e 11 5) } else b)
    else l) base

/-- The reuse latch of an image (R343). -/
def State.imgLatch (s : State) (a : Nat) (old : Option Warp) : Option Latch :=
  let b := s.img a 0x380 1
  let was := old.bind (fun x => x.latch)
  if bit b 0 then
    some { afmt := bits b 4 4
           rows := (List.range 64).map (fun r =>
             match was.map (fun t => t.rows.getD r none) with
             | some none => none
             | some (some y) => some { y with bytes := s.home (a + 0x1000 + 64 * r) 64 }
             | none => some ⟨s.home (a + 0x1000 + 64 * r) 64, 0⟩)
           ascal := s.home (a + 0x2000) 256
           ascalP := (was.map (fun t => t.ascalP)).getD 0 }
  else none

/-- The parked SUFX of an image (R353). -/
def State.imgSufx (s : State) (a : Nat) (old : Option Warp) : Option Sufx :=
  let was := old.bind (fun x => x.sufx)
  if bit (s.img a 0x3608 1) 0 then
    some { rows := BitVec.ofNat 64 (s.img a 0x3600 8)
           block := s.home (a + 0x3610) 320
           tile := (List.range 4096).map (fun i => (BitVec.ofNat 32 (s.img (a + 0x8000) (4 * i) 4),
             ((was.map (fun y => (y.tile.getD i (0, false)).2)).getD false))) }
  else none

/-- A handle of an image. -/
def State.imgHandle (s : State) (a h : Nat) : Handle :=
  match s.img (a + 0x2100) h 1 with
  | 1 => ⟨.valid, (s.home (a + 0x2200 + 320 * h) 320).take (recLen (s.img (a + 0x2200 + 320 * h) 0 1 % 16))⟩
  | 2 => ⟨.invalid, []⟩
  | _ => Handle.none

/-- Registers of an image marked empty: a bit set is full (R440). -/
def State.imgEmpty (s : State) (a o n k : Nat) : BitVec k := ~~~(BitVec.ofNat k (s.img a o n))

/-- How a warp of a halted image stands (R72, R442). -/
def State.imgLife (s : State) (a : Nat) : Life :=
  let w := s.img a 0 8
  if bit w 21 then .exited
  else
    let codes : List TrapCode := [.illegal, .priv, .misalign, .access, .poison, .handle, .splitx, .loopx, .arith, .geomnf, .bind,
      .bkpt, .swtrap, .atomcap, .peer, .late, .timehz, .timeunl, .mapstale, .depth, .emptyrd, .preempt]
    .stopped { code := (codes.find? (fun c => c.num == bits w 0 8)).getD .none, skid := bits w 8 4, cyc := bits w 12 7
               primary := bit w 19, split := bits w 22 2, pc := s.img a 8 8 % vaMod, lanes := BitVec.ofNat 64 (s.img a 16 8)
               info := s.img a 24 8 }

/-- The counter raise that a parked or replayed instruction keeps (R91). -/
def Warp.keptRaise (x : Warp) (p : Path) : Nat :=
  match (x.fault.bind (fun f => f.raised)).or (x.replay.bind (fun r => r.2.2)) with
  | some (q, n) => if q = p then n else 0
  | none => 0

/-- A warp restored from its block and its trap record (R440, R442): old is what its core kept of it. Its counters count the instruction
that is to be replayed; the loads made again are added as they are (R96). -/
def State.imgWarp (s : State) (g : Grid) (a recd group idx core slot : Nat) (flags : Nat) (old : Option Warp) : Warp :=
  let stamp := s.slotCyc core slot
  let nb : BitVec 8 := BitVec.ofNat 8 (s.img a 0x30C 1)
  let bar := s.img a 0x306 1
  let splits := (List.range 4).map (fun i =>
    let p := s.imgSplit (a + 0x800 + 256 * i) stamp ((old.map (fun x => x.split i)).getD Split.free)
    let atBar := (old.map (fun x => match (x.split i).wait with | .bar _ => true | _ => false)).getD false
    if atBar && bar != 0 && bit flags 0 == false then { p with wait := .bar bar } else p)
  let words := fun (o n : Nat) => (List.range n).map (fun i => (i, (BitVec.ofNat 32 (s.img (a + o) (4 * i) 4) : Word)))
  let vec := (List.range g.vregs).flatMap (fun r => (List.range g.w).map (fun l =>
    (64 * r + l, (BitVec.ofNat 32 (s.img (a + 0xC000) (4 * (r * g.w + l)) 4) : Word))))
  let map := s.img a 0x400 1024
  let vp := (List.range g.vregs).foldl (fun m r => m + bits map (r * g.w) g.w * 2 ^ (64 * r)) 0
  let parked := (bit flags 0 || bit flags 1) && bit (s.img recd 0 8) 20
  let wasFault := (old.bind (fun x => x.fault)).bind (fun f => if f.op.isSome then none else some f)
  let gone := splits.all (fun p => p.st == .free)
  let held := fun (p : Path) => (old.map (fun (x : Warp) => { x with fault := wasFault }.keptRaise p)).getD 0
  let again := if parked && wasFault.isNone && (old.bind (fun x => x.fault)).isNone && (old.bind (fun x => x.replay)).isNone then
      some (bits (s.img recd 0 8) 22 2, BitVec.ofNat 64 (s.img recd 16 8), none)
    else old.bind (fun x => x.replay)
  { (Warp.start group idx core slot false 0 0 0) with
    life := if bit flags 0 then s.imgLife recd else if gone then .exited else .running
    v := vec.foldl (fun (t : Table Word) e => tset 0 t e.1 e.2) []
    s := (words 0 128).foldl (fun (t : Table Word) e => tset 0 t e.1 e.2) []
    k := (List.range 15).foldl (fun (t : Table Mask) i =>
      tset 0 t (i + 1) (BitVec.ofNat 64 (s.img (a + 0x200) (8 * (i + 1)) 8) &&& fullMask g.w)) []
    t := (List.range 8).foldl (fun (t : Table TReg) i => tset TReg.invalid t i (s.imgTreg (a + 0xC00 + 24 * i))) []
    h := (List.range 16).foldl (fun (t : Table Handle) i => tset Handle.none t i (s.imgHandle a i)) []
    vE := s.imgEmpty a 0x280 16 128
    sE := s.imgEmpty a 0x290 16 128
    kE := s.imgEmpty a 0x2A0 2 16
    tE := s.imgEmpty a 0x2A2 1 8
    hE := s.imgEmpty a 0x2A4 2 16
    vP := BitVec.ofNat 8192 vp
    sP := BitVec.ofNat 128 (s.img a 0x2B0 16)
    kP := BitVec.ofNat 16 (s.img a 0x2C0 2)
    gld := held .gld
    gst := held .gst
    lrm := held .lrm
    tcp := if wasFault.isSome || again.isSome then s.img a 0x303 1 else 0
    tmd := held .tmd
    peer := if bit (s.img a 0x305 1) 0 then some ((old.bind (fun x => x.peer)).getD (0, 0)) else none
    late := if bit (s.img a 0x305 1) 1 then some ((old.bind (fun x => x.late)).getD 0) else none
    fstat := BitVec.ofNat 5 (s.img a 0x308 4)
    splits := splits
    joins := (old.map (fun x => x.joins)).getD []
    nb := nb
    latch := s.imgLatch a old
    batches := s.imgBatches a nb old
    part := old.bind (fun x => x.part)
    bound := (old.map (fun x => x.bound)).getD 0
    spoilt := (old.map (fun x => x.spoilt)).getD 0
    tm := bit (s.img a 0x307 1) 0
    fault := if parked then wasFault else none
    replay := again
    landed := (BitVec.ofNat 64 (s.img a 0xCC0 8), BitVec.ofNat 64 (s.img a 0xCC8 8), BitVec.ofNat 64 (s.img a 0xCD0 8),
      BitVec.ofNat 64 (s.img a 0xCD8 8))
    sufx := s.imgSufx a old
    attnZ := (old.map (fun x => x.attnZ)).getD []
    kept := (old.map (fun x => x.kept)).getD []
    tlbinvs := (old.map (fun x => x.tlbinvs)).getD []
    loose := (old.map (fun x => x.loose)).getD []
    owed := if again.isSome || wasFault.isSome then (old.map (fun x => x.owed)).getD [] else []
    last := (old.map (fun x => x.last)).getD 0 }

/-- The accesses of a reissue record (R440). -/
def State.imgLanes (s : State) (a : Nat) (priv : Bool) : List LaneAcc :=
  let base := if priv then 0 else s.img a 24 8 % vaMod
  let disp := sext (s.img a 32 4) 32
  (lanes (BitVec.ofNat 64 (s.img a 8 8))).map (fun l =>
    let off := sext (s.img (a + 64) (4 * l) 4) 32 + disp
    ⟨l, if priv then off.toNat else vaAt base off, 0, [], [], none, 0, none⟩)

/-- The rows of a parked TCOPY wait again for its replay, as many as TCP still counts: those that have landed are done (R324, R440). -/
def State.imgRows (s : State) (w ctx asid die : Nat) : State :=
  match tfind s.warps w with
  | none => s
  | some x =>
    let first := ((List.range 256).find? (fun r => !rowIn x.landed r)).getD 0
    (List.range x.tcp).foldl (fun (s : State) i =>
      let k : OpKind := if rowIn x.landed (first + i) then .done else .row (first + i) false 0 [] false
      { s with uid := s.uid + 1, ops := s.ops ++ [⟨s.uid, w, 0, die, ctx, 0, [], some (.tcp, 1), k, 2, asid⟩] }) s

/-- The split that held at the load of a record: its group stands there, its lanes hold the record's, and it has not been given the load
made again yet. -/
def State.heldAt (s : State) (w pc : Nat) (m : Mask) : Option Nat :=
  (tfind s.warps w).bind (fun x => (List.range 4).find? (fun i =>
    let p := x.split i
    (match p.wait with | .op k => (s.op k).isNone | _ => false) && p.first == pc && m &&& ~~~p.mask == 0))

/-- A split that held at a load whose record a handler has taken out goes on past it. -/
def State.passLoads (s : State) (w : Nat) : State :=
  s.setWarp w (fun x => { x with splits := x.splits.map (fun p => match p.wait with
    | .op k => if (s.op k).isNone then p.completed else p
    | _ => p) })

/-- One plain load made again before its warp issues (R96, R440): counted, its destination empty until it ends, and the split that held for
it holds for it again. -/
def State.imgReissue (s : State) (w ctx asid die a : Nat) : State :=
  let m := s.img a 8 8
  let z := s.img a 37 1
  let vd := s.img a 38 1 % 128
  let sx := bit (s.img a 38 1) 7
  let ord := s.img a 39 1
  let disp := sext (s.img a 32 4) 32
  let r : Reissue := ⟨s.img a 24 8 % vaMod, disp, bit ord 5⟩
  if m = 0 then s
  else
    let full := vref vd (groupRegs z)
    let kind := s.img a 36 1
    let sp := s.heldAt w (s.img a 0 8 % vaMod) (BitVec.ofNat 64 m)
    let op := fun (p : Option Path) (k : OpKind) =>
      let o : Op := ⟨s.uid, w, sp.getD 0, die, ctx, s.img a 0 8 % vaMod, full, p.map (fun q => (q, 1)), k, 2, asid⟩
      let t := { s with uid := s.uid + 1, ops := s.ops ++ [o] }
      let t := match sp with
        | some i => t.setWarp w (fun x => x.setSplit i (fun p => { p with wait := .op o.id }))
        | none => t
      (t.setWarp w (fun x => (p.map (fun q => x.setCount q (x.count q + 1))).getD x |>.markAll true full), o)
    match kind with
    | 0 =>
      let x := op (some .gld) (.load (s.imgLanes a false) z sx vd (bits ord 0 2) (bits ord 2 3) 2 r)
      x.1.reissueLoad x.2
    | 1 => (op (some .gld) (.load (s.imgLanes a true) z sx vd (bits ord 0 2) (bits ord 2 3) 1 r)).1
    | 3 =>
      let x := op (some .tmd) (.ldt (s.imgLanes a false) z vd (s.img a 16 8) (bits ord 0 2 == 1) [64] [] r)
      x.1.reissueLoad x.2
    | _ =>
      match s.cxOf w 0 with
      | none => s
      | some c =>
        let acc := (s.imgLanes a true).map (fun l => (l.lane, toBits l.va 32))
        let u := bits ord 6 2
        if acc.any (fun p => remoteBit p.2) then
          (op (some .lrm) (.remote false (acc.map (fun p => ⟨p.1, p.2, s.localTarget c p.2, [], [], none, 0, none⟩)) z vd r)).1
        else
          let y := acc.foldl (fun (q : State × List RegWrite) p =>
            let x := q.1.localRead c.gid u (bits p.2 0 18) z
            (x.1, q.2 ++ loadWrites vd p.1 z sx x.2.1 x.2.2)) (s, [])
          let x := op none (.ldl y.2 acc z vd u r)
          { x.1 with free := y.1.free }

/-- A saved workgroup admitted again to a core from slot b on: every field of its image is restored, its loads are made again,
and its block goes back to SAVELIST (R438, R442). -/
def State.restoreTo (s : State) (block core b : Nat) : State :=
  match s.imgGrid block with
  | none => s
  | some (gid, gr, lin) =>
    let s := s.wakeCore core
    let d := core / Config.dieCores
    let flags := s.img block 13 1
    let n := gr.warpsPer
    let known := s.imgGroup gid lin
    let u := known.getD s.uid
    let s := match known with
      | some _ => s
      | none => { s with
          uid := s.uid + 1 + n
          groups := tput s.groups u { grid := gid, lin := lin, core := core, warps := (List.range n).map (fun i => u + 1 + i)
                                      st := .saved, abuf := [], wbuf := [], cbuf := [], bufP := [], priv := 0, children := 0
                                      stream := none, since := 0, told := 0 } }
    match tfind s.groups u with
    | none => s
    | some g =>
      let buf := fun (i k : Nat) => (List.range (4096 * k)).foldl (fun (t : Table Byte) o =>
        tset 0 t o (memByte s.mem (block + bufImage i + o))) ([] : Table Byte)
      let bad := [(0, gr.agr), (1, gr.wgr), (2, gr.cgr)].flatMap (fun p =>
        ((List.range (1024 * p.2)).filter (fun k => s.poisoned (block + bufImage p.1 + 4 * k) 4)).map (fun k => p.1 * 2 ^ 20 + k))
      let s := (List.range n).foldl (fun (s : State) i =>
        let w := g.warps.getD i 0
        let a := block + 0x80000 + i * warpBlock gr
        let x := s.imgWarp gr a (block + 0x1000 + 32 * i) u i core ((b + i) % 4) flags (tfind s.kept w)
        { s with warps := tput s.warps w x, kept := terase s.kept w }) s
      let s := s.setGroup u (fun g => { g with
        core := core
        st := if bit flags 0 then .halted else if (s.groupWarps g).all (fun x => x.life == .exited) then .exited else .running
        abuf := buf 0 gr.agr
        wbuf := buf 1 gr.wgr
        cbuf := buf 2 gr.cgr
        bufP := bad
        priv := s.img block 48 8
        told := 0 })
      let s := (List.range n).foldl (fun (s : State) i =>
        let s := s.imgRows (g.warps.getD i 0) gr.ctx (s.ctx gr.ctx).asid d
        ((List.range 32).foldl (fun (s : State) k =>
          s.imgReissue (g.warps.getD i 0) gr.ctx (s.ctx gr.ctx).asid d (block + 0x80000 + i * warpBlock gr + 0x4000 + 320 * k)) s).passLoads
          (g.warps.getD i 0)) s
      let s : State := match g.stream with
        | some m => if bit flags 4 then s.setStream m (fun x => { x with
            st := .run
            pc := s.img block 64 8 % vaMod
            xb := BitVec.ofNat 64 (s.img block 72 8)
            xs := BitVec.ofNat 64 (s.img block 80 8)
            lc := if s.img block 88 4 = 0 then none else some (s.img block 88 4)
            la := s.img block 92 8 % vaMod }) else s
        | none => s
      let s : State := s.setGrid gid (fun x => { x with away := x.away - 1 })
      (s.pushFree d (s.ctx gr.ctx).savelist block id).openBars u

end Sys2Proof.Machine
end

