-- ==== Sys2Proof/Machine/Dispatcher.lean ====
section
/-! DEFINITION. The dispatchers: the dispatch step (R457 to R460), readmission of saved workgroups (R437, R442), promotion,
retirement (R59), completion of grids (R461), and FREEZE, THAW and DROP (R495). -/

namespace Sys2Proof.Machine

/-! ### Saved workgroups -/

/-- The images of a slot's SAVED list move to its queue for admission, in the order they are popped (R437). -/
def State.popSaved (s : State) (d ctx : Nat) : Nat → State
  | 0 => s
  | n + 1 =>
    let c := s.ctx ctx
    if c.hold then s
    else match s.popFree d c.saved id with
      | (_, none) => s
      | (s1, some b) => State.popSaved (s1.setCtx ctx (fun x => { x with reload := x.reload ++ [b] })) d ctx n

/-- Blocks of a slot that may wait on its SAVED list: one for each workgroup saved and not admitted again. -/
def State.awayOf (s : State) (ctx : Nat) : Nat :=
  s.grids.foldl (fun n g => if g.2.ctx = ctx then n + g.2.away else n) 0

/-- The images that must be admitted with an image: all of a .coop grid's or of a cluster's saved workgroups (R56, R62). -/
def State.imageMates (s : State) (l : List Nat) (block : Nat) : List Nat :=
  match s.imgGrid block with
  | none => []
  | some (gid, g, lin) =>
    let with_ := fun (f : Nat → Bool) => l.filter (fun b => match s.imgGrid b with
      | some (i, _, k) => i == gid && f k
      | none => false)
    if g.coop then with_ (fun _ => true)
    else if g.cluster ≠ 0 then with_ (fun k => k / g.cluster == lin / g.cluster)
    else [block]

/-- Saved workgroups of the grid, or of the cluster, that an image belongs to. -/
def State.savedMates (s : State) (block : Nat) : Nat :=
  match s.imgGrid block with
  | none => 0
  | some (gid, g, lin) =>
    (s.groups.filter (fun x => x.2.grid == gid && x.2.st == .saved
      && (g.coop || (g.cluster != 0 && x.2.lin / g.cluster == lin / g.cluster)))).length

/-- One image admitted to a core of a list (R459). -/
def State.restoreOne (s : State) (block : Nat) (cores : List Nat) : Option State :=
  match s.imgGrid block with
  | none => none
  | some (_, g, _) => (s.findCore g cores).map (fun p => s.restoreTo block p.1 p.2)

/-- Images admitted one after another, each on the die it was saved on, or none. -/
def State.restoreRun (s : State) (cores : Nat → List Nat) : List Nat → Option State
  | [] => some s
  | b :: r => (s.restoreOne b (cores (s.img b 31 1 % 4))).bind (fun t => t.restoreRun cores r)

/-- An image and its mates admitted at once; a cluster goes whole to one core cluster (R459). -/
def State.restoreMates (s : State) (block : Nat) (l : List Nat) : Option State :=
  match s.imgGrid block with
  | none => none
  | some (_, g, _) =>
    if g.cluster ≠ 0 ∧ g.coop = false then
      (s.restoreRun (fun d => clusterCoreList d 0) l).or (s.restoreRun (fun d => clusterCoreList d 1) l)
    else s.restoreRun dieCoreList l

/-- A slot's queued images admitted on a die, in order, until one does not fit (R437). -/
def State.readmit (s : State) (d ctx : Nat) : Nat → State
  | 0 => s
  | n + 1 =>
    let c := s.ctx ctx
    if c.hold then s
    else match c.reload.find? (fun b => s.img b 31 1 % 4 == d) with
      | none => s
      | some b =>
        let l := s.imageMates c.reload b
        if l.length < s.savedMates b then s
        else match s.restoreMates b l with
          | none => s
          | some t => State.readmit (t.setCtx ctx (fun x => { x with reload := x.reload.filter (fun k => !l.contains k) })) d ctx n

/-! ### The dispatch step (R457, R458) -/

/-- A grid's effective priority: its queue's, or its depth-1 ancestor's queue's, as it stands; 7 once the grid has stayed PROMO ns on the
list. -/
def State.effPrio (s : State) (g : Grid) : Nat :=
  if g.since + (s.die g.owner).promo ≤ (s.die g.owner).time then 7 else max g.prio (s.ancestorPrio 16 g)

/-- The grid may be admitted from (R457, R495). A slot's saved workgroups go before its unstarted ones (R437). -/
def State.eligible (s : State) (g : Grid) : Bool :=
  let c := s.ctx g.ctx
  !g.frozen && !c.hold && c.reload.isEmpty && s.awayOf g.ctx == 0
    && (g.cap == 0 || g.dies.any (fun d => (dieCoreList d).any (fun k => s.inService k && g.cap &&& s.mmaFmt k == g.cap)))

/-- The pending list of a die in its order (R457). -/
def State.pendingOrder (s : State) (d : Nat) : List (Nat × Grid) :=
  sortBy (fun (a b : Nat × Grid) =>
      decide (s.effPrio b.2 < s.effPrio a.2) || (s.effPrio a.2 == s.effPrio b.2 && a.2.device && !b.2.device))
    ((s.die d).pending.filterMap (fun i => (tfind s.grids i).map (fun g => (i, g))))

/-- A grid with every workgroup admitted leaves the pending list. -/
def State.leaveList (s : State) (gid : Nat) : State :=
  match tfind s.grids gid with
  | some g => if g.total ≤ g.next then s.setDie g.owner (fun x => { x with pending := x.pending.filter (fun i => i != gid) }) else s
  | none => s

/-- Workgroups of a grid admitted as one step: as many as fit, or for .coop all or none (R62). -/
def State.admitGrid (s : State) (gid : Nat) (g : Grid) : State :=
  let t := s.admitWhile (s.dieOrder g) gid (min (g.total - g.next) 98304)
  let all := ((tfind t.grids gid).map (fun x => decide (x.total ≤ x.next))).getD false
  if g.coop && !all then s else t.leaveList gid

/-- DISPATCH_STEP (R457). -/
def execDispatchStep (d : Nat) (s : State) : Out :=
  if 4 ≤ d then .next s
  else
    let s := (s.ctxs.map (fun e => e.1)).foldl (fun (s : State) c => s.popSaved d c (s.awayOf c)) s
    let s := (s.ctxs.map (fun e => e.1)).foldl (fun (s : State) c => s.readmit d c (s.ctx c).reload.length) s
    match (s.pendingOrder d).find? (fun p => s.eligible p.2) with
    | some (gid, g) => .next (s.admitGrid gid g)
    | none => .next s

/-- GRID_PROMOTION (R457). -/
def execGridPromotion (gid : Nat) (s : State) : Out :=
  match tfind s.grids gid with
  | some g =>
    if (s.die g.owner).pending.contains gid ∧ g.since + (s.die g.owner).promo ≤ (s.die g.owner).time then
      .next (s.setGrid gid (fun g => { g with prio := 7 }))
    else .next s
  | none => .next s

/-! ### Retirement and completion (R59, R461) -/

/-- A stream has stopped, and its status is written or given up (R461, R500). -/
def State.streamDone (s : State) (n : Nat) : Bool :=
  match tfind s.streams n with
  | none => true
  | some x => (match x.st with | .stopped _ => true | _ => false)
      && !s.completions.any (fun k => k.ctx == x.ctx && (x.group.isSome || x.status != 0) && k.va == x.status)

/-- The workgroup may retire: its warps have exited, its child grids have retired, its bound stream has ended, and no workgroup of
its cluster still runs (R59, R83). Accesses that its warps left pending are performed first: the grid's completion releases them (R112, R114,
R461). -/
def State.mayRetire (s : State) (g : Group) (gr : Grid) : Bool :=
  g.st == .exited && g.children == 0 && (g.stream.map s.streamDone).getD true
    && (s.clusterOf g gr).all (fun x => x.2.st == .exited) && !s.ops.any (fun o => g.warps.contains o.warp && o.kind.holdsRelease)

/-- WORKGROUP_RETIRE (R59): its private memory is discarded. -/
def execWorkgroupRetire (n : Nat) (s : State) : Out :=
  match tfind s.groups n with
  | none => .next s
  | some g =>
    match tfind s.grids g.grid with
    | none => .next s
    | some gr =>
      if s.mayRetire g gr = false then .next s
      else
        let size := gr.warpsPer * gr.w * gr.privSize
        let out := fun (a : Nat) => decide (a < g.priv) || decide (g.priv + size ≤ a)
        let s := { s with
          groups := terase s.groups n
          warps := g.warps.foldl (fun (t : Table Warp) w => terase t w) s.warps
          privMem := s.privMem.filter (fun c => out c.1)
          privP := s.privP.filter (fun k => out (8 * k)) }
        let s := match g.stream with
          | some m => { s with streams := terase s.streams m }
          | none => s
        .next (s.setGrid g.grid (fun x => { x with retired := x.retired + 1 }))

/-- GRID_COMPLETE (R461). -/
def execGridComplete (gid : Nat) (s : State) : Out :=
  match tfind s.grids gid with
  | none => .next s
  | some g =>
    if g.next < g.total ∨ g.retired < g.total ∨ s.groups.any (fun x => x.2.grid == gid) then .next s
    else
      let s := s.releaseAll g.owner
      let s := if g.doneSem = 0 then s else s.completeSem g.owner g.ctx g.doneSem (whoEngine g.owner 1)
      let s := match g.parent with
        | some p => s.setGroup p (fun y => { y with children := y.children - 1 })
        | none => s
      let s := s.setDie g.owner (fun x => { x with pending := x.pending.filter (fun i => i != gid) })
      .next { s with grids := terase s.grids gid }

/-! ### GSEL, GADM, GCMD (R488, R495) -/

/-- The grid that GSEL names, where it is on the die's pending list. -/
def State.selected (s : State) (d : Nat) : Option (Nat × Grid) :=
  let n := (s.die d).gsel.toNat
  if (s.die d).pending.contains n then (tfind s.grids n).map (fun g => (n, g)) else none

/-- A grid's frozen mark written. -/
def State.freezeGrid (s : State) (d : Nat) (on : Bool) : State :=
  match s.selected d with
  | some (n, _) => s.setGrid n (fun g => { g with frozen := on })
  | none => s

/-- The unadmitted workgroups of a frozen grid removed. -/
def State.dropGrid (s : State) (d : Nat) : State :=
  match s.selected d with
  | some (n, g) => if g.frozen then (s.setGrid n (fun g => { g with total := g.next })).leaveList n else s
  | none => s

/-- FREEZE (R495). -/
def execFreeze (d : Nat) (s : State) : Out := .next (s.freezeGrid d true)

/-- THAW (R495). -/
def execThaw (d : Nat) (s : State) : Out := .next (s.freezeGrid d false)

/-- DROP (R495). -/
def execDrop (d : Nat) (s : State) : Out := .next (s.dropGrid d)

end Sys2Proof.Machine
end

