-- ==== Sys2Proof/Machine/Queues.lean ====
section
/-! DEFINITION. Host queues: descriptors (R450), TAIL and QCTL (R448, R451, R456), and the records taken at HEAD (R452 to R455). -/

namespace Sys2Proof.Machine

/-- The dispatcher's copy of a queue's descriptor. -/
def State.queue (s : State) (q : Nat) : Queue := tget Queue.reset s.queues q

/-- A queue changed. -/
def State.setQueue (s : State) (q : Nat) (f : Queue → Queue) : State :=
  { s with queues := tset Queue.reset s.queues q (f (s.queue q)) }

/-! ### Descriptors (R450) -/

/-- Where the descriptor of a queue lies for a die. -/
def State.descAt (s : State) (d q : Nat) : Nat := (s.die d).qtbase + 64 * q

/-- A field of a queue's descriptor in memory. -/
def State.descField (s : State) (d q o n : Nat) : Nat := ofBytes (s.home (s.descAt d q + o) n)

/-- HEAD, TAIL and ERR. -/
def State.queueHead (s : State) (d q : Nat) : Nat := s.descField d q 16 4
def State.queueTail (s : State) (d q : Nat) : Nat := s.descField d q 20 4
def State.queueErr (s : State) (d q : Nat) : Nat := s.descField d q 24 2

/-- A descriptor's bytes are valid (R450, R456). -/
def State.descOk (s : State) (l : List Byte) : Bool :=
  let w := leAt l 0 8
  let b := leAt l 8 8
  bits w 6 10 == 0 && bits w 28 4 == 0 && bits w 36 28 == 0 && decide (4 ≤ bits w 32 4) && bits b 0 6 == 0 && bits b 52 12 == 0
    && leAt l 26 2 == 0 && (l.drop 32).all (fun x => x == 0) && (s.ctx (bits w 16 12)).valid

/-- The descriptor of a queue as the message's die reads it: OWNER says which die reads the records. -/
def State.readDesc (s : State) (d q : Nat) : State :=
  let l := s.home (s.descAt d q) 64
  let w := leAt l 0 8
  let s1 := s.setQueue q (fun x => { x with
    known := true
    en := bit w 0
    prio := bits w 1 3
    owner := bits w 4 2
    ctx := bits w 16 12
    log2 := bits w 32 4
    base := bits (leAt l 8 8) 6 46 * 64 })
  if s.descOk l then s1 else s1.queueError q 5

/-- ERR cleared by a RESUME (R456). -/
def State.clearErr (s : State) (d q : Nat) : State := s.tellHost d (s.descAt d q + 24) [0, 0]

/-! ### TAIL and QCTL (R448, R451, R456) -/

/-- An OHL port is up (R473, R475). -/
def State.portUp (s : State) (port : Nat) : Bool := port == 0 || (port == 1 && s.ohl1)

/-- A message discarded or ignored by the far die of its port, and counted (R447, R488). -/
def State.discard (s : State) (port : Nat) : State :=
  s.setDie (2 + port) (fun x => { x with ohldisc := (x.ohldisc + 1) % 2 ^ 64 })

/-- An earlier message of the port is not yet applied (R448). -/
def State.portWaits (s : State) (port : Nat) : Bool := s.outstanding.any (fun m => m.port == port)

/-- TAIL set, and the queue stopped with OVER where the ring cannot hold what it names (R451). -/
def State.setTail (s : State) (port q v : Nat) : State :=
  let s := if (s.queue q).known then s else s.readDesc (2 + port) q
  let d := (s.queue q).owner
  if 2 ^ 31 ≤ (v + 2 ^ 32 - s.queueTail d q) % 2 ^ 32 then s.discard port
  else
    let s := s.tellHost d (s.descAt d q + 20) (toBytes v 4)
    if s.queueErr d q = 0 ∧ 2 ^ (s.queue q).log2 < (v + 2 ^ 32 - s.queueHead d q) % 2 ^ 32 then s.queueError q 4 else s

/-- TAIL (R451). -/
def execTail (port : Nat) (arg : BitVec 64) (s : State) : Out :=
  if s.portUp port = false then .next s
  else if s.booted = false ∨ bits arg.toNat 13 19 ≠ 0 then .next (s.discard port)
  else if s.portWaits port then .next s
  else .next (s.setTail port (bits arg.toNat 0 13) (bits arg.toNat 32 32))

/-- A QCTL is well formed with the one bit set (R447, R456). -/
def qctlOk (arg : BitVec 64) (resume : Bool) : Bool :=
  let n := arg.toNat
  bits n 13 3 == 0 && bits n 18 46 == 0 && bit n 16 == resume && bit n 17 != resume

/-- A QCTL that is no RESUME, or no STOP: the row takes the ill-formed ones too, which are discarded. -/
def qctlOther (arg : BitVec 64) (resume : Bool) : Bool := qctlOk arg (!resume)

/-- QCTL with RESUME (R456). -/
def State.resumeQueue (s : State) (port q : Nat) : State :=
  let s := s.clearErr (s.queue q).owner q
  let s := s.readDesc (2 + port) q
  s.setQueue q (fun x => { x with stop := false, work := if x.fault.isSome then x.work else .idle })

/-- QCTL with STOP (R456). -/
def State.stopQueue (s : State) (port q : Nat) : State :=
  (s.readDesc (2 + port) q).setQueue q (fun x => { x with stop := true })

/-- QCTL_RESUME (R456). -/
def execQctlResume (port : Nat) (arg : BitVec 64) (s : State) : Out :=
  if s.portUp port = false ∨ qctlOther arg true then .next s
  else if s.booted = false ∨ qctlOk arg true = false then .next (s.discard port)
  else if s.portWaits port then .next s
  else .next (s.resumeQueue port (bits arg.toNat 0 13))

/-- QCTL_STOP (R456). -/
def execQctlStop (port : Nat) (arg : BitVec 64) (s : State) : Out :=
  if s.portUp port = false ∨ qctlOther arg false then .next s
  else if s.booted = false ∨ qctlOk arg false = false then .next (s.discard port)
  else if s.portWaits port then .next s
  else .next (s.stopQueue port (bits arg.toNat 0 13))

/-! ### Records (R451 to R455) -/

/-- The record at HEAD of a queue that may take one, read as a system-scope acquire: its owner, and its 64 bytes (R451). -/
def State.nextRecord (s : State) (q : Nat) : Option (State × List Byte) :=
  let x := s.queue q
  let d := x.owner
  let h := s.queueHead d q
  let may := match x.work with
    | .idle => !x.stop
    | .reading => true
    | _ => false
  if x.known && x.en && may && x.fault.isNone && s.queueErr d q == 0 && h != s.queueTail d q then
    some (s.applyAll d, (s.applyAll d).home (x.base + 64 * (h % 2 ^ x.log2)) 64)
  else none

/-- KIND of a record, and whether it is one of the five (R452). -/
def recordKind (l : List Byte) : Nat := leAt l 0 1 % 16
def kindOk (l : List Byte) : Bool := decide (1 ≤ recordKind l) && decide (recordKind l ≤ 5)

/-- The record at HEAD is consumed (R451). -/
def State.consume (s : State) (q : Nat) : State :=
  let d := (s.queue q).owner
  (s.tellHost d (s.descAt d q + 16) (toBytes (s.queueHead d q + 1) 4)).setQueue q (fun x => { x with work := .idle })

/-- A row that takes the record at HEAD: a record of an invalid kind stops the queue with INVALID (R452, R456); one of another
valid kind is for another row. -/
def takeRecord (kind q : Nat) (s : State) (f : State → List Byte → State) : Out :=
  match s.nextRecord q with
  | none => .next s
  | some (t, l) =>
    if kindOk l = false then .next (t.queueError q 1)
    else if recordKind l ≠ kind then .next s
    else .next (f t l)

/-- A queue waits on a fault of its dispatcher (R426, R453, R500). -/
def State.queueFaulted (s : State) (q kind : Nat) (e : WalkFault × Nat) (work : QueueWork) : State :=
  let x := s.queue q
  let r := s.agentFault x.owner x.ctx kind e (whoEngine x.owner 1) (3, q)
  r.1.setQueue q (fun x => { x with fault := some r.2, work := work })

/-- LAUNCH_RECORD (R453, R457). -/
def execLaunchRecord (q : Nat) (s : State) : Out :=
  takeRecord 1 q s (fun s l =>
    let x := s.queue q
    match s.readLaunch x.owner x.ctx l with
    | .error e => s.queueFaulted q 9 e .reading
    | .ok (t, none) => t.queueError q 1
    | .ok (t, some g) =>
      if t.neverFits g then t.queueError q 2
      else (t.enterGrid x.owner { g with queue := some q }).consume q)

/-- A stream start record is valid (R452, R454). -/
def streamRecOk (l : List Byte) : Bool :=
  bits (leAt l 0 8) 6 58 == 0 && leAt l 8 8 % 4 == 0 && leAt l 32 8 % 8 == 0 && leAt l 40 8 % 16 == 0 && (l.drop 48).all (fun b => b == 0)

/-- STREAM_START_RECORD (R454). -/
def execStreamStartRecord (q : Nat) (s : State) : Out :=
  takeRecord 2 q s (fun s l =>
    let x := s.queue q
    if !streamRecOk l then s.queueError q 1
    else
      let st : Stream := { die := bits (leAt l 0 8) 4 2, engine := 0, ctx := x.ctx, st := .run, pc := leAt l 8 8 % vaMod
                           xb := BitVec.ofNat 64 (leAt l 16 8), xs := BitVec.ofNat 64 (leAt l 24 8), lc := none, la := 0, flags := 0
                           group := none, status := leAt l 40 8 % vaMod, doneSem := leAt l 32 8 % vaMod, queue := some q
                           fault := none, moved := 0, quota := none }
      (s.startStream st).1.consume q)

/-- A wait record is valid (R452, R455). -/
def waitRecOk (l : List Byte) : Bool :=
  bits (leAt l 0 8) 4 60 == 0 && leAt l 8 8 % 8 == 0 && (l.drop 24).all (fun b => b == 0)

/-- WAIT_RECORD (R455). -/
def execWaitRecord (q : Nat) (s : State) : Out :=
  takeRecord 3 q s (fun s l =>
    if !waitRecOk l then s.queueError q 1
    else s.setQueue q (fun x => { x with work := .waiting (leAt l 8 8 % vaMod) (leAt l 16 8) }))

/-- The semaphore that a queue's record names, or its fault; a page of the BF16 window forbids it (R500). -/
def State.queueSem (s : State) (q va : Nat) (need : Need) : Except (WalkFault × Nat) Nat :=
  let x := s.queue q
  match s.translate x.owner x.ctx va need with
  | .error e => .error (e, va / 65536 * 65536)
  | .ok t => if t.window.isSome then .error ((.perm, false), va / 65536 * 65536) else .ok t.pa

/-- WAIT_SATISFIED (R455). -/
def execWaitSatisfied (q : Nat) (s : State) : Out :=
  let x := s.queue q
  match x.work with
  | .waiting va th =>
    if x.fault.isSome then .next s
    else match s.queueSem q va .load with
      | .error e => .next (s.queueFaulted q 10 e x.work)
      | .ok pa => if th ≤ s.semValue pa then .next ((s.applyAll x.owner).consume q) else .next s
  | _ => .next s

/-- A signal record is valid (R452, R455). -/
def signalRecOk (l : List Byte) : Bool :=
  bits (leAt l 0 8) 4 60 == 0 && leAt l 8 8 % 8 == 0 && decide (leAt l 24 1 ≤ 1) && (l.drop 25).all (fun b => b == 0)

/-- SIGNAL_RECORD (R455). -/
def execSignalRecord (q : Nat) (s : State) : Out :=
  takeRecord 4 q s (fun s l =>
    if !signalRecOk l then s.queueError q 1
    else s.setQueue q (fun x => { x with work := .signalling (leAt l 8 8 % vaMod) (leAt l 16 8) (leAt l 24 1 == 1) }))

/-- Every launch of the queue has completed and every stream has stopped (R455). -/
def State.queueQuiet (s : State) (q : Nat) : Bool :=
  !s.grids.any (fun g => g.2.queue == some q)
    && !s.streams.any (fun x => x.2.queue == some q && (match x.2.st with | .stopped _ => false | _ => true))

/-- SIGNAL_PERFORM (R455): a system-scope release. -/
def execSignalPerform (q : Nat) (s : State) : Out :=
  let x := s.queue q
  match x.work with
  | .signalling va v set =>
    if x.fault.isSome ∨ s.queueQuiet q = false then .next s
    else match s.queueSem q va (if set then .store else .atomic) with
      | .error e => .next (s.queueFaulted q 10 e x.work)
      | .ok pa =>
        let s := s.releaseAll x.owner
        .next ((s.tellHost x.owner pa (toBytes (if set then v else s.semValue pa + v) 8)).consume q)
  | _ => .next s

/-- NOP_RECORD (R452). -/
def execNopRecord (q : Nat) (s : State) : Out :=
  takeRecord 5 q s (fun s l =>
    if leAt l 0 1 = 5 ∧ (l.drop 1).all (fun b => b == 0) = true then s.consume q else s.queueError q 1)

end Sys2Proof.Machine
end

