-- ==== Sys2Proof/Machine/Expanders.lean ====
section
/-! DEFINITION. CXL expanders: the port commands (R469 to R471). -/

namespace Sys2Proof.Machine

/-- The die that drives port e (R16). -/
def portDie (e : Nat) : Nat := 2 + e / 4

/-- A range of size gigabytes from base lies in nothing that the address map or another port holds. -/
def State.rangeFree (s : State) (e base size : Nat) : Bool :=
  let n := size * 1000000000
  s.regions.all (fun r => decide (base + n ≤ r.base) || decide (r.base + r.size ≤ base))
    && (List.range 8).all (fun k =>
      let p := s.port k
      k == e || !p.enum || decide (base + n ≤ p.base) || decide (p.base + p.size * 1000000000 ≤ base))

/-- A command written to a port: one bit (R470, R471). -/
def State.portCommand (s : State) (e cmd : Nat) : State :=
  let p := s.port e
  s.reporting (fun s =>
    match cmd with
    | 1 => if p.inserv then s else s.setPort e (fun p => { p with busy := true, enum := false })
    | 2 => if p.enum then s.setPort e (fun p => { p with inserv := true }) else s
    | 4 => if p.inserv then s.setPort e (fun p => { p with evac := true }) else s
    | 8 => s.setPort e (fun p => { p with inserv := false, evac := false })
    | _ => s)

/-- ENUMERATE (R471): the port that was asked trains so many lanes, finds an expander of size gigabytes and programs its decoder
at base; no lanes, an expander that is none of the module's (R1), or a range that is taken is a failure, which is logged. -/
def execEnumerate (e base size lanes : Nat) (s : State) : Out :=
  if 8 ≤ e ∨ (s.port e).busy = false then .next s
  else
    let ok := decide (0 < lanes) && decide (lanes ≤ 16) && size == Config.expanderGb
      && base % 2 ^ 30 == 0 && decide (base + size * 1000000000 ≤ 2 ^ 52) && s.rangeFree e base size
    if ok then .next (s.setPort e (fun p => { p with
      up := true
      enum := true
      viral := false
      busy := false
      lanes := lanes
      base := base
      size := size }))
    else
      .next ((s.setPort e (fun p => { p with up := decide (0 < lanes), enum := false, busy := false, lanes := min lanes 16 })).logError
        (portDie e) 0x0A true false false 0 base 0 0 0)

/-- ONLINE (R471). -/
def execOnline (e : Nat) (s : State) : Out := if e < 8 then .next (s.portCommand e 2) else .next s

/-- EVACUATE (R471). -/
def execEvacuate (e : Nat) (s : State) : Out := if e < 8 then .next (s.portCommand e 4) else .next s

/-- OFFLINE (R471). -/
def execOffline (e : Nat) (s : State) : Out := if e < 8 then .next (s.portCommand e 8) else .next s

/-- CXL_VIRAL (R469): the port goes offline. -/
def execCxlViral (e : Nat) (s : State) : Out :=
  if e < 8 then .next ((s.setPort e (fun p => { p with viral := true })).portCommand e 8) else .next s

end Sys2Proof.Machine
end

