-- ==== Sys2Proof/Machine/Hbm.lean ====
section
/-! DEFINITION. HBM4E channels: trial mode, training tests, delays, repair (R484, R485), self-refresh (R477). -/

namespace Sys2Proof.Machine

/-- One channel changed. -/
def State.setChan (s : State) (k : Nat) (f : Chan → Chan) : State := { s with chans := tset Chan.reset s.chans k (f (s.chan k)) }

/-- TRMODE of a channel written (R484). -/
def State.writeTrmode (s : State) (k : Nat) (on : Bool) : State := s.reporting (fun s => s.setChan k (fun c => { c with trmode := on }))

/-- An operation starts: the channel is drained and held (R485). -/
def State.startChan (s : State) (k kind : Nat) (v : DWord) (op : Option Nat) : State :=
  s.reporting (fun s => s.setChan k (fun c => { c with work := some ⟨kind, v, false, op, 0, none⟩, refresh := false }))

/-- A write of TEST runs a test (R484, R485). -/
def testRuns (c : Chan) (v : DWord) : Bool :=
  c.trmode && v.getLsbD 0 && bits v.toNat 2 2 != 3 && bits v.toNat 8 8 != 0

/-- A write of CTL asks for APPLY (R484, R485). -/
def applyRuns (c : Chan) (v : DWord) : Bool := c.trmode && v.getLsbD 1

/-- A write of REPAIR is not ignored (R485): both spares on one lane are. -/
def repairRuns (v : DWord) : Bool :=
  !(v.getLsbD 7 && v.getLsbD 15 && bits v.toNat 0 7 == bits v.toNat 8 7)

/-- The value that REPAIR holds of a write. -/
def repairValue (v : DWord) : DWord := BitVec.ofNat 64 (bits v.toNat 0 16)

/-- The channel's operation of a kind that has not run, none where it has or another holds the channel. -/
def State.chanWork (s : State) (k kind : Nat) : Option ChanWork :=
  match (s.chan k).work with
  | some w => if w.kind = kind ∧ w.ran = false then some w else none
  | none => none

/-- The channel's operation, started here where the write that starts it has not come. -/
def State.withWork (s : State) (k kind : Nat) (v : DWord) (ok : Bool) : State :=
  match (s.chan k).work with
  | some _ => s
  | none => if ok then s.startChan k kind v none else s

/-- The operation has run, and what it found stands ready for the end of the hold (R416, R485). -/
def Chan.ranWork (c : Chan) (fail : DWord) (table : Option (List Nat)) : Chan :=
  { c with work := c.work.map (fun w => { w with ran := true, fail := fail, table := table }) }

/-- The physical lane that carries a logical one: a spare where REPAIR puts one there (R484). -/
def Chan.wire (c : Chan) (l : Nat) : Nat :=
  if c.repair.getLsbD 7 && bits c.repair.toNat 0 7 == l then 64
  else if c.repair.getLsbD 15 && bits c.repair.toNat 8 7 == l then 65 else l

/-- A live delay of a lane: 32 where no APPLY has loaded another (R484). -/
def liveDelay (t : Table Nat) (l : Nat) : Nat := ((tfind t l).map (fun x => x - 1)).getD 32

/-- Lane l fails a test (R485): at the live delays, but in direction DIR at CODE unless LIVE is set. -/
def Chan.laneFails (c : Chan) (k : Nat) (v : DWord) (l : Nat) : Bool :=
  let code := fun (dir : Nat) (live : Nat) =>
    if v.getLsbD 1 || b2n (c.trial.getLsbD 7) != dir then live else bits c.trial.toNat 0 7
  !(Config.lanePasses k (c.wire l) 0 (code 0 (liveDelay c.rdly l)) c.rate && Config.lanePasses k (c.wire l) 1 (code 1 (liveDelay c.wdly l)) c.rate)

/-- The lanes that a test asked for with the value finds failing. -/
def Chan.testFail (c : Chan) (k : Nat) (v : DWord) : DWord := maskOf ((List.range 64).filter (c.laneFails k v))

/-- TEST (R485): a test of the drained channel, asked for with the value, ends with these lanes failing; a row that names other lanes is of
another channel than this. -/
def execTest (stack ch : Nat) (v fail : BitVec 64) (s : State) : Out :=
  let k := chanKey stack ch
  if !isChan stack ch || fail != (s.chan k).testFail k v then .next s
  else
    let s := s.withWork k 0 v (testRuns (s.chan k) v)
    match s.chanWork k 0 with
    | some w => if w.value = v then .next (s.setChan k (fun c => c.ranWork fail none)) else .next s
    | none => .next s

/-- The delay table that APPLY reads: none where an entry has another bit set (R485). -/
def State.delayTable (s : State) (k : Nat) : Option (List Nat) :=
  let b := s.home (s.chan k).tbl 256
  let l := (List.range 64).map (fun i => leAt b (4 * i) 4)
  if l.all (fun e => !bit e 7 && bits e 15 17 == 0) then some l else none

/-- Delays listed where they are not the reset 32. -/
def delayTab (l : List Nat) : Table Nat :=
  ((List.range l.length).zip l).foldl (fun t e => if e.2 = 32 then t else tput t e.1 (e.2 + 1)) ([] : Table Nat)

/-- APPLY (R484, R485): the table is read; its delays are loaded all at once as the operation ends. -/
def execApply (stack ch : Nat) (s : State) : Out :=
  let k := chanKey stack ch
  if !isChan stack ch then .next s
  else
    let s := s.withWork k 1 3 (s.chan k).trmode
    match s.chanWork k 1 with
    | none => .next s
    | some _ => .next (s.setChan k (fun c => c.ranWork 0 (s.delayTable k)))

/-- REPAIR (R485): the lanes are remapped, and contents stay. -/
def execRepair (stack ch : Nat) (v : BitVec 64) (s : State) : Out :=
  let k := chanKey stack ch
  if !isChan stack ch then .next s
  else
    let s := s.withWork k 2 v (repairRuns v)
    match s.chanWork k 2 with
    | some w => if w.value = v then .next (s.setChan k (fun c => c.ranWork 0 none)) else .next s
    | none => .next s

/-- The register write that started an operation takes effect as the operation ends (R416, R485): the result of a TEST; TRMODE and TERR
beside APPLY and what it loads; REPAIR. -/
def Chan.finish (c : Chan) : Chan :=
  match c.work with
  | none => c
  | some w =>
    let c := { c with work := none }
    match w.kind with
    | 0 => { c with fail := w.fail }
    | 1 =>
      let c := { c with trmode := w.value.getLsbD 0 }
      match w.table with
      | none => { c with terr := true }
      | some l => { c with
          terr := false
          rate := 12800
          rdly := delayTab (l.map (fun e => bits e 0 7))
          wdly := delayTab (l.map (fun e => bits e 8 7)) }
    | _ => { c with repair := repairValue w.value }

/-- HBM_SELF_REFRESH (R477): a channel that serves nothing. -/
def execHbmSelfRefresh (stack ch : Nat) (s : State) : Out :=
  let k := chanKey stack ch
  if !isChan stack ch || (s.chan k).work.isSome then .next s else .next (s.setChan k (fun c => { c with refresh := true }))

end Sys2Proof.Machine
end

