-- ==== Sys2Proof/Machine/Links.lean ====
section
/-! DEFINITION. Die links: schedules and their install (R407, R463 to R465), failing flits (R466). -/

namespace Sys2Proof.Machine

/-- The link's number of R407. -/
def linkNumber (d p : Nat) : Nat :=
  match min d p, max d p with
  | 0, 1 => 0
  | 0, 2 => 1
  | 0, 3 => 2
  | 1, 2 => 3
  | 1, 3 => 4
  | _, _ => 5

/-- Fields of a schedule entry: FIRST and COUNT (R407). -/
def entFirst (e : DWord) : Nat := bits e.toNat 4 9
def entCount (e : DWord) : Nat := bits e.toNat 13 9

/-- A schedule entry is valid on the direction from d to p (R407, R465). -/
def entryOk (d p : Nat) (e : DWord) : Bool :=
  let x := e.toNat
  let cl := bits x 22 3
  bits x 0 3 == linkNumber d p && bit x 3 == decide (p < d) && bits x 25 39 == 0
    && decide (1 ≤ entCount e) && decide (entCount e ≤ 448) && decide (entFirst e + entCount e ≤ 512)
    && decide (1 ≤ cl) && decide (cl ≤ 4)

/-- Two entries claim a common slot. -/
def entClash (a b : DWord) : Bool :=
  decide (entFirst a < entFirst b + entCount b) && decide (entFirst b < entFirst a + entCount a)

/-- No entry claims a slot of a later one. -/
def entsApart : List DWord → Bool
  | [] => true
  | e :: r => !r.any (entClash e) && entsApart r

/-- The latched entries may be installed (R407, R465). -/
def scheduleOk (d p : Nat) (l : List DWord) : Bool :=
  decide (l.length ≤ 64) && l.all (entryOk d p) && entsApart l && decide (l.foldl (fun n e => n + entCount e) 0 ≤ 448)

/-- A write of 1 to COMMIT latches the entries and OWNER (R465). -/
def State.commitLink (s : State) (d p : Nat) : State :=
  s.setLink d p (fun l => { l with
    commit := true
    latched := some ((List.range l.nent).map (fun i => if i < 64 then tget 0 l.entries i else 0), l.owner) })

/-- COMMIT (R465). -/
def execCommit (d p : Nat) (s : State) : Out := if twoDies d p then .next (s.commitLink d p) else .next s

/-- SCHEDULE_INSTALL (R465): the next frame boundary. -/
def execScheduleInstall (d p : Nat) (s : State) : Out :=
  match (s.link d p).latched with
  | none => .next s
  | some l =>
    if !twoDies d p then .next s
    else
      let ok := scheduleOk d p l.1
      .next (s.setLink d p (fun x => { x with
        commit := false
        latched := none
        err := x.err || !ok
        schedule := if ok then l else x.schedule }))

/-- FLIT_REPLAY (R466): the flit is sent again. The second to fourth failure within 1 ms each retrain the link; a fifth finds
that retraining has failed, and the link is lost. -/
def execFlitReplay (d p : Nat) (s : State) : Out :=
  if !twoDies d p || !(s.link d p).up then .next s
  else
    let now := (s.die d).time
    let l := s.link d p
    let n := if l.fails = 0 ∨ l.failAt + 1000000 < now then 1 else l.fails + 1
    let s := s.setLink d p (fun l => { l with
      fails := n
      failAt := if n = 1 then now else l.failAt
      retrain := if 2 ≤ n ∧ n ≤ 4 then min 255 (l.retrain + 1) else l.retrain })
    if n < 5 then .next s
    else .next (((s.setLink d p (fun l => { l with up := false })).setLink p d (fun l => { l with up := false })).note 6 d
      (toBytes (linkNumber d p) 4))

end Sys2Proof.Machine
end

