-- ==== Sys2Proof/Machine/Registers.lean ====
section
/-! DEFINITION. System registers: their addresses (R414, R415), what each reads and what a write does (R6, R7, R416 to R420, R444,
R445, R462 to R472, R484, R485, R488, R490), SRR and SRW, and the rows that are a write of one register. -/

namespace Sys2Proof.Machine

/-! ### Addresses -/

/-- A register named: its block, index, die and context slot. -/
structure RegAddr where
  block : Nat
  idx   : Nat
  die   : Nat
  ctx   : Nat
deriving DecidableEq, Repr

/-- The address read for an agent on a die, or for the host, which has none (R414, R415, R447). -/
def regAddr (a : Nat) (here : Option Nat) : Option RegAddr :=
  let block := bits a 12 8
  let die := bits a 20 2
  let self := bit a 22
  let ctx := bits a 23 12
  let perCtx := block == 1 || block == 2
  if bits a 35 29 ≠ 0 then none
  else if self && (die != 0 || here.isNone) then none
  else if !perCtx && ctx != 0 then none
  else if (perCtx || block == 6) && (self || die != 0) then none
  else
    let d := if self then here.getD 0 else die
    if 0x10 ≤ block ∧ block < 0x18 ∧ d ≠ (block - 0x10) / 4 then none
    else if 0x20 ≤ block ∧ block < 0x28 ∧ d ≠ portDie (block - 0x20) then none
    else some ⟨block, bits a 0 12, d, ctx⟩

/-- Bits [hi:lo] of a value in their place; the rest is dropped (R7). -/
def keep (v : DWord) (hi lo : Nat) : Nat := bits v.toNat lo (hi + 1 - lo) * 2 ^ lo

/-! ### Reads -/

/-- The DIE block (R417). -/
def State.readDie (s : State) (d idx : Nat) : Option Nat :=
  let x := s.die d
  match idx with
  | 0 => some (d + 0x4480 * 2 ^ 16)
  | 1 => some x.fqbase
  | 2 => some x.fqlog2
  | 3 => some ((x.faults.filter (fun r => r.claimed.isNone)).length % 2 ^ 16
      + field (x.faults.filter (fun r => r.claimed.isSome)).length 16 16 + field x.heldFaults.length 32 16)
  | 4 => some x.tqbase
  | 5 => some x.tqlog2
  | 6 => some (x.notices.length % 2 ^ 16 + field x.heldNotices.length 16 16)
  | 7 => some (x.mchk.toNat + field x.mctx 16 12)
  | _ => none

/-- The CTX block (R418). -/
def State.readCtx (s : State) (n idx : Nat) : Option Nat :=
  let c := s.ctx n
  match idx with
  | 0 => some (b2n c.valid + 2 * b2n c.priv + 4 * b2n c.req + 8 * b2n c.hold + field c.asid 16 16)
  | 1 => some c.ptroot
  | 2 => some c.anear
  | 3 => some c.anearsz
  | 4 => some c.afar
  | 5 => some c.afarsz
  | 6 => some c.aclass
  | 7 => some c.trapbase
  | 8 => some (c.trapn + field (b2n c.hostn) 12 1 + field c.trapnext 16 12)
  | 9 => some c.savelist
  | 10 => some c.saved
  | 11 => some c.pdly
  | 12 => some c.dclnint
  | k => if k ≤ 20 then some (if k % 2 = 1 then tget 0 c.rlbase ((k - 13) / 2) else tget 0 c.rlcnt ((k - 14) / 2)) else none

/-- The error log (R444). -/
def State.readLog (s : State) (d idx : Nat) : Option Nat :=
  let x := s.die d
  if idx = 0 then some (x.elnext + field x.elcount 8 8 + field x.ellost 16 32)
  else if 4 ≤ idx ∧ idx < 1028 then some (((tget [] x.elog ((idx - 4) / 4)).getD ((idx - 4) % 4) 0).toNat)
  else none

/-- The injector (R445). -/
def State.readInj (s : State) (d idx : Nat) : Option Nat :=
  let x := s.die d
  match idx with
  | 0 => some x.injtgt.toNat
  | 1 => some x.injaddr.toNat
  | 2 => some x.injmask.toNat
  | 3 => some x.injctl.toNat
  | _ => none

/-- The physical core that serves the core named by CORESVC (R490). -/
def Die.physCore (x : Die) : Nat :=
  let i := x.coresvc.cluster * Config.clusterCores + x.coresvc.core
  (tfind x.phys i).getD x.coresvc.core

/-- Telemetry (R488, R490). -/
def State.readTelem (s : State) (d idx : Nat) : Option Nat :=
  let x := s.die d
  match idx with
  | 0 => some x.late
  | 1 => some x.lnext
  | 2 => some x.demblk
  | 3 => some x.satblk
  | 4 => some x.nfpage
  | 5 => some x.skipint
  | 6 => some x.engskip
  | 7 => some x.englast
  | 8 => some x.dclndrop
  | 9 => some x.tierdrop
  | 10 => some x.movfar
  | 11 => some x.movnear
  | 12 => some x.abandon
  | 13 => some x.freed
  | 14 => some (if d < 2 then 0 else x.ohldisc)
  | 15 => some x.upddrop
  | 64 => some (x.coresvc.core + field x.coresvc.cluster 8 1 + field x.coresvc.state 16 3 + field x.physCore 24 8)
  | 65 => some (x.spares.1 + field x.spares.2 8 3)
  | 80 => some x.gsel.toNat
  | 81 => some (match s.selected d with
    | some (_, g) => g.next % 2 ^ 32 + field 1 32 1 + field (b2n g.frozen) 33 1
    | none => 0)
  | 82 => some 0
  | 83 => some x.updlast
  | 84 => some x.lostfrm
  | 85 => some x.lostlast.toNat
  | k =>
    if 16 ≤ k ∧ k < 48 then some (tget 0 x.lateLog (k - 16)).toNat
    else if 72 ≤ k ∧ k < 80 ∧ portDie (k - 72) = d then some (s.framesIn (k - 72) % 2 ^ 32)
    else none

/-- A channel's physical layer (R484). -/
def State.readPhy (s : State) (stack idx : Nat) : Option Nat :=
  let c := s.chan (chanKey stack (idx / 16))
  if 512 ≤ idx then none
  else match idx % 16 with
    | 0 => some (b2n c.trmode + field (b2n c.terr) 2 1 + field c.rate 16 16)
    | 1 => some c.trial.toNat
    | 2 => some 0
    | 3 => some c.fail.toNat
    | 4 => some c.repair.toNat
    | 5 => some c.tbl
    | _ => none

/-- A port (R470). -/
def State.readPort (s : State) (e idx : Nat) : Option Nat :=
  let p := s.port e
  match idx with
  | 0 => some (b2n p.up + field (b2n p.enum) 1 1 + field (b2n p.inserv) 2 1 + field (b2n p.evac) 3 1 + field (b2n p.viral) 4 1
      + field p.lanes 8 5)
  | 1 => some p.base
  | 2 => some p.size
  | 3 => some 0
  | 4 => some (p.ce % 2 ^ 32 + field p.ue 32 32)
  | _ => none

/-- The number of a discipline state (R468). -/
def TimeState.num : TimeState → Nat
  | .free => 0 | .acquire => 1 | .locked => 2

/-- DTIME (R468). -/
def State.readTime (s : State) (d idx : Nat) : Option Nat :=
  let x := s.die d
  match idx with
  | 0 => some x.time
  | 1 => some (x.tstate.num + ((List.range 4).filter (fun p => (x.peer p).ok)).foldl (fun n p => n + 2 ^ (4 + p)) 0 + field x.good 8 8)
  | 6 => some (toBits x.rate 32)
  | 7 => some (x.missed % 2 ^ 32 + field x.unlocks 32 32)
  | 8 => some (s.heldOn d % 2 ^ 17 + field x.ulrel 32 32)
  | 9 => some (b2n x.en)
  | k => if 2 ≤ k ∧ k ≤ 5 then some (if k - 2 = d then 0 else toBits (x.peer (k - 2)).offset 64) else none

/-- The peer of an index of DLINK with the place within its registers: entries 0 to 63, 64 control, 65 status (R464). -/
def linkIndex (d idx : Nat) : Option (Nat × Nat) :=
  let r := if idx < 256 then some (idx / 64, idx % 64) else if idx < 260 then some (idx - 256, 64)
    else if idx < 264 then some (idx - 260, 65) else none
  r.bind (fun p => if p.1 = d then none else some p)

/-- DLINK (R464). -/
def State.readLink (s : State) (d idx : Nat) : Option Nat :=
  (linkIndex d idx).map (fun p =>
    let l := s.link d p.1
    match p.2 with
    | 64 => b2n l.commit + field (b2n l.err) 1 1 + field l.nent 2 7 + field l.owner 16 12
    | 65 => b2n l.up + field l.retrain 8 8
    | n => (tget 0 l.entries n).toNat)

/-- DISPATCH (R462). -/
def State.readDispatch (s : State) (d idx : Nat) : Option Nat :=
  let x := s.die d
  match idx with
  | 0 => some x.qtbase
  | 1 => some x.dlq
  | 2 => some x.promo
  | 3 => some x.plim
  | 4 => some x.pwr
  | 5 => some x.gate
  | 64 => if 2 ≤ d then some x.msrc else none
  | 65 => if 2 ≤ d then some x.mdst else none
  | 66 => if 2 ≤ d then some x.mlen else none
  | 67 => if 2 ≤ d then some x.msem else none
  | 68 => if 2 ≤ d then some x.moves.length else none
  | _ => none

/-- What a register reads, for a warp or for the host; none where there is no such register (R416). -/
def State.readReg (s : State) (r : RegAddr) (w : Option Warp) : Option DWord :=
  (match r.block with
    | 0x00 => s.readDie r.die r.idx
    | 0x01 => s.readCtx r.ctx r.idx
    | 0x02 => if r.idx < 256 then some ((s.ctx r.ctx).cbEntry r.idx) else none
    | 0x03 => s.readLog r.die r.idx
    | 0x04 => s.readInj r.die r.idx
    | 0x05 => s.readTelem r.die r.idx
    | 0x06 => if r.idx = 0 then w.map (fun (x : Warp) => b2n x.tm + 2) else none
    | 0x30 => s.readTime r.die r.idx
    | 0x31 => s.readLink r.die r.idx
    | 0x32 => s.readDispatch r.die r.idx
    | b => if 0x10 ≤ b ∧ b < 0x18 then s.readPhy (b - 0x10) r.idx
      else if 0x20 ≤ b ∧ b < 0x28 then s.readPort (b - 0x20) r.idx
      else none).map (fun x => BitVec.ofNat 64 x)

/-! ### Writes -/

/-- What a write of a register does: refused under R416, waits, takes effect, or starts an operation that holds a channel. -/
inductive RegOut where
  | refused
  | wait
  | done (s : State)
  | chan (s : State) (key kind : Nat)
deriving DecidableEq, Repr

/-- ELSTAT written: the oldest entries retire (R444). -/
def State.retireLog (s : State) (d n : Nat) : State := s.setDie d (fun x => { x with elcount := x.elcount - n })

/-- A workgroup of the slot is saved, and the list of saved workgroups holds one (R419). -/
def State.holdsSaved (s : State) (ctx : Nat) : Bool :=
  let c := s.ctx ctx
  !c.reload.isEmpty || (s.awayOf ctx != 0 && leAt (s.home c.saved 8) 0 8 != noLink)

/-- Word 0 of a slot written (R75, R418 to R420). -/
def State.writeWord0 (s : State) (ctx : Nat) (v : DWord) : State :=
  let c := s.ctx ctx
  if c.valid && !v.getLsbD 0 && (s.slotResident ctx || s.holdsSaved ctx) then s
  else
    s.setCtx ctx (fun c => { c with
      valid := v.getLsbD 0
      priv := v.getLsbD 1
      req := v.getLsbD 2
      hold := v.getLsbD 3
      asid := bits v.toNat 16 16
      cbmag := if !c.valid && v.getLsbD 0 then [] else c.cbmag
      reqAt := if !c.req && v.getLsbD 2 then s.cyc else c.reqAt })

/-- A CB2 operation of a batch not yet performed has undefined results (R142). -/
def MatOp.blurCb (o : MatOp) : MatOp := if (MatRec.read o.bytes).bfmt = 7 then { o with undefCols := ~~~(0 : Mask) } else o

/-- CB2 results of a warp's batches made undefined. -/
def Warp.blurCb (w : Warp) : Warp :=
  { w with
    openSet := w.openSet.map MatOp.blurCb
    batches := w.batches.map (fun b => { b with ops := b.ops.map MatOp.blurCb }) }

/-- A VCBD in flight has an undefined result, and its flags are open (R142). -/
def OpKind.blurCb (k : OpKind) (d : Nat) : OpKind :=
  match k with
  | .cb l _ => .cb (l.map (fun w => match w with
      | .v r n _ p => .v r n (Config.freeElem d (64 * r + n)) p
      | w => w)) ((Config.freeValue (d + 1)).truncate 5)
  | k => k

/-- Every CB2 result in flight of a slot's grids is undefined (R142), each for itself, those of batches not yet complete that the unit has
already performed included. -/
def State.blurCb (s : State) (ctx : Nat) : State :=
  let mine := fun (w : Warp) => ((tfind s.groups w.group).bind (fun g => tfind s.grids g.grid)).map (fun g => g.ctx == ctx) == some true
  let d := s.free
  let t := { s with
    free := d + 2 * s.ops.length
    warps := s.warps.map (fun (e : Nat × Warp) => if mine e.2 then (e.1, e.2.blurCb) else e)
    ops := s.ops.zipIdx.map (fun (q : Op × Nat) => if q.1.ctx = ctx then { q.1 with kind := q.1.kind.blurCb (d + 2 * q.2) } else q.1) }
  s.warps.foldl (fun (s : State) e => if mine e.2 then s.again e.1 (fun b => !b.done) MatOp.blurCb else s) t

/-- A CBMAG entry written (R142, R420). -/
def State.writeCbmag (s : State) (ctx i : Nat) (v : DWord) : State :=
  let x := bits v.toNat 0 16
  (s.blurCb ctx).setCtx ctx (fun c => { c with
    cbmag := if x = cbReset.getD i 0 then terase c.cbmag i else tput c.cbmag i (x + 1) })

/-- The DIE block written. -/
def State.writeDie (s : State) (d idx : Nat) (v : DWord) : RegOut :=
  match idx with
  | 0 => .done s
  | 1 => .done (if (s.die d).faults ≠ [] then s else s.setDie d (fun x => { x with fqbase := keep v 51 7 }))
  | 2 => .done (s.writeFqlog2 d (keep v 3 0))
  | 3 => .done s
  | 4 => .done (if (s.die d).notices ≠ [] then s else s.setDie d (fun x => { x with tqbase := keep v 51 4 }))
  | 5 => .done (s.writeTqlog2 d (keep v 3 0))
  | 6 => .done s
  | 7 => .done (s.setDie d (fun x => { x with mchk := x.mchk &&& ~~~(v.truncate 6) }))
  | _ => .refused

/-- The CTX block written. -/
def State.writeCtx (s : State) (n idx : Nat) (v : DWord) : RegOut :=
  let put := fun (f : Ctx → Ctx) => RegOut.done (s.setCtx n f)
  match idx with
  | 0 => .done (s.writeWord0 n v)
  | 1 => put (fun c => { c with ptroot := keep v 51 12 })
  | 2 => put (fun c => { c with anear := keep v 51 12 })
  | 3 => put (fun c => { c with anearsz := keep v 31 0 })
  | 4 => put (fun c => { c with afar := keep v 51 12 })
  | 5 => put (fun c => { c with afarsz := keep v 31 0 })
  | 6 => put (fun c => { c with aclass := keep v 51 6 })
  | 7 => put (fun c => { c with trapbase := keep v 51 13 })
  | 8 => put (fun c => { c with trapn := keep v 11 0, hostn := v.getLsbD 12 })
  | 9 => put (fun c => { c with savelist := keep v 51 4 })
  | 10 => put (fun c => { c with saved := keep v 51 4 })
  | 11 => put (fun c => { c with pdly := keep v 31 0 })
  | 12 => put (fun c => { c with dclnint := keep v 47 0 })
  | k =>
    if 20 < k then .refused
    else if k % 2 = 1 then put (fun c => { c with rlbase := tset 0 c.rlbase ((k - 13) / 2) (keep v 56 4) })
    else put (fun c => { c with rlcnt := tset 0 c.rlcnt ((k - 14) / 2) (keep v 23 0) })

/-- The error log written. -/
def State.writeLog (s : State) (d idx : Nat) (v : DWord) : RegOut :=
  if idx = 0 then .done (s.retireLog d (bits v.toNat 8 8)) else if (s.readLog d idx).isSome then .done s else .refused

/-- The injector written. -/
def State.writeInj (s : State) (d idx : Nat) (v : DWord) : RegOut :=
  match idx with
  | 0 => .done (s.setDie d (fun x => { x with injtgt := BitVec.ofNat 64 (keep v 18 0) }))
  | 1 => .done (s.setDie d (fun x => { x with injaddr := v }))
  | 2 => .done (s.setDie d (fun x => { x with injmask := v }))
  | 3 => .done (s.setDie d (fun x => { x with injctl := BitVec.ofNat 64 (keep v 1 0) }))
  | _ => .refused

/-- CORESVC written: CORE and CLUSTER are held, and DRAIN starts a replacement (R490, R491). -/
def State.writeCoresvc (s : State) (d : Nat) (v : DWord) : State :=
  if v.getLsbD 9 then s.drainCore d v
  else s.setDie d (fun x => { x with coresvc := { x.coresvc with core := bits v.toNat 0 8, cluster := bits v.toNat 8 1 } })

/-- GCMD written: one bit (R495). -/
def State.gridCommand (s : State) (d : Nat) (v : DWord) : State :=
  match bits v.toNat 0 3 with
  | 1 => s.freezeGrid d true
  | 2 => s.freezeGrid d false
  | 4 => s.dropGrid d
  | _ => s

/-- Telemetry written. -/
def State.writeTelem (s : State) (d idx : Nat) (v : DWord) : RegOut :=
  match idx with
  | 64 => .done (s.writeCoresvc d v)
  | 80 => .done (s.setDie d (fun x => { x with gsel := v }))
  | 82 => .done (s.gridCommand d v)
  | k => if (s.readTelem d k).isSome then .done s else .refused

/-- Index 0 of a channel written but for APPLY: TRMODE, and TERR cleared by a 1 (R484). -/
def State.writeCtl (s : State) (k : Nat) (v : DWord) : State :=
  let s := s.writeTrmode k (v.getLsbD 0)
  if v.getLsbD 2 then s.setChan k (fun c => { c with terr := false }) else s

/-- A channel's physical layer written (R484, R485). -/
def State.writePhy (s : State) (stack idx : Nat) (v : DWord) : RegOut :=
  let k := chanKey stack (idx / 16)
  let c := s.chan k
  let begin_ := fun (s : State) (kind : Nat) => if c.work.isSome then RegOut.wait else RegOut.chan s k kind
  if 512 ≤ idx then .refused
  else match idx % 16 with
    | 0 => if applyRuns c v then begin_ s 1 else .done (s.writeCtl k v)
    | 1 => .done (s.setChan k (fun c => { c with trial := BitVec.ofNat 64 (keep v 7 0) }))
    | 2 => if testRuns c v then begin_ s 0 else .done s
    | 3 => .done s
    | 4 => if repairRuns v then begin_ s 2 else .done s
    | 5 => .done (s.setChan k (fun c => { c with tbl := keep v 51 8 }))
    | _ => .refused

/-- A port written: a command (R470, R471). -/
def State.writePort (s : State) (e idx : Nat) (v : DWord) : RegOut :=
  match idx with
  | 3 => .done (s.portCommand e (keep v 3 0))
  | k => if (s.readPort e k).isSome then .done s else .refused

/-- DTIME written. -/
def State.writeTime (s : State) (d idx : Nat) (v : DWord) : RegOut :=
  match idx with
  | 9 => .done (s.writeTimeEn d (v.getLsbD 0))
  | k => if (s.readTime d k).isSome then .done s else .refused

/-- DLINK written (R464, R465). -/
def State.writeLink (s : State) (d idx : Nat) (v : DWord) : RegOut :=
  match linkIndex d idx with
  | none => .refused
  | some (p, 64) =>
    let s := s.setLink d p (fun l => { l with
      nent := bits v.toNat 2 7
      owner := bits v.toNat 16 12
      err := l.err && !v.getLsbD 1 })
    .done (if v.getLsbD 0 then s.commitLink d p else s)
  | some (_, 65) => .done s
  | some (p, n) => .done (s.setLink d p (fun l => { l with entries := tset 0 l.entries n v }))

/-- Installed memory of the module covers a range: n areas at most follow one another (R472). -/
def State.covers (s : State) (a len : Nat) : Nat → Bool
  | 0 => len == 0
  | n + 1 =>
    if len = 0 then true
    else
      let stop := match s.regionOf a with
        | some r => (match r.kind with | .host _ => none | _ => some (r.base + r.size))
        | none => (s.expanderOf a).map (fun e => (s.port e).base + (s.port e).size * 1000000000)
      match stop with
      | none => false
      | some b => s.covers b (len - (b - a)) n

/-- MCMD written: a move is queued (R472). -/
def State.queueMove (s : State) (d : Nat) : RegOut :=
  let x := s.die d
  let n := 65536 * x.mlen
  if d < 2 ∨ x.mlen = 0 ∨ s.covers x.msrc n 16 = false ∨ s.covers x.mdst n 16 = false
    ∨ (x.msrc < x.mdst + n ∧ x.mdst < x.msrc + n) then .refused
  else if 16 ≤ x.moves.length then .wait
  else .done (s.setDie d (fun x => { x with moves := x.moves ++ [⟨x.msrc, x.mdst, x.mlen, x.msem⟩] }))

/-- DISPATCH written (R462). -/
def State.writeDispatch (s : State) (d idx : Nat) (v : DWord) : RegOut :=
  let put := fun (f : Die → Die) => RegOut.done (s.setDie d f)
  if 64 ≤ idx ∧ d < 2 then .refused
  else match idx with
    | 0 => put (fun x => { x with qtbase := keep v 51 12 })
    | 1 => .done s
    | 2 => put (fun x => { x with promo := keep v 47 0 })
    | 3 => put (fun x => { x with plim := keep v 15 0 })
    | 4 => .done s
    | 5 => put (fun x => { x with gate := keep v 31 0 })
    | 64 => put (fun x => { x with msrc := keep v 51 16 })
    | 65 => put (fun x => { x with mdst := keep v 51 16 })
    | 66 => put (fun x => { x with mlen := keep v 23 0 })
    | 67 => put (fun x => { x with msem := keep v 51 3 })
    | 68 => s.queueMove d
    | _ => .refused

/-- What a write of a register does, for a warp or for the host (R416). -/
def State.writeReg (s : State) (r : RegAddr) (v : DWord) (w : Option Nat) : RegOut :=
  match r.block with
  | 0x00 => s.writeDie r.die r.idx v
  | 0x01 => s.writeCtx r.ctx r.idx v
  | 0x02 => if r.idx < 256 then .done (s.writeCbmag r.ctx r.idx v) else .refused
  | 0x03 => s.writeLog r.die r.idx v
  | 0x04 => s.writeInj r.die r.idx v
  | 0x05 => s.writeTelem r.die r.idx v
  | 0x06 => match w with
    | some n => if r.idx = 0 then .done (s.setWarp n (fun x => { x with tm := v.getLsbD 0 })) else .refused
    | none => .refused
  | 0x30 => s.writeTime r.die r.idx v
  | 0x31 => s.writeLink r.die r.idx v
  | 0x32 => s.writeDispatch r.die r.idx v
  | b => if 0x10 ≤ b ∧ b < 0x18 then s.writePhy (b - 0x10) r.idx v
    else if 0x20 ≤ b ∧ b < 0x28 then s.writePort (b - 0x20) r.idx v
    else .refused

/-! ### SRR and SRW (R416) -/

/-- SRR (R416). -/
def execSrr (d a : BitVec 7) (s : State) : Out :=
  issue s (fun c => { once (even d && even a) Accept.none c [qref a.toNat] (qref d.toNat) with priv := true }) (fun c =>
    let n := (c.warp.qreg a.toNat).toNat
    match (regAddr n (some c.die)).bind (fun r => s.readReg r (some c.warp)) with
    | none => .next (s.trap c .access c.split.mask n)
    | some x => .next (s.later c (qref d.toNat)
        [.s d.toNat (x.truncate 32) false, .s (d.toNat + 1) ((x >>> 32).truncate 32) false] 0))

/-- SRW (R416): a device-scope release, and then the write. -/
def execSrw (a b : BitVec 7) (s : State) : Out :=
  issue s (fun c => { once (even a && even b) Accept.none c [qref a.toNat, qref b.toNat] [] with priv := true }) (fun c =>
    let n := (c.warp.qreg a.toNat).toNat
    let v := c.warp.qreg b.toNat
    match regAddr n (some c.die) with
    | none => .next (s.trap c .access c.split.mask n)
    | some r =>
      match s.writeReg r v (some c.w) with
      | .refused => .next (s.trap c .access c.split.mask n)
      | .wait => .next s
      | .done t => if s.released c.w c.die 5 = false then .next s else .next (t.advance c)
      | .chan t k kind =>
        if s.released c.w c.die 5 = false then .next s
        else
          let p := t.begin c [] none (.phy k)
          .next ((p.1.startChan k kind v (some p.2)).holdFor c p.2))

/-! ### Rows that are a write of one register -/

/-- A write made for no warp: one that is refused or must wait changes nothing here. -/
def State.hostReg (s : State) (r : RegAddr) (v : DWord) : State :=
  match s.writeReg r v none with
  | .refused => s
  | .wait => s
  | .done t => t
  | .chan t k kind => t.startChan k kind v none

/-- REG_WRITE (R416). -/
def execRegWrite (addr value : BitVec 64) (s : State) : Out :=
  match regAddr addr.toNat none with
  | some r => .next (s.hostReg r value)
  | none => .next s

/-- ELSTAT_RETIRE (R444). -/
def execElstatRetire (d n : Nat) (s : State) : Out := if d < 4 then .next (s.retireLog d (n % 256)) else .next s

/-- CTX_WORD0_WRITE (R419). -/
def execCtxWord0Write (ctx : Nat) (value : BitVec 64) (s : State) : Out :=
  if ctx < 4096 then .next (s.writeWord0 ctx value) else .next s

/-- CBMAG_WRITE (R142). -/
def execCbmagWrite (ctx i : Nat) (value : BitVec 64) (s : State) : Out :=
  if ctx < 4096 ∧ i < 256 then .next (s.writeCbmag ctx i value) else .next s

/-- TRMODE_WRITE (R484). -/
def execTrmodeWrite (stack ch : Nat) (value : BitVec 64) (s : State) : Out :=
  if isChan stack ch then .next (s.writeCtl (chanKey stack ch) value) else .next s

/-- MCMD (R472). -/
def execMcmd (d : Nat) (s : State) : Out :=
  match s.queueMove d with
  | .done t => .next t
  | _ => .next s

/-- A move's bytes and poison put in place: words that neither range lists are zero in both. -/
def State.movePages (s : State) (d src dst n : Nat) : State :=
  let here := fun (a b : Nat) => decide (a ≤ b) && decide (b < a + n)
  let old := (s.mem.filter (fun c => here dst c.1)).map (fun (c : Host.Cell) => (c.1, (0 : Byte)))
  let new := (s.mem.filter (fun c => here src c.1)).map (fun (c : Host.Cell) => (c.1 - src + dst, c.2))
  let bad := (s.memP.filter (fun w => here src (8 * w))).map (fun w => (8 * w - src + dst) / 8)
  let was := s.memP.filter (fun w => here dst (8 * w))
  let words := (((old ++ new).map (fun (c : Host.Cell) => c.1 / 8)) ++ was ++ bad).eraseDups
  s.writeNow d (old ++ new) (words.map (fun w => (8 * w, 8, bad.contains w)))

/-- PAGE_MOVE (R472): the oldest move of the die, and its semaphore as a system-scope release. -/
def execPageMove (d : Nat) (s : State) : Out :=
  match (s.die d).moves with
  | [] => .next s
  | m :: r =>
    let s := s.setDie d (fun x => { x with moves := r })
    let s := (s.movePages d m.src m.dst (65536 * m.len)).releaseAll d
    .next ((s.writeAt d m.sem (toBytes (ofBytes (s.home m.sem 8) + 1) 8)).writeBack d m.sem 8)

end Sys2Proof.Machine
end

