-- ==== Sys2Proof/Machine/HostLink.lean ====
section
/-! DEFINITION. The OHL host link: inbound reads and writes (R122 to R124, R447), completions, the host's register accesses, and
the release of an HBM channel to the accesses that it held (R485). -/

namespace Sys2Proof.Machine

/-- A CPL (R447). -/
def State.answer (s : State) (port tag : Nat) (abort : Bool) (data : List Byte) : State :=
  s.send { port := port, type := 3, abort := abort, tag := tag, arg := 0, data := data }

/-- A message discarded and counted whose request expects an answer (R447). -/
def State.refuse (s : State) (port tag : Nat) : State := (s.discard port).answer port tag true []

/-! ### Inbound accesses (R122, R124) -/

/-- Memory of the module is installed and in service at every byte of a range: none of it is the host's own. -/
def State.inboundOk (s : State) (addr n : Nat) : Bool :=
  (List.range n).all (fun i => s.installed (addr + i) && !s.isHost (addr + i))

/-- An inbound access that its target logs and aborts (R124); syn is 1 for a timeout. -/
def State.inboundAbort (s : State) (m : Inbound) (syn : Nat) : State :=
  let s := s.logError (s.homeDie m.addr) 0x0B true false false 0 m.addr syn 0 0
  match m.data with
  | none => s.answer m.port m.tag true []
  | some _ => s

/-- An inbound write applied at the home, every L2 copy of its bytes dropped (R122); it meets window accesses under way and private blocks as
every global write does (R86, R100). -/
def State.inboundWrite (s : State) (addr : Nat) (l : List Byte) : State :=
  let s := ((s.meetWrite 0 [(addr, l.length)]).hostWrite (cellsAt addr l)).injectOn [8, 9, 10, 11] addr l.length false
  { s with memP := poisonStore s.memP addr l.length false }

/-- The bytes an inbound read returns: of a line that an L2 still holds dirty, the home value or the new one, which R123 leaves open
(a free choice, made for the line as a whole). -/
def State.hostBytes (s : State) (a n : Nat) : List Byte :=
  (List.range n).map (fun i =>
    if (Config.freeElem s.free ((a + i) / lineBytes - a / lineBytes)).getLsbD 0 then s.hostByte (a + i) else memByte s.mem (a + i))

/-- An inbound access served at its home: a read of a poisoned word faults there (R124). -/
def State.serveInbound (s : State) (m : Inbound) : State :=
  if s.inboundOk m.addr m.len = false then s.inboundAbort m 0
  else match m.data with
    | some l => s.inboundWrite m.addr l
    | none =>
      let s := (s.stirPriv (s.homeDie m.addr) m.addr m.len).injectOn [8, 9, 10, 11] m.addr m.len true
      if s.poisoned m.addr m.len then s.inboundAbort m 0
      else { s with free := s.free + 1 }.answer m.port m.tag false (s.hostBytes m.addr m.len)

/-- An inbound access arrives: held while a channel that it needs is (R485), and behind those of its port that are held (R448). -/
def State.arrive (s : State) (m : Inbound) : State :=
  if s.chanHeld m.addr m.len || s.portWaits m.port then
    { s with uid := s.uid + 1, outstanding := s.outstanding ++ [m] }
  else s.serveInbound m

/-- The access as it arrives now. -/
def State.inbound (s : State) (port tag addr len : Nat) (data : Option (List Byte)) : Inbound :=
  ⟨s.uid, port, tag, addr, len, data, (s.die (s.homeDie addr)).time⟩

/-- MRD (R122, R447). -/
def execMrd (port tag addr len : Nat) (s : State) : Out :=
  if s.portUp port = false then .next s
  else if s.booted = false ∨ len = 0 ∨ 4096 < len then .next (s.refuse port (tag % 65536))
  else .next (s.arrive (s.inbound port (tag % 65536) (addr % 2 ^ 64) len none))

/-- MWR (R122, R447). -/
def execMwr (port addr : Nat) (data : List (BitVec 8)) (s : State) : Out :=
  if s.portUp port = false then .next s
  else if s.booted = false ∨ data.length = 0 ∨ 4096 < data.length then .next (s.discard port)
  else .next (s.arrive (s.inbound port 0 (addr % 2 ^ 64) data.length (some data)))

/-- Held accesses that no channel holds any longer are served in their order (R485). -/
def State.serveHeld (s : State) : Nat → State
  | 0 => s
  | n + 1 =>
    match s.outstanding.find? (fun m => !s.chanHeld m.addr m.len
        && !s.outstanding.any (fun k => k.port == m.port && decide (k.id < m.id))) with
    | none => s
    | some m => State.serveHeld (({ s with outstanding := s.outstanding.filter (fun k => k.id != m.id) }).serveInbound m) n

/-- INBOUND_ACCESS_TIMEOUT (R124). -/
def execInboundAccessTimeout (n : Nat) (s : State) : Out :=
  match s.outstanding.find? (fun m => m.id == n) with
  | none => .next s
  | some m =>
    if (s.die (s.homeDie m.addr)).time < m.since + 2000000 then .next s
    else .next (({ s with outstanding := s.outstanding.filter (fun k => k.id != n) }).inboundAbort m 1)

/-- CHANNEL_RELEASE (R485): an operation that has run ends, the SRW that started it takes effect and completes. -/
def execChannelRelease (stack ch : Nat) (s : State) : Out :=
  let k := chanKey stack ch
  match (s.chan k).work with
  | none => .next s
  | some w =>
    if w.ran = false ∨ isChan stack ch = false then .next s
    else
      let s := s.reporting (fun s => s.setChan k Chan.finish)
      let s := match w.op.bind s.op with
        | some o => s.endOp o
        | none => s
      .next (s.serveHeld s.outstanding.length)

/-! ### Completions of outbound accesses (R124) -/

/-- The module's own MRDs (R447) for what a pending operation reads of host memory, under the operation's number. -/
def State.askHost (s : State) (n : Nat) : State :=
  match s.op n with
  | none => s
  | some o => s.askAll n (o.hostReads s)

/-- The oldest of the module's MRDs on a port under a tag that has no answer. -/
def State.asking (s : State) (port tag : Nat) : Option HostAsk :=
  s.asks.find? (fun a => a.got.isNone && a.port == port && decide (a.who % 65536 = tag % 65536))

/-- The data of an answer: the host's memory holds them. -/
def State.answered (s : State) (a : HostAsk) (data : List Byte) : State :=
  { s with
    mem := memSetAll s.mem (cellsAt a.pa data)
    asks := s.asks.map (fun b => if b = a then { b with got := some true } else b) }

/-- The pending operation of that number, all of whose reads of host memory are answered, is performed. -/
def State.hostDone (s : State) (n : Nat) : Out :=
  match s.op n with
  | none => .next s
  | some o =>
    if s.unanswered o then .next s
    else match o.kind with
      | .load _ _ _ _ _ _ _ _ => execLoadComplete n s
      | .atom _ _ _ _ _ _ => execAtomicPerformed n s
      | _ => .next s

/-- CPL (R124, R447): an abort, or the data that the host holds; with the last that an operation waits for it is performed. One that no MRD
waits for, or of another length, is discarded. -/
def execCpl (port tag : Nat) (abort : Bool) (data : List (BitVec 8)) (s : State) : Out :=
  if s.portUp port = false then .next s
  else match s.asking port tag with
    | none => .next (s.discard port)
    | some a =>
      if abort then .next (s.abortOut a.who (fun b => b == a))
      else if data.length ≠ a.len then .next (s.discard port)
      else (s.answered a data).hostDone a.who

/-! ### Register accesses of the host (R447) -/

/-- RRD (R447, R448): before the boot grid starts, of F0's DIE block only (R474). -/
def execRrd (port tag : Nat) (arg : BitVec 64) (s : State) : Out :=
  let tag := tag % 65536
  if s.portUp port = false ∨ s.portWaits port = true then .next s
  else match regAddr arg.toNat none with
    | none => .next (s.refuse port tag)
    | some r =>
      if s.booted = false ∧ (r.block ≠ 0 ∨ r.die ≠ 2 ∨ port ≠ 0) then .next (s.refuse port tag)
      else match s.readReg r none with
        | none => .next (s.refuse port tag)
        | some v => .next (s.answer port tag false (toBytes v.toNat 8))

/-- RWR (R447): an SRW, and a system-scope release of the host's earlier writes. -/
def execRwr (port : Nat) (arg value : BitVec 64) (s : State) : Out :=
  if s.portUp port = false then .next s
  else if s.booted = false then .next (s.discard port)
  else match regAddr arg.toNat none with
    | none => .next (s.discard port)
    | some r =>
      match s.writeReg r value none with
      | .refused => .next (s.discard port)
      | .wait => .next s
      | .done t => if s.portWaits port then .next s else .next t
      | .chan t k kind => if s.portWaits port then .next s else .next (t.startChan k kind value none)

end Sys2Proof.Machine
end

