-- ==== Sys2Proof/Machine/Boot.lean ====
section
/-! DEFINITION. Power-on reset (R473), the boot image and the boot grid (R474, R475). -/

namespace Sys2Proof.Machine

/-- Bytes of the L2 that serves as memory until firmware relocates it (R474). -/
abbrev bootSize : Nat := 64 * 2 ^ 20

/-- BOOT (R447, R474). -/
def execBoot (offset : Nat) (data : List (BitVec 8)) (s : State) : Out :=
  if s.booted = true ∨ offset % 64 ≠ 0 ∨ data.length % 64 ≠ 0 ∨ data.length < 64 ∨ 4096 < data.length
    ∨ bootSize < offset + data.length then .next (s.discard 0)
  else .next (s.hostWrite (cellsAt offset data))

/-- One bit of the CRC-32 of IEEE 802.3, least significant bit first. -/
def crcBit (c : BitVec 32) : BitVec 32 := if c.getLsbD 0 then (c >>> 1) ^^^ 0xEDB88320 else c >>> 1

/-- One byte. -/
def crcByte (c : BitVec 32) (b : Byte) : BitVec 32 :=
  crcBit (crcBit (crcBit (crcBit (crcBit (crcBit (crcBit (crcBit (c ^^^ b.setWidth 32))))))))

/-- CRC-32 of IEEE 802.3. -/
def crc32 (l : List Byte) : BitVec 32 := ~~~(l.foldl crcByte 0xFFFFFFFF)

/-- Why F0 refuses the image that its L2 holds; 0 where it does not (R474). -/
def State.bootReason (s : State) : Nat :=
  let h := s.home 0 64
  let len := leAt h 4 4
  let entry := leAt h 8 4
  if leAt h 0 4 ≠ 0x544F4F42 ∨ (h.drop 16).all (fun b => b == 0) = false then 1
  else if len % 64 ≠ 0 ∨ bootSize < len ∨ entry % 4 ≠ 0 ∨ len ≤ entry then 2
  else if (crc32 (s.home 64 (len - 64))).toNat ≠ leAt h 12 4 then 3
  else 0

/-- Both directions of every die link are trained. -/
def State.trainLinks (s : State) : State :=
  (List.range 4).foldl (fun (s : State) d => (List.range 4).foldl (fun (s : State) p =>
    if d = p then s else s.setLink d p (fun l => { l with up := true })) s) s

/-- The boot grid starts: one warp in slot 0 on core 2.0.0, the first core of the one cluster in service (R474, R475). -/
def State.startBoot (s : State) (entry : Nat) : State :=
  let s := s.trainLinks
  let id := 4 * (s.die 2).gridCount + 2
  let g := { Grid.firmware with entry := entry }
  let s := s.setDie 2 (fun x => { x with gridCount := x.gridCount + 1, clusters := bvPut x.clusters 0 true })
  let s := { s with booted := true, ctxs := tput s.ctxs 0 Ctx.firmware, grids := tput s.grids id g }
  let s := s.putGroup id g 0 768 0
  s.note 4 2 (toBytes s.service 4)

/-- BOOTEND (R474). -/
def execBootend (s : State) : Out :=
  if s.booted = true then .next (s.discard 0)
  else match s.bootReason with
    | 0 => .next (s.startBoot (leAt (s.home 0 64) 8 4))
    | r => .next (s.note 5 2 (toBytes r 4))

/-- POWER_ON_RESET (R473): the choices still to come, and the free values drawn, are no part of the module. -/
def execPowerOnReset (s : State) : Out := .next { State.reset with agenda := s.agenda, free := s.free }

end Sys2Proof.Machine
end

