-- ==== Sys2Proof/Machine/Messages.lean ====
section
/-! DEFINITION. OHL messages as their bytes arrive (R446, R447): the header read, and what is malformed discarded. -/

namespace Sys2Proof.Machine

/-- What a well-formed message does: a row of the table (R447). A reserved header bit, a TYPE that the host does not send, and a LEN that
does not match its TYPE are malformed; what an ARG may hold its row checks. -/
noncomputable def messageOf (port : Nat) (l : List Byte) : Option Instr :=
  let type := leAt l 0 1
  let flags := leAt l 1 1
  let tag := leAt l 2 2
  let len := leAt l 4 4
  let arg := leAt l 8 8
  let data := l.drop 16
  let none_ := len == 0 && data.isEmpty && flags == 0
  let body := len == data.length && flags == 0
  match type with
  | 0x01 => if flags = 0 ∧ data = [] ∧ 1 ≤ len ∧ len ≤ 4096 then some (.mrd port tag arg len) else none
  | 0x02 => if body = true ∧ 1 ≤ len ∧ len ≤ 4096 then some (.mwr port arg data) else none
  | 0x03 => if len = data.length ∧ flags < 2 ∧ arg = 0 ∧ len ≤ 4096 then some (.cpl port tag (flags == 1) data) else none
  | 0x10 => if none_ then some (.tail port (BitVec.ofNat 64 arg)) else none
  | 0x11 => if none_ = false then none
      else if bit arg 16 then some (.qctlResume port (BitVec.ofNat 64 arg)) else some (.qctlStop port (BitVec.ofNat 64 arg))
  | 0x12 => if none_ then some (.rrd port tag (BitVec.ofNat 64 arg)) else none
  | 0x14 => if body = true ∧ len = 8 then some (.rwr port (BitVec.ofNat 64 arg) (BitVec.ofNat 64 (leAt data 0 8))) else none
  | 0x30 => if body = true ∧ len % 64 = 0 ∧ 64 ≤ len ∧ len ≤ 4096 ∧ port = 0 then some (.boot arg data) else none
  | 0x31 => if none_ = true ∧ arg = 0 ∧ port = 0 then some .bootend else none
  | _ => none

/-- A malformed message is discarded and counted; one that expects an answer gets a CPL with ABORT set (R447). -/
def State.badMessage (s : State) (port : Nat) (l : List Byte) : State :=
  if s.portUp port = false then s
  else if leAt l 0 1 = 0x01 ∨ leAt l 0 1 = 0x12 then s.refuse port (leAt l 2 2) else s.discard port

end Sys2Proof.Machine
end

