-- ==== Sys2Proof/Machine/Convert.lean ====
section
/-! DEFINITION. Conversion, cross-lane, sorting and random instructions: majors 0x16 to 0x18 (R285 to R300). -/

namespace Sys2Proof.Machine

/-- VCVT (R287). -/
def execVcvt (d : BitVec 7) (a : BitVec 7) (t : BitVec 1) (im : BitVec 1) (bs : BitVec 1) (s : State) : Out :=
  vecCvt true d.toNat a.toNat (t == 1) (im == 1) (bs == 1) s

/-- VQMX (R288). -/
def execVqmx (d : BitVec 7) (a : BitVec 7) (s : State) : Out :=
  vecQmx true d.toNat a.toNat s

/-- VDQMX (R289). -/
def execVdqmx (d : BitVec 7) (a : BitVec 7) (bs : BitVec 1) (s : State) : Out :=
  vecDqmx true d.toNat a.toNat (bs == 1) s

/-- VCBD (R290). -/
def execVcbd (d : BitVec 7) (a : BitVec 7) (bs : BitVec 1) (s : State) : Out :=
  vecCbd (mult 8 d) d.toNat a.toNat (bs == 1) s

/-- VPERM (R293). -/
def execVperm (d : BitVec 7) (a : BitVec 7) (b : BitVec 7) (bs : BitVec 1) (s : State) : Out :=
  crossMove true false (fun _ m => bits m 0 4 == 0 && bits m 5 3 == 0) d.toNat a.toNat b.toNat (bs == 1) (fun _ _ n => n) s

/-- VSHFL (R294). -/
def execVshfl (d : BitVec 7) (a : BitVec 7) (b : BitVec 7) (bs : BitVec 1) (s : State) : Out :=
  crossMove true true shflMod8 d.toNat a.toNat b.toNat (bs == 1) shflSrc s

/-- VRED (R295). -/
def execVred (d : BitVec 7) (a : BitVec 7) (s : State) : Out :=
  crossReduce true false d.toNat a.toNat s

/-- VSCAN (R296). -/
def execVscan (d : BitVec 7) (a : BitVec 7) (s : State) : Out :=
  crossReduce true true d.toNat a.toNat s

/-- VSORT (R298). -/
def execVsort (d : BitVec 7) (a : BitVec 7) (b : BitVec 7) (bs : BitVec 1) (s : State) : Out :=
  vecSort (even d && (bs == 0 || b == 0)) d.toNat a.toNat b.toNat (bs == 1) s

/-- VTOPK (R299). -/
def execVtopk (d : BitVec 7) (a : BitVec 7) (b : BitVec 7) (s : State) : Out :=
  vecTopk (even d) d.toNat a.toNat b.toNat s

/-- VRAND (R300). -/
def execVrand (d : BitVec 7) (a : BitVec 7) (b : BitVec 7) (s : State) : Out :=
  vecRand (even b) d.toNat a.toNat b.toNat s

end Sys2Proof.Machine
end

