-- ==== Sys2Proof/Machine/Hints.lean ====
section
/-! DEFINITION. Hint words (major 0x3F, R215 to R223): each is taken in as the split reaches it, and its group is consumed by
the instruction that follows. -/

namespace Sys2Proof.Machine

/-- The hint passes checks 1 to 3 of R223, and does not stand at the end address of the top loop entry (R225). -/
def takes (c : Cx) (wf : Bool) (kind : Nat) : Bool :=
  let p := c.split
  wf && !p.hints.any (fun h => h.kind == kind) && decide (p.hints.length < 3)
    && !(p.loops.head?.map (fun e => decide (e.stop = p.pc))).getD false

/-- A hint is taken in after checks 1 to 3 of R223, unless it stands at the end address of the top loop entry (R225). -/
def takeHint (s : State) (wf : Bool) (kind : Nat) (payload : BitVec 23) : Out :=
  match issueCx s with
  | none => .next s
  | some c =>
    if takes c wf kind = false then .next (s.illegalWord c)
    else .next (s.onWarp c (fun w => w.setSplit c.sp (fun q =>
      { q with pc := (q.pc + 4) % vaMod, hints := q.hints ++ [⟨q.pc, kind, payload⟩] })))

/-- HIMM (R216). -/
def execHimm (im : BitVec 23) (s : State) : Out := takeHint s true 0 im

/-- HGRD (R217). -/
def execHgrd (n : BitVec 1) (k : BitVec 4) (s : State) : Out := takeHint s true 1 ((0#18) ++ n ++ k)

/-- The split has taken in an HSTL, which used an issue slot of its own (R41), and is not ready for n cycles more (R396). -/
def State.stallFor (s : State) (c : Cx) (n : Nat) : State :=
  let t := s.clockOf c + 1
  { s with cyc := tset 0 s.cyc (4 * c.warp.core + c.warp.slot) t }.onWarp c (fun w =>
    { w.setSplit c.sp (fun p => { p with stamp := t, since := t, promoted := false, stall := t + n }) with last := c.sp })

/-- HSTL (R218, R396). -/
def execHstl (bs : BitVec 12) (s : State) : Out :=
  match issueCx s, takeHint s true 2 ((0#11) ++ bs) with
  | some c, .next t => if takes c true 2 then .next (t.stallFor c bs.toNat) else .next t
  | _, o => o

/-- HMOD (R219). -/
def execHmod (m : BitVec 8) (vo : BitVec 2) (bs : BitVec 3) (r : BitVec 2) (v : BitVec 1) (t : BitVec 5) (s : State) : Out :=
  takeHint s ((v == 1 || r == 0) && (vo != 0 || bs == 0) && bs != 7) 3 ((0#2) ++ m ++ vo ++ bs ++ r ++ v ++ t)

/-- HFE (R220). -/
def execHfe (t : BitVec 5) (s : State) : Out := takeHint s true 4 ((0#18) ++ t)

/-- HFIL (R221). -/
def execHfil (f : BitVec 1) (v : BitVec 22) (s : State) : Out :=
  takeHint s (f == 0 || v.extractLsb' 16 6 == 0) 5 (f ++ v)

/-- HADD (R222). -/
def execHadd (b : BitVec 1) (a : BitVec 7) (s : State) : Out := takeHint s true 6 ((0#15) ++ b ++ a)

end Sys2Proof.Machine
end

