-- ==== Sys2Proof/Machine/LoadStore.lean ====
section
/-! DEFINITION. One meaning for each load, store and atomic of majors 0x20, 0x21 and 0x24 to 0x26 (R309, R312, R313). -/

namespace Sys2Proof.Machine

/-- LD_B (R309). -/
def execLdB (d : BitVec 7) (t : BitVec 3) (vo : BitVec 7) (im : BitVec 5) (s : State) : Out :=
  memLoad true 1 false d.toNat t.toNat vo.toNat im s
/-- LD_SB (R309). -/
def execLdSb (d : BitVec 7) (t : BitVec 3) (vo : BitVec 7) (im : BitVec 5) (s : State) : Out :=
  memLoad true 1 true d.toNat t.toNat vo.toNat im s
/-- LD_H (R309). -/
def execLdH (d : BitVec 7) (t : BitVec 3) (vo : BitVec 7) (im : BitVec 5) (s : State) : Out :=
  memLoad true 2 false d.toNat t.toNat vo.toNat im s
/-- LD_SH (R309). -/
def execLdSh (d : BitVec 7) (t : BitVec 3) (vo : BitVec 7) (im : BitVec 5) (s : State) : Out :=
  memLoad true 2 true d.toNat t.toNat vo.toNat im s
/-- LD_W (R309). -/
def execLdW (d : BitVec 7) (t : BitVec 3) (vo : BitVec 7) (im : BitVec 5) (s : State) : Out :=
  memLoad true 4 false d.toNat t.toNat vo.toNat im s
/-- LD_D (R309). -/
def execLdD (d : BitVec 7) (t : BitVec 3) (vo : BitVec 7) (im : BitVec 5) (s : State) : Out :=
  memLoad (even d) 8 false d.toNat t.toNat vo.toNat im s
/-- LD_Q (R309). -/
def execLdQ (d : BitVec 7) (t : BitVec 3) (vo : BitVec 7) (im : BitVec 5) (s : State) : Out :=
  memLoad (mult 4 d) 16 false d.toNat t.toNat vo.toNat im s
/-- LD_PRV_B (R309). -/
def execLdPrvB (d : BitVec 7) (vo : BitVec 7) (im : BitVec 5) (s : State) : Out :=
  privLoad true 1 false d.toNat vo.toNat im s
/-- LD_PRV_SB (R309). -/
def execLdPrvSb (d : BitVec 7) (vo : BitVec 7) (im : BitVec 5) (s : State) : Out :=
  privLoad true 1 true d.toNat vo.toNat im s
/-- LD_PRV_H (R309). -/
def execLdPrvH (d : BitVec 7) (vo : BitVec 7) (im : BitVec 5) (s : State) : Out :=
  privLoad true 2 false d.toNat vo.toNat im s
/-- LD_PRV_SH (R309). -/
def execLdPrvSh (d : BitVec 7) (vo : BitVec 7) (im : BitVec 5) (s : State) : Out :=
  privLoad true 2 true d.toNat vo.toNat im s
/-- LD_PRV_W (R309). -/
def execLdPrvW (d : BitVec 7) (vo : BitVec 7) (im : BitVec 5) (s : State) : Out :=
  privLoad true 4 false d.toNat vo.toNat im s
/-- LD_PRV_D (R309). -/
def execLdPrvD (d : BitVec 7) (vo : BitVec 7) (im : BitVec 5) (s : State) : Out :=
  privLoad (even d) 8 false d.toNat vo.toNat im s
/-- ST_B (R309). -/
def execStB (d : BitVec 7) (t : BitVec 3) (vo : BitVec 7) (im : BitVec 5) (s : State) : Out :=
  memStore true 1 d.toNat t.toNat vo.toNat im s
/-- ST_H (R309). -/
def execStH (d : BitVec 7) (t : BitVec 3) (vo : BitVec 7) (im : BitVec 5) (s : State) : Out :=
  memStore true 2 d.toNat t.toNat vo.toNat im s
/-- ST_W (R309). -/
def execStW (d : BitVec 7) (t : BitVec 3) (vo : BitVec 7) (im : BitVec 5) (s : State) : Out :=
  memStore true 4 d.toNat t.toNat vo.toNat im s
/-- ST_D (R309). -/
def execStD (d : BitVec 7) (t : BitVec 3) (vo : BitVec 7) (im : BitVec 5) (s : State) : Out :=
  memStore (even d) 8 d.toNat t.toNat vo.toNat im s
/-- ST_Q (R309). -/
def execStQ (d : BitVec 7) (t : BitVec 3) (vo : BitVec 7) (im : BitVec 5) (s : State) : Out :=
  memStore (mult 4 d) 16 d.toNat t.toNat vo.toNat im s
/-- ST_PRV_B (R309). -/
def execStPrvB (d : BitVec 7) (vo : BitVec 7) (im : BitVec 5) (s : State) : Out :=
  privStore true 1 d.toNat vo.toNat im s
/-- ST_PRV_H (R309). -/
def execStPrvH (d : BitVec 7) (vo : BitVec 7) (im : BitVec 5) (s : State) : Out :=
  privStore true 2 d.toNat vo.toNat im s
/-- ST_PRV_W (R309). -/
def execStPrvW (d : BitVec 7) (vo : BitVec 7) (im : BitVec 5) (s : State) : Out :=
  privStore true 4 d.toNat vo.toNat im s
/-- ST_PRV_D (R309). -/
def execStPrvD (d : BitVec 7) (vo : BitVec 7) (im : BitVec 5) (s : State) : Out :=
  privStore (even d) 8 d.toNat vo.toNat im s
/-- ATOM_ADD (R312). -/
def execAtomAdd (d : BitVec 7) (t : BitVec 3) (vo : BitVec 7) (im : BitVec 5) (s : State) : Out :=
  memAtom true .add 4 true d.toNat t.toNat vo.toNat im s
/-- ATOM_AND (R312). -/
def execAtomAnd (d : BitVec 7) (t : BitVec 3) (vo : BitVec 7) (im : BitVec 5) (s : State) : Out :=
  memAtom true .and 4 true d.toNat t.toNat vo.toNat im s
/-- ATOM_OR (R312). -/
def execAtomOr (d : BitVec 7) (t : BitVec 3) (vo : BitVec 7) (im : BitVec 5) (s : State) : Out :=
  memAtom true .or 4 true d.toNat t.toNat vo.toNat im s
/-- ATOM_XOR (R312). -/
def execAtomXor (d : BitVec 7) (t : BitVec 3) (vo : BitVec 7) (im : BitVec 5) (s : State) : Out :=
  memAtom true .xor 4 true d.toNat t.toNat vo.toNat im s
/-- ATOM_MIN (R312). -/
def execAtomMin (d : BitVec 7) (t : BitVec 3) (vo : BitVec 7) (im : BitVec 5) (s : State) : Out :=
  memAtom true .min 4 true d.toNat t.toNat vo.toNat im s
/-- ATOM_MAX (R312). -/
def execAtomMax (d : BitVec 7) (t : BitVec 3) (vo : BitVec 7) (im : BitVec 5) (s : State) : Out :=
  memAtom true .max 4 true d.toNat t.toNat vo.toNat im s
/-- ATOM_MIN_U (R312). -/
def execAtomMinU (d : BitVec 7) (t : BitVec 3) (vo : BitVec 7) (im : BitVec 5) (s : State) : Out :=
  memAtom true .minU 4 true d.toNat t.toNat vo.toNat im s
/-- ATOM_MAX_U (R312). -/
def execAtomMaxU (d : BitVec 7) (t : BitVec 3) (vo : BitVec 7) (im : BitVec 5) (s : State) : Out :=
  memAtom true .maxU 4 true d.toNat t.toNat vo.toNat im s
/-- ATOM_EXCH (R312). -/
def execAtomExch (d : BitVec 7) (t : BitVec 3) (vo : BitVec 7) (im : BitVec 5) (s : State) : Out :=
  memAtom true .exch 4 true d.toNat t.toNat vo.toNat im s
/-- ATOM_ADD_D (R312). -/
def execAtomAddD (d : BitVec 7) (t : BitVec 3) (vo : BitVec 7) (im : BitVec 5) (s : State) : Out :=
  memAtom (even d) .add 8 true d.toNat t.toNat vo.toNat im s
/-- ATOM_EXCH_D (R312). -/
def execAtomExchD (d : BitVec 7) (t : BitVec 3) (vo : BitVec 7) (im : BitVec 5) (s : State) : Out :=
  memAtom (even d) .exch 8 true d.toNat t.toNat vo.toNat im s
/-- ATOM_FADD (R312). -/
def execAtomFadd (d : BitVec 7) (t : BitVec 3) (vo : BitVec 7) (im : BitVec 5) (s : State) : Out :=
  memAtom true .fadd 4 true d.toNat t.toNat vo.toNat im s
/-- ATOM_ADD_POSTED (R312). -/
def execAtomAddPosted (d : BitVec 7) (t : BitVec 3) (vo : BitVec 7) (im : BitVec 5) (s : State) : Out :=
  memAtom true .add 4 false d.toNat t.toNat vo.toNat im s
/-- ATOM_AND_POSTED (R312). -/
def execAtomAndPosted (d : BitVec 7) (t : BitVec 3) (vo : BitVec 7) (im : BitVec 5) (s : State) : Out :=
  memAtom true .and 4 false d.toNat t.toNat vo.toNat im s
/-- ATOM_OR_POSTED (R312). -/
def execAtomOrPosted (d : BitVec 7) (t : BitVec 3) (vo : BitVec 7) (im : BitVec 5) (s : State) : Out :=
  memAtom true .or 4 false d.toNat t.toNat vo.toNat im s
/-- ATOM_XOR_POSTED (R312). -/
def execAtomXorPosted (d : BitVec 7) (t : BitVec 3) (vo : BitVec 7) (im : BitVec 5) (s : State) : Out :=
  memAtom true .xor 4 false d.toNat t.toNat vo.toNat im s
/-- ATOM_MIN_POSTED (R312). -/
def execAtomMinPosted (d : BitVec 7) (t : BitVec 3) (vo : BitVec 7) (im : BitVec 5) (s : State) : Out :=
  memAtom true .min 4 false d.toNat t.toNat vo.toNat im s
/-- ATOM_MAX_POSTED (R312). -/
def execAtomMaxPosted (d : BitVec 7) (t : BitVec 3) (vo : BitVec 7) (im : BitVec 5) (s : State) : Out :=
  memAtom true .max 4 false d.toNat t.toNat vo.toNat im s
/-- ATOM_MIN_U_POSTED (R312). -/
def execAtomMinUPosted (d : BitVec 7) (t : BitVec 3) (vo : BitVec 7) (im : BitVec 5) (s : State) : Out :=
  memAtom true .minU 4 false d.toNat t.toNat vo.toNat im s
/-- ATOM_MAX_U_POSTED (R312). -/
def execAtomMaxUPosted (d : BitVec 7) (t : BitVec 3) (vo : BitVec 7) (im : BitVec 5) (s : State) : Out :=
  memAtom true .maxU 4 false d.toNat t.toNat vo.toNat im s
/-- ATOM_EXCH_POSTED (R312). -/
def execAtomExchPosted (d : BitVec 7) (t : BitVec 3) (vo : BitVec 7) (im : BitVec 5) (s : State) : Out :=
  memAtom true .exch 4 false d.toNat t.toNat vo.toNat im s
/-- ATOM_ADD_D_POSTED (R312). -/
def execAtomAddDPosted (d : BitVec 7) (t : BitVec 3) (vo : BitVec 7) (im : BitVec 5) (s : State) : Out :=
  memAtom (even d) .add 8 false d.toNat t.toNat vo.toNat im s
/-- ATOM_EXCH_D_POSTED (R312). -/
def execAtomExchDPosted (d : BitVec 7) (t : BitVec 3) (vo : BitVec 7) (im : BitVec 5) (s : State) : Out :=
  memAtom (even d) .exch 8 false d.toNat t.toNat vo.toNat im s
/-- ATOM_FADD_POSTED (R312). -/
def execAtomFaddPosted (d : BitVec 7) (t : BitVec 3) (vo : BitVec 7) (im : BitVec 5) (s : State) : Out :=
  memAtom true .fadd 4 false d.toNat t.toNat vo.toNat im s
/-- CAS_W (R313). -/
def execCasW (d : BitVec 7) (t : BitVec 3) (vo : BitVec 7) (im : BitVec 5) (s : State) : Out :=
  memAtom (even d) .cas 4 true d.toNat t.toNat vo.toNat im s
/-- CAS_D (R313). -/
def execCasD (d : BitVec 7) (t : BitVec 3) (vo : BitVec 7) (im : BitVec 5) (s : State) : Out :=
  memAtom (mult 4 d) .cas 8 true d.toNat t.toNat vo.toNat im s
/-- CAS_Q (R313). -/
def execCasQ (d : BitVec 7) (t : BitVec 3) (vo : BitVec 7) (im : BitVec 5) (s : State) : Out :=
  memAtom (mult 8 d) .cas 16 true d.toNat t.toNat vo.toNat im s

end Sys2Proof.Machine
end

