-- ==== Sys2Proof/Machine/Mask.lean ====
section
/-! DEFINITION. Mask instructions, major 0x09 (R247, R248). -/

namespace Sys2Proof.Machine

/-- A mask operation of two k registers; k0 reads as the active mask. -/
def mask2 (wf : Bool) (f : Mask → Mask → Mask) (d a b : Nat) (s : State) : Out :=
  issue s (fun c => once wf Accept.none c [[.k a], [.k b]] [.k d]) (fun c => .next (s.now c [.k d (f (c.k a) (c.k b))]))

/-- A move into a k register: poison goes with it (R102). -/
def maskMove (wf : Bool) (src : List RegRef) (x : Cx → Mask) (d : Nat) (s : State) : Out :=
  issue s (fun c => { once wf Accept.none c [src] [.k d] with poison := 0 }) (fun c =>
    let s := s.now c [.k d (x c)]
    .next (s.onWarp c (fun w => { w with kP := bvPut w.kP d (c.onePoison src) })))

/-- A scalar computed from a k register (R247). -/
def maskScalar (wf : Bool) (f : Mask → Word) (d a : Nat) (s : State) : Out :=
  issue s (fun c => once wf Accept.none c [[.k a]] (sref d)) (fun c => .next (s.now c [.s d (f (c.k a)) false]))

/-- KAND (R247). -/
def execKand (d a b : BitVec 7) (s : State) : Out := mask2 (kdst d && kreg a && kreg b) (· &&& ·) d.toNat a.toNat b.toNat s
/-- KOR (R247). -/
def execKor (d a b : BitVec 7) (s : State) : Out := mask2 (kdst d && kreg a && kreg b) (· ||| ·) d.toNat a.toNat b.toNat s
/-- KXOR (R247). -/
def execKxor (d a b : BitVec 7) (s : State) : Out := mask2 (kdst d && kreg a && kreg b) (· ^^^ ·) d.toNat a.toNat b.toNat s
/-- KANDN (R247). -/
def execKandn (d a b : BitVec 7) (s : State) : Out :=
  mask2 (kdst d && kreg a && kreg b) (fun x y => x &&& ~~~y) d.toNat a.toNat b.toNat s
/-- KMOV k from k (R247). -/
def execKmov (d a : BitVec 7) (s : State) : Out :=
  maskMove (kdst d && kreg a) [.k a.toNat] (fun c => c.k a.toNat) d.toNat s
/-- KMOV k from a q pair (R247). -/
def execKmovFromQ (d a : BitVec 7) (s : State) : Out :=
  maskMove (kdst d && even a) (qref a.toNat) (fun c => c.warp.qreg a.toNat) d.toNat s
/-- KMOV to a q pair from k (R247). -/
def execKmovToQ (d a : BitVec 7) (s : State) : Out :=
  issue s (fun c => { once (even d && kreg a) Accept.none c [[.k a.toNat]] (qref d.toNat) with poison := 0 }) (fun c =>
    .next (s.now c (swrite true d.toNat (c.k a.toNat).toNat (c.onePoison [.k a.toNat]))))
/-- KPOPC (R247). -/
def execKpopc (d a : BitVec 7) (s : State) : Out :=
  maskScalar (kreg a) (fun m => BitVec.ofNat 32 (popcount m.toNat 64)) d.toNat a.toNat s
/-- KFIRST (R247). -/
def execKfirst (d a : BitVec 7) (s : State) : Out :=
  maskScalar (kreg a) (fun m => if m = 0 then 0xFFFFFFFF else BitVec.ofNat 32 (lowLane m)) d.toNat a.toNat s

end Sys2Proof.Machine
end

