-- ==== Sys2Proof/Machine/Geom.lean ====
section
/-! DEFINITION. Geometric predicates (R156 to R161, R301, R302): exact determinants over the integers, and symbolic
perturbation as polynomials in δ. -/

namespace Sys2Proof.Machine

/-- A ring that a determinant is evaluated in. -/
structure Ring (α : Type) where
  zero : α
  add  : α → α → α
  mul  : α → α → α
  neg  : α → α

/-- Entries of a list but the one at j. -/
def dropAt {α : Type} (l : List α) (j : Nat) : List α := l.take j ++ l.drop (j + 1)

/-- Determinant of the first n rows by expansion along the first row. -/
def detOf {α : Type} (r : Ring α) : Nat → List (List α) → α
  | 0, _ => r.zero
  | 1, m => (m.headD []).headD r.zero
  | n + 2, m =>
    match m with
    | [] => r.zero
    | row :: rest =>
      (List.range (n + 2)).foldl (fun acc j =>
        let t := r.mul (row.getD j r.zero) (detOf r (n + 1) (rest.map (fun x => dropAt x j)))
        r.add acc (if j % 2 = 0 then t else r.neg t)) r.zero

/-- The integers. -/
def intRing : Ring Int := ⟨0, (· + ·), (· * ·), (- ·)⟩

/-- A polynomial in δ: an exponent is the rising list of its binary digits' places (R159). -/
abbrev Poly := List (List Nat × Int)

/-- The exponent raised by 2^n. -/
def expAdd : Nat → List Nat → List Nat
  | n, [] => [n]
  | n, k :: r => if n < k then n :: k :: r else if n = k then expAdd (n + 1) r else k :: expAdd n r

/-- One term added to a polynomial. -/
def polyTerm : Poly → List Nat → Int → Poly
  | [], e, c => [(e, c)]
  | (e', c') :: r, e, c => if e = e' then (e', c' + c) :: r else (e', c') :: polyTerm r e c

def polyAdd (a b : Poly) : Poly := b.foldl (fun p t => polyTerm p t.1 t.2) a
def polyMul (a b : Poly) : Poly :=
  a.foldl (fun p t => b.foldl (fun p u => polyTerm p (u.1.foldl (fun e n => expAdd n e) t.1) (t.2 * u.2)) p) []
def polyNeg (a : Poly) : Poly := a.map (fun t => (t.1, -t.2))
def polyRing : Ring Poly := ⟨[], polyAdd, polyMul, polyNeg⟩

/-- Digits from the highest place down: the exponent a is less than b. -/
def digitsLt : List Nat → List Nat → Bool
  | [], [] => false
  | [], _ :: _ => true
  | _ :: _, [] => false
  | a :: r, b :: q => if a = b then digitsLt r q else decide (a < b)

/-- The term of least exponent with a coefficient other than 0. -/
def polyLead : Poly → Option (List Nat × Int)
  | [] => none
  | (e, c) :: r =>
    match polyLead r with
    | none => if c = 0 then none else some (e, c)
    | some (e', c') => if c ≠ 0 ∧ digitsLt e.reverse e'.reverse then some (e, c) else some (e', c')

/-- −1, 0 or 1. -/
def signOf (x : Int) : Int := if x < 0 then -1 else if x = 0 then 0 else 1

/-- The limit's sign as δ tends to 0 from above (R159). -/
def polySign (p : Poly) : Int := match polyLead p with | none => 0 | some t => signOf t.2

/-- Differences of the rows' points from the last point; `lift` appends the sum of squares (R156). -/
def detRows {α : Type} (r : Ring α) (lift : Bool) (pts : List (List α)) : List (List α) :=
  match pts.reverse with
  | [] => []
  | o :: rest =>
    rest.reverse.map (fun p =>
      let row := (p.zip o).map (fun q => r.add q.1 (r.neg q.2))
      if lift then row ++ [row.foldl (fun a x => r.add a (r.mul x x)) r.zero] else row)

/-- The five predicates. -/
inductive Pred where
  | ori2 | ori3 | inc | ins | segx
deriving DecidableEq, Repr

/-- Points and dimension (R301). -/
def Pred.points : Pred → Nat
  | .ori2 => 3 | .ori3 => 4 | .inc => 4 | .ins => 5 | .segx => 4
def Pred.dim : Pred → Nat
  | .ori3 => 3 | .ins => 3 | _ => 2

/-- The determinant of a predicate other than GSEGX (R156). GORI2's rows (b − a), (c − a) are those of b, c and the last
point a. -/
def predDet {α : Type} (r : Ring α) (k : Pred) (pts : List (List α)) : α :=
  match k with
  | .ori2 => match pts with
    | [a, b, c] => detOf r 2 (detRows r false [b, c, a])
    | _ => r.zero
  | .ori3 => detOf r 3 (detRows r false pts)
  | .inc => detOf r 3 (detRows r true pts)
  | .ins => detOf r 4 (detRows r true pts)
  | .segx => r.zero

/-- The coordinate j of the point of index i in dimension dim, perturbed (R159), as a multiple of 2^−1074 like the coordinates
themselves: a power of δ counts 2^1074 of these. -/
def perturbed (dim i j : Nat) (x : Int) : Poly := [([], x), ([i * (dim + 1) + dim - j], 2 ^ 1074)]

/-- The perturbed points. -/
def perturb (dim : Nat) (pts : List (List Int)) (idx : List Nat) : List (List Poly) :=
  (pts.zip idx).map (fun p => (p.1.zip (List.range dim)).map (fun q => perturbed dim p.2 q.2 q.1))

/-- The sign of a predicate's determinant; with distinct indices a zero is resolved by perturbation (R159). -/
def detSign (k : Pred) (pts : List (List Int)) (idx : Option (List Nat)) : Int :=
  let u := signOf (predDet intRing k pts)
  if u ≠ 0 then u
  else match idx with
    | none => 0
    | some l => polySign (predDet polyRing k (perturb k.dim pts l))

/-- The point lies in the box of two others. -/
def inBox (a b p : List Int) : Bool :=
  (List.range 2).all (fun j =>
    let x := a.getD j 0
    let y := b.getD j 0
    let z := p.getD j 0
    decide (min x y ≤ z) && decide (z ≤ max x y))

/-- GSEGX without .ss (R160). -/
def segExact (a b c d : List Int) (o1 o2 o3 o4 : Int) : Int :=
  if o1 * o2 < 0 ∧ o3 * o4 < 0 then 1
  else if (o1 = 0 ∧ inBox a b c) ∨ (o2 = 0 ∧ inBox a b d) ∨ (o3 = 0 ∧ inBox c d a) ∨ (o4 = 0 ∧ inBox c d b) then 0
  else -1

/-- GeomSign on finite points with the zero bit of R158; idx is given with .ss. Shared indices leave the unperturbed signs; that GSEGX.SS
then puts these into the formula of R160 is the model's choice (assumption 134). -/
def geomSign (k : Pred) (pts : List (List Int)) (idx : Option (List Nat)) : Int × Bool :=
  let ix := match idx with
    | some l => if l.eraseDups.length = l.length then some l else none
    | none => none
  match k with
  | .segx =>
    match pts with
    | [a, b, c, d] =>
      let sub := fun (l : List Nat) => ix.map (fun m => l.map (fun n => m.getD n 0))
      let o := fun (p : List (List Int)) (l : List Nat) => detSign .ori2 p (sub l)
      let e := fun (p : List (List Int)) => signOf (predDet intRing .ori2 p)
      let z := e [a, b, c] = 0 ∨ e [a, b, d] = 0 ∨ e [c, d, a] = 0 ∨ e [c, d, b] = 0
      if idx.isSome then
        (if o [a, b, c] [0, 1, 2] * o [a, b, d] [0, 1, 3] < 0 ∧ o [c, d, a] [2, 3, 0] * o [c, d, b] [2, 3, 1] < 0 then 1 else -1,
          decide z)
      else (segExact a b c d (e [a, b, c]) (e [a, b, d]) (e [c, d, a]) (e [c, d, b]), decide z)
    | _ => (0, false)
  | _ => (detSign k pts ix, decide (predDet intRing k pts = 0))

/-- A finite FP64 number as a multiple of 2^−1074. -/
def fp64Int (x : Nat) : Int :=
  match fp64.decode x with
  | .fin n m e _ => scaled n m e (-1074)
  | _ => 0

/-- The lane's points as bit patterns (R301). -/
def Cx.points (c : Cx) (k : Pred) (a l : Nat) : List (List Nat) :=
  (List.range k.points).map (fun p => (List.range k.dim).map (fun j => (c.va 64 (a + 2 * (p * k.dim + j)) l).toNat))

/-- The lane's point indices with .ss (R301). -/
def Cx.indices (c : Cx) (k : Pred) (a b l : Nat) : List Nat :=
  (List.range k.points).map (fun p =>
    ((c.warp.qreg b).toNat + (c.warp.vreg (a + 2 * k.points * k.dim + p) l).toNat) % 2 ^ 64)

/-- A geometric instruction (R301, R302, R161). -/
def geom (wf : Bool) (k : Pred) (d a b : Nat) (bs : Bool) (s : State) : Out :=
  let size := fun (ss : Bool) => 2 * k.points * k.dim + (if ss then k.points else 0)
  issue s (fun c =>
    let ss := bit c.mod8 4
    let kz := bits c.mod8 0 4
    perLane (wf && ss == bs && c.vok d 1 && c.vok a (size ss)) (accVec (fun m => bits m 6 2 == 0) false) c
      ([vref a (size ss)] ++ (if ss then [qref b] else [])) ([.v d] ++ (if kz = 0 then [] else [.k kz]))) (fun c =>
    let ss := bit c.mod8 4
    let nf := bit c.mod8 5
    let kz := bits c.mod8 0 4
    if c.combined = 0 then .next (s.advance c)
    else
      let ls := lanes c.combined
      let bad := ls.filter (fun l => (c.points k a l).any (fun p => p.any (fun x => !(fp64.decode x).isFinite)))
      if bad ≠ [] ∧ nf = false then .next (s.trap c .geomnf (maskOf bad) 0)
      else
        let res := ls.map (fun l =>
          if bad.contains l then (l, ((2 : Int), false))
          else (l, geomSign k ((c.points k a l).map (fun p => p.map fp64Int)) (if ss then some (c.indices k a b l) else none)))
        let w := res.map (fun r => RegWrite.v d r.1 (BitVec.ofInt 32 r.2.1) false)
        let z := if kz = 0 then [] else [RegWrite.k kz (maskOf ((res.filter (fun r => r.2.2)).map (fun r => r.1)))]
        .next (s.later c ([.v d] ++ (if kz = 0 then [] else [.k kz])) (w ++ z) (if bad = [] then 0 else flagIV)))

end Sys2Proof.Machine
end

