-- ==== Sys2Proof/Machine/Predicates.lean ====
section
/-! DEFINITION. Geometric predicates: major 0x19 (R301, R302). -/

namespace Sys2Proof.Machine

/-- GORI2 (R156). -/
def execGori2 (d : BitVec 7) (a : BitVec 7) (b : BitVec 7) (bs : BitVec 1) (s : State) : Out :=
  geom (even a && (if bs == 0 then b == 0 else even b)) .ori2 d.toNat a.toNat b.toNat (bs == 1) s

/-- GORI3 (R156). -/
def execGori3 (d : BitVec 7) (a : BitVec 7) (b : BitVec 7) (bs : BitVec 1) (s : State) : Out :=
  geom (even a && (if bs == 0 then b == 0 else even b)) .ori3 d.toNat a.toNat b.toNat (bs == 1) s

/-- GINC (R156). -/
def execGinc (d : BitVec 7) (a : BitVec 7) (b : BitVec 7) (bs : BitVec 1) (s : State) : Out :=
  geom (even a && (if bs == 0 then b == 0 else even b)) .inc d.toNat a.toNat b.toNat (bs == 1) s

/-- GINS (R156). -/
def execGins (d : BitVec 7) (a : BitVec 7) (b : BitVec 7) (bs : BitVec 1) (s : State) : Out :=
  geom (even a && (if bs == 0 then b == 0 else even b)) .ins d.toNat a.toNat b.toNat (bs == 1) s

/-- GSEGX (R160). -/
def execGsegx (d : BitVec 7) (a : BitVec 7) (b : BitVec 7) (bs : BitVec 1) (s : State) : Out :=
  geom (even a && (if bs == 0 then b == 0 else even b)) .segx d.toNat a.toNat b.toNat (bs == 1) s

end Sys2Proof.Machine
end

