-- ==== Sys2Proof/Machine/Scalar.lean ====
section
/-! DEFINITION. Scalar arithmetic and logic: one meaning for each instruction of majors 0x01 to 0x08 (R242 to R246). -/

namespace Sys2Proof.Machine

/-- SADD (R243). -/
def execSadd (d : BitVec 7) (a : BitVec 7) (b : BitVec 7) (s : State) : Out :=
  scalar true false .add d.toNat a.toNat b.toNat s

/-- SSUB (R243). -/
def execSsub (d : BitVec 7) (a : BitVec 7) (b : BitVec 7) (s : State) : Out :=
  scalar true false .sub d.toNat a.toNat b.toNat s

/-- SMUL (R243). -/
def execSmul (d : BitVec 7) (a : BitVec 7) (b : BitVec 7) (s : State) : Out :=
  scalar true false .mul d.toNat a.toNat b.toNat s

/-- SMULH (R243). -/
def execSmulh (d : BitVec 7) (a : BitVec 7) (b : BitVec 7) (s : State) : Out :=
  scalar true false .mulh d.toNat a.toNat b.toNat s

/-- SMULH_U (R243). -/
def execSmulhU (d : BitVec 7) (a : BitVec 7) (b : BitVec 7) (s : State) : Out :=
  scalar true false .mulhU d.toNat a.toNat b.toNat s

/-- SDIV (R243). -/
def execSdiv (d : BitVec 7) (a : BitVec 7) (b : BitVec 7) (s : State) : Out :=
  scalar true false .div d.toNat a.toNat b.toNat s

/-- SDIV_U (R243). -/
def execSdivU (d : BitVec 7) (a : BitVec 7) (b : BitVec 7) (s : State) : Out :=
  scalar true false .divU d.toNat a.toNat b.toNat s

/-- SAND (R243). -/
def execSand (d : BitVec 7) (a : BitVec 7) (b : BitVec 7) (s : State) : Out :=
  scalar true false .and d.toNat a.toNat b.toNat s

/-- SOR (R243). -/
def execSor (d : BitVec 7) (a : BitVec 7) (b : BitVec 7) (s : State) : Out :=
  scalar true false .or d.toNat a.toNat b.toNat s

/-- SXOR (R243). -/
def execSxor (d : BitVec 7) (a : BitVec 7) (b : BitVec 7) (s : State) : Out :=
  scalar true false .xor d.toNat a.toNat b.toNat s

/-- SANDN (R243). -/
def execSandn (d : BitVec 7) (a : BitVec 7) (b : BitVec 7) (s : State) : Out :=
  scalar true false .andn d.toNat a.toNat b.toNat s

/-- SSHL (R243). -/
def execSshl (d : BitVec 7) (a : BitVec 7) (b : BitVec 7) (s : State) : Out :=
  scalar true false .shl d.toNat a.toNat b.toNat s

/-- SSHR (R243). -/
def execSshr (d : BitVec 7) (a : BitVec 7) (b : BitVec 7) (s : State) : Out :=
  scalar true false .shr d.toNat a.toNat b.toNat s

/-- SSRA (R243). -/
def execSsra (d : BitVec 7) (a : BitVec 7) (b : BitVec 7) (s : State) : Out :=
  scalar true false .sra d.toNat a.toNat b.toNat s

/-- SMIN (R243). -/
def execSmin (d : BitVec 7) (a : BitVec 7) (b : BitVec 7) (s : State) : Out :=
  scalar true false .min d.toNat a.toNat b.toNat s

/-- SMIN_U (R243). -/
def execSminU (d : BitVec 7) (a : BitVec 7) (b : BitVec 7) (s : State) : Out :=
  scalar true false .minU d.toNat a.toNat b.toNat s

/-- SMAX (R243). -/
def execSmax (d : BitVec 7) (a : BitVec 7) (b : BitVec 7) (s : State) : Out :=
  scalar true false .max d.toNat a.toNat b.toNat s

/-- SMAX_U (R243). -/
def execSmaxU (d : BitVec 7) (a : BitVec 7) (b : BitVec 7) (s : State) : Out :=
  scalar true false .maxU d.toNat a.toNat b.toNat s

/-- SSET_EQ (R243). -/
def execSsetEq (d : BitVec 7) (a : BitVec 7) (b : BitVec 7) (s : State) : Out :=
  scalar true false (.set .eq) d.toNat a.toNat b.toNat s

/-- SSET_NE (R243). -/
def execSsetNe (d : BitVec 7) (a : BitVec 7) (b : BitVec 7) (s : State) : Out :=
  scalar true false (.set .ne) d.toNat a.toNat b.toNat s

/-- SSET_LT (R243). -/
def execSsetLt (d : BitVec 7) (a : BitVec 7) (b : BitVec 7) (s : State) : Out :=
  scalar true false (.set .lt) d.toNat a.toNat b.toNat s

/-- SSET_LE (R243). -/
def execSsetLe (d : BitVec 7) (a : BitVec 7) (b : BitVec 7) (s : State) : Out :=
  scalar true false (.set .le) d.toNat a.toNat b.toNat s

/-- SSET_LT_U (R243). -/
def execSsetLtU (d : BitVec 7) (a : BitVec 7) (b : BitVec 7) (s : State) : Out :=
  scalar true false (.set .ltU) d.toNat a.toNat b.toNat s

/-- SSET_LE_U (R243). -/
def execSsetLeU (d : BitVec 7) (a : BitVec 7) (b : BitVec 7) (s : State) : Out :=
  scalar true false (.set .leU) d.toNat a.toNat b.toNat s

/-- SSEL (R243). -/
def execSsel (d : BitVec 7) (a : BitVec 7) (b : BitVec 7) (s : State) : Out :=
  scalar true false .sel d.toNat a.toNat b.toNat s

/-- SMOV (R243). -/
def execSmov (d : BitVec 7) (b : BitVec 7) (s : State) : Out :=
  scalar true false .mov d.toNat 0 b.toNat s

/-- SCLZ (R243). -/
def execSclz (d : BitVec 7) (b : BitVec 7) (s : State) : Out :=
  scalar true false .clz d.toNat 0 b.toNat s

/-- SPOPC (R243). -/
def execSpopc (d : BitVec 7) (b : BitVec 7) (s : State) : Out :=
  scalar true false .popc d.toNat 0 b.toNat s

/-- SBFX (R244). -/
def execSbfx (d : BitVec 7) (a : BitVec 7) (b : BitVec 7) (s : State) : Out :=
  scalar true false .bfx d.toNat a.toNat b.toNat s

/-- SBFI (R244). -/
def execSbfi (d : BitVec 7) (a : BitVec 7) (b : BitVec 7) (s : State) : Out :=
  scalar true false .bfi d.toNat a.toNat b.toNat s

/-- SADD_Q (R243). -/
def execSaddQ (d : BitVec 7) (a : BitVec 7) (b : BitVec 7) (s : State) : Out :=
  scalar (even d && even a && even b) true .add d.toNat a.toNat b.toNat s

/-- SSUB_Q (R243). -/
def execSsubQ (d : BitVec 7) (a : BitVec 7) (b : BitVec 7) (s : State) : Out :=
  scalar (even d && even a && even b) true .sub d.toNat a.toNat b.toNat s

/-- SMUL_Q (R243). -/
def execSmulQ (d : BitVec 7) (a : BitVec 7) (b : BitVec 7) (s : State) : Out :=
  scalar (even d && even a && even b) true .mul d.toNat a.toNat b.toNat s

/-- SMULH_Q (R243). -/
def execSmulhQ (d : BitVec 7) (a : BitVec 7) (b : BitVec 7) (s : State) : Out :=
  scalar (even d && even a && even b) true .mulh d.toNat a.toNat b.toNat s

/-- SMULH_U_Q (R243). -/
def execSmulhUQ (d : BitVec 7) (a : BitVec 7) (b : BitVec 7) (s : State) : Out :=
  scalar (even d && even a && even b) true .mulhU d.toNat a.toNat b.toNat s

/-- SDIV_Q (R243). -/
def execSdivQ (d : BitVec 7) (a : BitVec 7) (b : BitVec 7) (s : State) : Out :=
  scalar (even d && even a && even b) true .div d.toNat a.toNat b.toNat s

/-- SDIV_U_Q (R243). -/
def execSdivUQ (d : BitVec 7) (a : BitVec 7) (b : BitVec 7) (s : State) : Out :=
  scalar (even d && even a && even b) true .divU d.toNat a.toNat b.toNat s

/-- SAND_Q (R243). -/
def execSandQ (d : BitVec 7) (a : BitVec 7) (b : BitVec 7) (s : State) : Out :=
  scalar (even d && even a && even b) true .and d.toNat a.toNat b.toNat s

/-- SOR_Q (R243). -/
def execSorQ (d : BitVec 7) (a : BitVec 7) (b : BitVec 7) (s : State) : Out :=
  scalar (even d && even a && even b) true .or d.toNat a.toNat b.toNat s

/-- SXOR_Q (R243). -/
def execSxorQ (d : BitVec 7) (a : BitVec 7) (b : BitVec 7) (s : State) : Out :=
  scalar (even d && even a && even b) true .xor d.toNat a.toNat b.toNat s

/-- SANDN_Q (R243). -/
def execSandnQ (d : BitVec 7) (a : BitVec 7) (b : BitVec 7) (s : State) : Out :=
  scalar (even d && even a && even b) true .andn d.toNat a.toNat b.toNat s

/-- SSHL_Q (R243). -/
def execSshlQ (d : BitVec 7) (a : BitVec 7) (b : BitVec 7) (s : State) : Out :=
  scalar (even d && even a && even b) true .shl d.toNat a.toNat b.toNat s

/-- SSHR_Q (R243). -/
def execSshrQ (d : BitVec 7) (a : BitVec 7) (b : BitVec 7) (s : State) : Out :=
  scalar (even d && even a && even b) true .shr d.toNat a.toNat b.toNat s

/-- SSRA_Q (R243). -/
def execSsraQ (d : BitVec 7) (a : BitVec 7) (b : BitVec 7) (s : State) : Out :=
  scalar (even d && even a && even b) true .sra d.toNat a.toNat b.toNat s

/-- SMIN_Q (R243). -/
def execSminQ (d : BitVec 7) (a : BitVec 7) (b : BitVec 7) (s : State) : Out :=
  scalar (even d && even a && even b) true .min d.toNat a.toNat b.toNat s

/-- SMIN_U_Q (R243). -/
def execSminUQ (d : BitVec 7) (a : BitVec 7) (b : BitVec 7) (s : State) : Out :=
  scalar (even d && even a && even b) true .minU d.toNat a.toNat b.toNat s

/-- SMAX_Q (R243). -/
def execSmaxQ (d : BitVec 7) (a : BitVec 7) (b : BitVec 7) (s : State) : Out :=
  scalar (even d && even a && even b) true .max d.toNat a.toNat b.toNat s

/-- SMAX_U_Q (R243). -/
def execSmaxUQ (d : BitVec 7) (a : BitVec 7) (b : BitVec 7) (s : State) : Out :=
  scalar (even d && even a && even b) true .maxU d.toNat a.toNat b.toNat s

/-- SSET_EQ_Q (R243). -/
def execSsetEqQ (d : BitVec 7) (a : BitVec 7) (b : BitVec 7) (s : State) : Out :=
  scalar (even d && even a && even b) true (.set .eq) d.toNat a.toNat b.toNat s

/-- SSET_NE_Q (R243). -/
def execSsetNeQ (d : BitVec 7) (a : BitVec 7) (b : BitVec 7) (s : State) : Out :=
  scalar (even d && even a && even b) true (.set .ne) d.toNat a.toNat b.toNat s

/-- SSET_LT_Q (R243). -/
def execSsetLtQ (d : BitVec 7) (a : BitVec 7) (b : BitVec 7) (s : State) : Out :=
  scalar (even d && even a && even b) true (.set .lt) d.toNat a.toNat b.toNat s

/-- SSET_LE_Q (R243). -/
def execSsetLeQ (d : BitVec 7) (a : BitVec 7) (b : BitVec 7) (s : State) : Out :=
  scalar (even d && even a && even b) true (.set .le) d.toNat a.toNat b.toNat s

/-- SSET_LT_U_Q (R243). -/
def execSsetLtUQ (d : BitVec 7) (a : BitVec 7) (b : BitVec 7) (s : State) : Out :=
  scalar (even d && even a && even b) true (.set .ltU) d.toNat a.toNat b.toNat s

/-- SSET_LE_U_Q (R243). -/
def execSsetLeUQ (d : BitVec 7) (a : BitVec 7) (b : BitVec 7) (s : State) : Out :=
  scalar (even d && even a && even b) true (.set .leU) d.toNat a.toNat b.toNat s

/-- SSEL_Q (R243). -/
def execSselQ (d : BitVec 7) (a : BitVec 7) (b : BitVec 7) (s : State) : Out :=
  scalar (even d && even a && even b) true .sel d.toNat a.toNat b.toNat s

/-- SMOV_Q (R243). -/
def execSmovQ (d : BitVec 7) (b : BitVec 7) (s : State) : Out :=
  scalar (even d && even b) true .mov d.toNat 0 b.toNat s

/-- SCLZ_Q (R243). -/
def execSclzQ (d : BitVec 7) (b : BitVec 7) (s : State) : Out :=
  scalar (even d && even b) true .clz d.toNat 0 b.toNat s

/-- SPOPC_Q (R243). -/
def execSpopcQ (d : BitVec 7) (b : BitVec 7) (s : State) : Out :=
  scalar (even d && even b) true .popc d.toNat 0 b.toNat s

/-- SBFX_Q (R244). -/
def execSbfxQ (d : BitVec 7) (a : BitVec 7) (b : BitVec 7) (s : State) : Out :=
  scalar (even d && even a && even b) true .bfx d.toNat a.toNat b.toNat s

/-- SBFI_Q (R244). -/
def execSbfiQ (d : BitVec 7) (a : BitVec 7) (b : BitVec 7) (s : State) : Out :=
  scalar (even d && even a && even b) true .bfi d.toNat a.toNat b.toNat s

/-- SIMM (R246). -/
def execSimm (d : BitVec 7) (im : BitVec 12) (s : State) : Out :=
  scalarImm true .mov d.toNat 0 im s

/-- SADD_IMM (R246). -/
def execSaddImm (d : BitVec 7) (a : BitVec 7) (im : BitVec 12) (s : State) : Out :=
  scalarImm true .add d.toNat a.toNat im s

/-- SAND_IMM (R246). -/
def execSandImm (d : BitVec 7) (a : BitVec 7) (im : BitVec 12) (s : State) : Out :=
  scalarImm true .and d.toNat a.toNat im s

/-- SOR_IMM (R246). -/
def execSorImm (d : BitVec 7) (a : BitVec 7) (im : BitVec 12) (s : State) : Out :=
  scalarImm true .or d.toNat a.toNat im s

/-- SXOR_IMM (R246). -/
def execSxorImm (d : BitVec 7) (a : BitVec 7) (im : BitVec 12) (s : State) : Out :=
  scalarImm true .xor d.toNat a.toNat im s

/-- SSHL_IMM (R246). -/
def execSshlImm (d : BitVec 7) (a : BitVec 7) (n : BitVec 5) (s : State) : Out :=
  scalarShift true .shl d.toNat a.toNat n s

/-- SSHR_IMM (R246). -/
def execSshrImm (d : BitVec 7) (a : BitVec 7) (n : BitVec 5) (s : State) : Out :=
  scalarShift true .shr d.toNat a.toNat n s

/-- SSRA_IMM (R246). -/
def execSsraImm (d : BitVec 7) (a : BitVec 7) (n : BitVec 5) (s : State) : Out :=
  scalarShift true .sra d.toNat a.toNat n s

end Sys2Proof.Machine
end

