-- ==== Sys2Proof/Machine/VectorFloat.lean ====
section
/-! DEFINITION. Vector floating point: one meaning for each instruction of majors 0x14 and 0x15 (R282 to R284). -/

namespace Sys2Proof.Machine

/-- VFADD (R282). -/
def execVfadd (d : BitVec 7) (a : BitVec 7) (b : BitVec 7) (bs : BitVec 1) (s : State) : Out :=
  vecFloat true false .add d.toNat a.toNat b.toNat (bs == 1) s

/-- VFSUB (R282). -/
def execVfsub (d : BitVec 7) (a : BitVec 7) (b : BitVec 7) (bs : BitVec 1) (s : State) : Out :=
  vecFloat true false .sub d.toNat a.toNat b.toNat (bs == 1) s

/-- VFMUL (R282). -/
def execVfmul (d : BitVec 7) (a : BitVec 7) (b : BitVec 7) (bs : BitVec 1) (s : State) : Out :=
  vecFloat true false .mul d.toNat a.toNat b.toNat (bs == 1) s

/-- VFMA (R282). -/
def execVfma (d : BitVec 7) (a : BitVec 7) (b : BitVec 7) (bs : BitVec 1) (s : State) : Out :=
  vecFloat true false .fma d.toNat a.toNat b.toNat (bs == 1) s

/-- VFMIN (R283). -/
def execVfmin (d : BitVec 7) (a : BitVec 7) (b : BitVec 7) (bs : BitVec 1) (s : State) : Out :=
  vecFloat true false .min d.toNat a.toNat b.toNat (bs == 1) s

/-- VFMAX (R283). -/
def execVfmax (d : BitVec 7) (a : BitVec 7) (b : BitVec 7) (bs : BitVec 1) (s : State) : Out :=
  vecFloat true false .max d.toNat a.toNat b.toNat (bs == 1) s

/-- VFSET_EQ (R283). -/
def execVfsetEq (d : BitVec 7) (a : BitVec 7) (b : BitVec 7) (bs : BitVec 1) (s : State) : Out :=
  vecFloatSet (kdst d) false .eq d.toNat a.toNat b.toNat (bs == 1) s

/-- VFSET_LT (R283). -/
def execVfsetLt (d : BitVec 7) (a : BitVec 7) (b : BitVec 7) (bs : BitVec 1) (s : State) : Out :=
  vecFloatSet (kdst d) false .lt d.toNat a.toNat b.toNat (bs == 1) s

/-- VFSET_LE (R283). -/
def execVfsetLe (d : BitVec 7) (a : BitVec 7) (b : BitVec 7) (bs : BitVec 1) (s : State) : Out :=
  vecFloatSet (kdst d) false .le d.toNat a.toNat b.toNat (bs == 1) s

/-- VFSET_UN (R283). -/
def execVfsetUn (d : BitVec 7) (a : BitVec 7) (b : BitVec 7) (bs : BitVec 1) (s : State) : Out :=
  vecFloatSet (kdst d) false .un d.toNat a.toNat b.toNat (bs == 1) s

/-- VFCLS (R284). -/
def execVfcls (d : BitVec 7) (b : BitVec 7) (bs : BitVec 1) (s : State) : Out :=
  vecFloat true false .cls d.toNat 0 b.toNat (bs == 1) s

/-- VRCP (R153). -/
def execVrcp (d : BitVec 7) (b : BitVec 7) (bs : BitVec 1) (s : State) : Out :=
  vecFloat true false (.fn .rcp) d.toNat 0 b.toNat (bs == 1) s

/-- VRSQ (R153). -/
def execVrsq (d : BitVec 7) (b : BitVec 7) (bs : BitVec 1) (s : State) : Out :=
  vecFloat true false (.fn .rsq) d.toNat 0 b.toNat (bs == 1) s

/-- VSQRT (R153). -/
def execVsqrt (d : BitVec 7) (b : BitVec 7) (bs : BitVec 1) (s : State) : Out :=
  vecFloat true false (.fn .sqrt) d.toNat 0 b.toNat (bs == 1) s

/-- VEXP2 (R153). -/
def execVexp2 (d : BitVec 7) (b : BitVec 7) (bs : BitVec 1) (s : State) : Out :=
  vecFloat true false (.fn .exp2) d.toNat 0 b.toNat (bs == 1) s

/-- VLOG2 (R153). -/
def execVlog2 (d : BitVec 7) (b : BitVec 7) (bs : BitVec 1) (s : State) : Out :=
  vecFloat true false (.fn .log2) d.toNat 0 b.toNat (bs == 1) s

/-- VFADD_D (R282). -/
def execVfaddD (d : BitVec 7) (a : BitVec 7) (b : BitVec 7) (bs : BitVec 1) (s : State) : Out :=
  vecFloat (even d && even a && even b) true .add d.toNat a.toNat b.toNat (bs == 1) s

/-- VFSUB_D (R282). -/
def execVfsubD (d : BitVec 7) (a : BitVec 7) (b : BitVec 7) (bs : BitVec 1) (s : State) : Out :=
  vecFloat (even d && even a && even b) true .sub d.toNat a.toNat b.toNat (bs == 1) s

/-- VFMUL_D (R282). -/
def execVfmulD (d : BitVec 7) (a : BitVec 7) (b : BitVec 7) (bs : BitVec 1) (s : State) : Out :=
  vecFloat (even d && even a && even b) true .mul d.toNat a.toNat b.toNat (bs == 1) s

/-- VFMA_D (R282). -/
def execVfmaD (d : BitVec 7) (a : BitVec 7) (b : BitVec 7) (bs : BitVec 1) (s : State) : Out :=
  vecFloat (even d && even a && even b) true .fma d.toNat a.toNat b.toNat (bs == 1) s

/-- VFMIN_D (R283). -/
def execVfminD (d : BitVec 7) (a : BitVec 7) (b : BitVec 7) (bs : BitVec 1) (s : State) : Out :=
  vecFloat (even d && even a && even b) true .min d.toNat a.toNat b.toNat (bs == 1) s

/-- VFMAX_D (R283). -/
def execVfmaxD (d : BitVec 7) (a : BitVec 7) (b : BitVec 7) (bs : BitVec 1) (s : State) : Out :=
  vecFloat (even d && even a && even b) true .max d.toNat a.toNat b.toNat (bs == 1) s

/-- VFSET_EQ_D (R283). -/
def execVfsetEqD (d : BitVec 7) (a : BitVec 7) (b : BitVec 7) (bs : BitVec 1) (s : State) : Out :=
  vecFloatSet (kdst d && even a && even b) true .eq d.toNat a.toNat b.toNat (bs == 1) s

/-- VFSET_LT_D (R283). -/
def execVfsetLtD (d : BitVec 7) (a : BitVec 7) (b : BitVec 7) (bs : BitVec 1) (s : State) : Out :=
  vecFloatSet (kdst d && even a && even b) true .lt d.toNat a.toNat b.toNat (bs == 1) s

/-- VFSET_LE_D (R283). -/
def execVfsetLeD (d : BitVec 7) (a : BitVec 7) (b : BitVec 7) (bs : BitVec 1) (s : State) : Out :=
  vecFloatSet (kdst d && even a && even b) true .le d.toNat a.toNat b.toNat (bs == 1) s

/-- VFSET_UN_D (R283). -/
def execVfsetUnD (d : BitVec 7) (a : BitVec 7) (b : BitVec 7) (bs : BitVec 1) (s : State) : Out :=
  vecFloatSet (kdst d && even a && even b) true .un d.toNat a.toNat b.toNat (bs == 1) s

/-- VFCLS_D (R284). -/
def execVfclsD (d : BitVec 7) (b : BitVec 7) (bs : BitVec 1) (s : State) : Out :=
  vecFloat (even d && even b) true .cls d.toNat 0 b.toNat (bs == 1) s

/-- VRCP_D (R153). -/
def execVrcpD (d : BitVec 7) (b : BitVec 7) (bs : BitVec 1) (s : State) : Out :=
  vecFloat (even d && even b) true (.fn .rcp) d.toNat 0 b.toNat (bs == 1) s

/-- VRSQ_D (R153). -/
def execVrsqD (d : BitVec 7) (b : BitVec 7) (bs : BitVec 1) (s : State) : Out :=
  vecFloat (even d && even b) true (.fn .rsq) d.toNat 0 b.toNat (bs == 1) s

/-- VSQRT_D (R153). -/
def execVsqrtD (d : BitVec 7) (b : BitVec 7) (bs : BitVec 1) (s : State) : Out :=
  vecFloat (even d && even b) true (.fn .sqrt) d.toNat 0 b.toNat (bs == 1) s

/-- VEXP2_D (R153). -/
def execVexp2D (d : BitVec 7) (b : BitVec 7) (bs : BitVec 1) (s : State) : Out :=
  vecFloat (even d && even b) true (.fn .exp2) d.toNat 0 b.toNat (bs == 1) s

/-- VLOG2_D (R153). -/
def execVlog2D (d : BitVec 7) (b : BitVec 7) (bs : BitVec 1) (s : State) : Out :=
  vecFloat (even d && even b) true (.fn .log2) d.toNat 0 b.toNat (bs == 1) s

end Sys2Proof.Machine
end

