-- ==== Sys2Proof/Machine/VectorInt.lean ====
section
/-! DEFINITION. Vector integer: one meaning for each instruction of majors 0x10 to 0x13 and 0x1A to 0x1D (R276 to R281). -/

namespace Sys2Proof.Machine

/-- VADD (R277). -/
def execVadd (d : BitVec 7) (a : BitVec 7) (b : BitVec 7) (bs : BitVec 1) (s : State) : Out :=
  vec true false .add d.toNat a.toNat b.toNat (bs == 1) s

/-- VSUB (R277). -/
def execVsub (d : BitVec 7) (a : BitVec 7) (b : BitVec 7) (bs : BitVec 1) (s : State) : Out :=
  vec true false .sub d.toNat a.toNat b.toNat (bs == 1) s

/-- VMUL (R277). -/
def execVmul (d : BitVec 7) (a : BitVec 7) (b : BitVec 7) (bs : BitVec 1) (s : State) : Out :=
  vec true false .mul d.toNat a.toNat b.toNat (bs == 1) s

/-- VMULH (R277). -/
def execVmulh (d : BitVec 7) (a : BitVec 7) (b : BitVec 7) (bs : BitVec 1) (s : State) : Out :=
  vec true false .mulh d.toNat a.toNat b.toNat (bs == 1) s

/-- VMAD (R277). -/
def execVmad (d : BitVec 7) (a : BitVec 7) (b : BitVec 7) (bs : BitVec 1) (s : State) : Out :=
  vec true false .mad d.toNat a.toNat b.toNat (bs == 1) s

/-- VAND (R277). -/
def execVand (d : BitVec 7) (a : BitVec 7) (b : BitVec 7) (bs : BitVec 1) (s : State) : Out :=
  vec true false .and d.toNat a.toNat b.toNat (bs == 1) s

/-- VOR (R277). -/
def execVor (d : BitVec 7) (a : BitVec 7) (b : BitVec 7) (bs : BitVec 1) (s : State) : Out :=
  vec true false .or d.toNat a.toNat b.toNat (bs == 1) s

/-- VXOR (R277). -/
def execVxor (d : BitVec 7) (a : BitVec 7) (b : BitVec 7) (bs : BitVec 1) (s : State) : Out :=
  vec true false .xor d.toNat a.toNat b.toNat (bs == 1) s

/-- VSHL (R277). -/
def execVshl (d : BitVec 7) (a : BitVec 7) (b : BitVec 7) (bs : BitVec 1) (s : State) : Out :=
  vec true false .shl d.toNat a.toNat b.toNat (bs == 1) s

/-- VSHR (R277). -/
def execVshr (d : BitVec 7) (a : BitVec 7) (b : BitVec 7) (bs : BitVec 1) (s : State) : Out :=
  vec true false .shr d.toNat a.toNat b.toNat (bs == 1) s

/-- VSRA (R277). -/
def execVsra (d : BitVec 7) (a : BitVec 7) (b : BitVec 7) (bs : BitVec 1) (s : State) : Out :=
  vec true false .sra d.toNat a.toNat b.toNat (bs == 1) s

/-- VMIN (R277). -/
def execVmin (d : BitVec 7) (a : BitVec 7) (b : BitVec 7) (bs : BitVec 1) (s : State) : Out :=
  vec true false .min d.toNat a.toNat b.toNat (bs == 1) s

/-- VMAX (R277). -/
def execVmax (d : BitVec 7) (a : BitVec 7) (b : BitVec 7) (bs : BitVec 1) (s : State) : Out :=
  vec true false .max d.toNat a.toNat b.toNat (bs == 1) s

/-- VSEL (R277). -/
def execVsel (d : BitVec 7) (a : BitVec 7) (b : BitVec 7) (bs : BitVec 1) (s : State) : Out :=
  vec true false .sel d.toNat a.toNat b.toNat (bs == 1) s

/-- VBFX (R277). -/
def execVbfx (d : BitVec 7) (a : BitVec 7) (b : BitVec 7) (bs : BitVec 1) (s : State) : Out :=
  vec true false .bfx d.toNat a.toNat b.toNat (bs == 1) s

/-- VABS (R278). -/
def execVabs (d : BitVec 7) (b : BitVec 7) (bs : BitVec 1) (s : State) : Out :=
  vec true false .abs d.toNat 0 b.toNat (bs == 1) s

/-- VCLZ (R278). -/
def execVclz (d : BitVec 7) (b : BitVec 7) (bs : BitVec 1) (s : State) : Out :=
  vec true false .clz d.toNat 0 b.toNat (bs == 1) s

/-- VPOPC (R278). -/
def execVpopc (d : BitVec 7) (b : BitVec 7) (bs : BitVec 1) (s : State) : Out :=
  vec true false .popc d.toNat 0 b.toNat (bs == 1) s

/-- VMOV (R278). -/
def execVmov (d : BitVec 7) (b : BitVec 7) (bs : BitVec 1) (s : State) : Out :=
  vec true false .mov d.toNat 0 b.toNat (bs == 1) s

/-- VBCST (R280). -/
def execVbcst (d : BitVec 7) (a : BitVec 7) (b : BitVec 7) (s : State) : Out :=
  vecBcst true false d.toNat a.toNat b.toNat s

/-- VSET_EQ (R278). -/
def execVsetEq (d : BitVec 7) (a : BitVec 7) (b : BitVec 7) (bs : BitVec 1) (s : State) : Out :=
  vecSet (kdst d) false .eq d.toNat a.toNat b.toNat (bs == 1) s

/-- VSET_NE (R278). -/
def execVsetNe (d : BitVec 7) (a : BitVec 7) (b : BitVec 7) (bs : BitVec 1) (s : State) : Out :=
  vecSet (kdst d) false .ne d.toNat a.toNat b.toNat (bs == 1) s

/-- VSET_LT (R278). -/
def execVsetLt (d : BitVec 7) (a : BitVec 7) (b : BitVec 7) (bs : BitVec 1) (s : State) : Out :=
  vecSet (kdst d) false .lt d.toNat a.toNat b.toNat (bs == 1) s

/-- VSET_LE (R278). -/
def execVsetLe (d : BitVec 7) (a : BitVec 7) (b : BitVec 7) (bs : BitVec 1) (s : State) : Out :=
  vecSet (kdst d) false .le d.toNat a.toNat b.toNat (bs == 1) s

/-- VSET_LT_U (R278). -/
def execVsetLtU (d : BitVec 7) (a : BitVec 7) (b : BitVec 7) (bs : BitVec 1) (s : State) : Out :=
  vecSet (kdst d) false .ltU d.toNat a.toNat b.toNat (bs == 1) s

/-- VSET_LE_U (R278). -/
def execVsetLeU (d : BitVec 7) (a : BitVec 7) (b : BitVec 7) (bs : BitVec 1) (s : State) : Out :=
  vecSet (kdst d) false .leU d.toNat a.toNat b.toNat (bs == 1) s

/-- VMULH_U (R278). -/
def execVmulhU (d : BitVec 7) (a : BitVec 7) (b : BitVec 7) (bs : BitVec 1) (s : State) : Out :=
  vec true false .mulhU d.toNat a.toNat b.toNat (bs == 1) s

/-- VMIN_U (R278). -/
def execVminU (d : BitVec 7) (a : BitVec 7) (b : BitVec 7) (bs : BitVec 1) (s : State) : Out :=
  vec true false .minU d.toNat a.toNat b.toNat (bs == 1) s

/-- VMAX_U (R278). -/
def execVmaxU (d : BitVec 7) (a : BitVec 7) (b : BitVec 7) (bs : BitVec 1) (s : State) : Out :=
  vec true false .maxU d.toNat a.toNat b.toNat (bs == 1) s

/-- VADD_D (R277). -/
def execVaddD (d : BitVec 7) (a : BitVec 7) (b : BitVec 7) (bs : BitVec 1) (s : State) : Out :=
  vec (even d && even a && even b) true .add d.toNat a.toNat b.toNat (bs == 1) s

/-- VSUB_D (R277). -/
def execVsubD (d : BitVec 7) (a : BitVec 7) (b : BitVec 7) (bs : BitVec 1) (s : State) : Out :=
  vec (even d && even a && even b) true .sub d.toNat a.toNat b.toNat (bs == 1) s

/-- VMUL_D (R277). -/
def execVmulD (d : BitVec 7) (a : BitVec 7) (b : BitVec 7) (bs : BitVec 1) (s : State) : Out :=
  vec (even d && even a && even b) true .mul d.toNat a.toNat b.toNat (bs == 1) s

/-- VMULH_D (R277). -/
def execVmulhD (d : BitVec 7) (a : BitVec 7) (b : BitVec 7) (bs : BitVec 1) (s : State) : Out :=
  vec (even d && even a && even b) true .mulh d.toNat a.toNat b.toNat (bs == 1) s

/-- VMAD_D (R277). -/
def execVmadD (d : BitVec 7) (a : BitVec 7) (b : BitVec 7) (bs : BitVec 1) (s : State) : Out :=
  vec (even d && even a && even b) true .mad d.toNat a.toNat b.toNat (bs == 1) s

/-- VAND_D (R277). -/
def execVandD (d : BitVec 7) (a : BitVec 7) (b : BitVec 7) (bs : BitVec 1) (s : State) : Out :=
  vec (even d && even a && even b) true .and d.toNat a.toNat b.toNat (bs == 1) s

/-- VOR_D (R277). -/
def execVorD (d : BitVec 7) (a : BitVec 7) (b : BitVec 7) (bs : BitVec 1) (s : State) : Out :=
  vec (even d && even a && even b) true .or d.toNat a.toNat b.toNat (bs == 1) s

/-- VXOR_D (R277). -/
def execVxorD (d : BitVec 7) (a : BitVec 7) (b : BitVec 7) (bs : BitVec 1) (s : State) : Out :=
  vec (even d && even a && even b) true .xor d.toNat a.toNat b.toNat (bs == 1) s

/-- VSHL_D (R277). -/
def execVshlD (d : BitVec 7) (a : BitVec 7) (b : BitVec 7) (bs : BitVec 1) (s : State) : Out :=
  vec (even d && even a && even b) true .shl d.toNat a.toNat b.toNat (bs == 1) s

/-- VSHR_D (R277). -/
def execVshrD (d : BitVec 7) (a : BitVec 7) (b : BitVec 7) (bs : BitVec 1) (s : State) : Out :=
  vec (even d && even a && even b) true .shr d.toNat a.toNat b.toNat (bs == 1) s

/-- VSRA_D (R277). -/
def execVsraD (d : BitVec 7) (a : BitVec 7) (b : BitVec 7) (bs : BitVec 1) (s : State) : Out :=
  vec (even d && even a && even b) true .sra d.toNat a.toNat b.toNat (bs == 1) s

/-- VMIN_D (R277). -/
def execVminD (d : BitVec 7) (a : BitVec 7) (b : BitVec 7) (bs : BitVec 1) (s : State) : Out :=
  vec (even d && even a && even b) true .min d.toNat a.toNat b.toNat (bs == 1) s

/-- VMAX_D (R277). -/
def execVmaxD (d : BitVec 7) (a : BitVec 7) (b : BitVec 7) (bs : BitVec 1) (s : State) : Out :=
  vec (even d && even a && even b) true .max d.toNat a.toNat b.toNat (bs == 1) s

/-- VSEL_D (R277). -/
def execVselD (d : BitVec 7) (a : BitVec 7) (b : BitVec 7) (bs : BitVec 1) (s : State) : Out :=
  vec (even d && even a && even b) true .sel d.toNat a.toNat b.toNat (bs == 1) s

/-- VBFX_D (R277). -/
def execVbfxD (d : BitVec 7) (a : BitVec 7) (b : BitVec 7) (bs : BitVec 1) (s : State) : Out :=
  vec (even d && even a && even b) true .bfx d.toNat a.toNat b.toNat (bs == 1) s

/-- VABS_D (R278). -/
def execVabsD (d : BitVec 7) (b : BitVec 7) (bs : BitVec 1) (s : State) : Out :=
  vec (even d && even b) true .abs d.toNat 0 b.toNat (bs == 1) s

/-- VCLZ_D (R278). -/
def execVclzD (d : BitVec 7) (b : BitVec 7) (bs : BitVec 1) (s : State) : Out :=
  vec (even d && even b) true .clz d.toNat 0 b.toNat (bs == 1) s

/-- VPOPC_D (R278). -/
def execVpopcD (d : BitVec 7) (b : BitVec 7) (bs : BitVec 1) (s : State) : Out :=
  vec (even d && even b) true .popc d.toNat 0 b.toNat (bs == 1) s

/-- VMOV_D (R278). -/
def execVmovD (d : BitVec 7) (b : BitVec 7) (bs : BitVec 1) (s : State) : Out :=
  vec (even d && even b) true .mov d.toNat 0 b.toNat (bs == 1) s

/-- VBCST_D (R280). -/
def execVbcstD (d : BitVec 7) (a : BitVec 7) (b : BitVec 7) (s : State) : Out :=
  vecBcst (even d && even a && even b) true d.toNat a.toNat b.toNat s

/-- VSET_EQ_D (R278). -/
def execVsetEqD (d : BitVec 7) (a : BitVec 7) (b : BitVec 7) (bs : BitVec 1) (s : State) : Out :=
  vecSet (kdst d && even a && even b) true .eq d.toNat a.toNat b.toNat (bs == 1) s

/-- VSET_NE_D (R278). -/
def execVsetNeD (d : BitVec 7) (a : BitVec 7) (b : BitVec 7) (bs : BitVec 1) (s : State) : Out :=
  vecSet (kdst d && even a && even b) true .ne d.toNat a.toNat b.toNat (bs == 1) s

/-- VSET_LT_D (R278). -/
def execVsetLtD (d : BitVec 7) (a : BitVec 7) (b : BitVec 7) (bs : BitVec 1) (s : State) : Out :=
  vecSet (kdst d && even a && even b) true .lt d.toNat a.toNat b.toNat (bs == 1) s

/-- VSET_LE_D (R278). -/
def execVsetLeD (d : BitVec 7) (a : BitVec 7) (b : BitVec 7) (bs : BitVec 1) (s : State) : Out :=
  vecSet (kdst d && even a && even b) true .le d.toNat a.toNat b.toNat (bs == 1) s

/-- VSET_LT_U_D (R278). -/
def execVsetLtUD (d : BitVec 7) (a : BitVec 7) (b : BitVec 7) (bs : BitVec 1) (s : State) : Out :=
  vecSet (kdst d && even a && even b) true .ltU d.toNat a.toNat b.toNat (bs == 1) s

/-- VSET_LE_U_D (R278). -/
def execVsetLeUD (d : BitVec 7) (a : BitVec 7) (b : BitVec 7) (bs : BitVec 1) (s : State) : Out :=
  vecSet (kdst d && even a && even b) true .leU d.toNat a.toNat b.toNat (bs == 1) s

/-- VMULH_U_D (R278). -/
def execVmulhUD (d : BitVec 7) (a : BitVec 7) (b : BitVec 7) (bs : BitVec 1) (s : State) : Out :=
  vec (even d && even a && even b) true .mulhU d.toNat a.toNat b.toNat (bs == 1) s

/-- VMIN_U_D (R278). -/
def execVminUD (d : BitVec 7) (a : BitVec 7) (b : BitVec 7) (bs : BitVec 1) (s : State) : Out :=
  vec (even d && even a && even b) true .minU d.toNat a.toNat b.toNat (bs == 1) s

/-- VMAX_U_D (R278). -/
def execVmaxUD (d : BitVec 7) (a : BitVec 7) (b : BitVec 7) (bs : BitVec 1) (s : State) : Out :=
  vec (even d && even a && even b) true .maxU d.toNat a.toNat b.toNat (bs == 1) s

/-- VADD_IMM (R281). -/
def execVaddImm (d : BitVec 7) (a : BitVec 7) (im : BitVec 12) (s : State) : Out :=
  vecImm true .add d.toNat a.toNat im s

/-- VAND_IMM (R281). -/
def execVandImm (d : BitVec 7) (a : BitVec 7) (im : BitVec 12) (s : State) : Out :=
  vecImm true .and d.toNat a.toNat im s

/-- VSHL_IMM (R281). -/
def execVshlImm (d : BitVec 7) (a : BitVec 7) (n : BitVec 5) (s : State) : Out :=
  vecShift true .shl d.toNat a.toNat n s

/-- VSHR_IMM (R281). -/
def execVshrImm (d : BitVec 7) (a : BitVec 7) (n : BitVec 5) (s : State) : Out :=
  vecShift true .shr d.toNat a.toNat n s

/-- VSRA_IMM (R281). -/
def execVsraImm (d : BitVec 7) (a : BitVec 7) (n : BitVec 5) (s : State) : Out :=
  vecShift true .sra d.toNat a.toNat n s

/-- VMOV_IMM (R281). -/
def execVmovImm (d : BitVec 7) (im : BitVec 12) (s : State) : Out :=
  vecImm true .mov d.toNat 0 im s

end Sys2Proof.Machine
end

