-- ==== Sys2Proof/Machine/Dispatch.lean ====
section
/-! DEFINITION. One arm for each instruction and event. -/

namespace Sys2Proof.Machine

def exec (i : Instr) (s : State) : Host.Outcome State Fault Refusal :=
  match i with
  | .sadd d a b => Sys2Proof.Machine.execSadd d a b s
  | .ssub d a b => Sys2Proof.Machine.execSsub d a b s
  | .smul d a b => Sys2Proof.Machine.execSmul d a b s
  | .smulh d a b => Sys2Proof.Machine.execSmulh d a b s
  | .smulhU d a b => Sys2Proof.Machine.execSmulhU d a b s
  | .sdiv d a b => Sys2Proof.Machine.execSdiv d a b s
  | .sdivU d a b => Sys2Proof.Machine.execSdivU d a b s
  | .sand d a b => Sys2Proof.Machine.execSand d a b s
  | .sor d a b => Sys2Proof.Machine.execSor d a b s
  | .sxor d a b => Sys2Proof.Machine.execSxor d a b s
  | .sandn d a b => Sys2Proof.Machine.execSandn d a b s
  | .sshl d a b => Sys2Proof.Machine.execSshl d a b s
  | .sshr d a b => Sys2Proof.Machine.execSshr d a b s
  | .ssra d a b => Sys2Proof.Machine.execSsra d a b s
  | .smin d a b => Sys2Proof.Machine.execSmin d a b s
  | .sminU d a b => Sys2Proof.Machine.execSminU d a b s
  | .smax d a b => Sys2Proof.Machine.execSmax d a b s
  | .smaxU d a b => Sys2Proof.Machine.execSmaxU d a b s
  | .ssetEq d a b => Sys2Proof.Machine.execSsetEq d a b s
  | .ssetNe d a b => Sys2Proof.Machine.execSsetNe d a b s
  | .ssetLt d a b => Sys2Proof.Machine.execSsetLt d a b s
  | .ssetLe d a b => Sys2Proof.Machine.execSsetLe d a b s
  | .ssetLtU d a b => Sys2Proof.Machine.execSsetLtU d a b s
  | .ssetLeU d a b => Sys2Proof.Machine.execSsetLeU d a b s
  | .ssel d a b => Sys2Proof.Machine.execSsel d a b s
  | .smov d b => Sys2Proof.Machine.execSmov d b s
  | .sclz d b => Sys2Proof.Machine.execSclz d b s
  | .spopc d b => Sys2Proof.Machine.execSpopc d b s
  | .sbfx d a b => Sys2Proof.Machine.execSbfx d a b s
  | .sbfi d a b => Sys2Proof.Machine.execSbfi d a b s
  | .saddQ d a b => Sys2Proof.Machine.execSaddQ d a b s
  | .ssubQ d a b => Sys2Proof.Machine.execSsubQ d a b s
  | .smulQ d a b => Sys2Proof.Machine.execSmulQ d a b s
  | .smulhQ d a b => Sys2Proof.Machine.execSmulhQ d a b s
  | .smulhUQ d a b => Sys2Proof.Machine.execSmulhUQ d a b s
  | .sdivQ d a b => Sys2Proof.Machine.execSdivQ d a b s
  | .sdivUQ d a b => Sys2Proof.Machine.execSdivUQ d a b s
  | .sandQ d a b => Sys2Proof.Machine.execSandQ d a b s
  | .sorQ d a b => Sys2Proof.Machine.execSorQ d a b s
  | .sxorQ d a b => Sys2Proof.Machine.execSxorQ d a b s
  | .sandnQ d a b => Sys2Proof.Machine.execSandnQ d a b s
  | .sshlQ d a b => Sys2Proof.Machine.execSshlQ d a b s
  | .sshrQ d a b => Sys2Proof.Machine.execSshrQ d a b s
  | .ssraQ d a b => Sys2Proof.Machine.execSsraQ d a b s
  | .sminQ d a b => Sys2Proof.Machine.execSminQ d a b s
  | .sminUQ d a b => Sys2Proof.Machine.execSminUQ d a b s
  | .smaxQ d a b => Sys2Proof.Machine.execSmaxQ d a b s
  | .smaxUQ d a b => Sys2Proof.Machine.execSmaxUQ d a b s
  | .ssetEqQ d a b => Sys2Proof.Machine.execSsetEqQ d a b s
  | .ssetNeQ d a b => Sys2Proof.Machine.execSsetNeQ d a b s
  | .ssetLtQ d a b => Sys2Proof.Machine.execSsetLtQ d a b s
  | .ssetLeQ d a b => Sys2Proof.Machine.execSsetLeQ d a b s
  | .ssetLtUQ d a b => Sys2Proof.Machine.execSsetLtUQ d a b s
  | .ssetLeUQ d a b => Sys2Proof.Machine.execSsetLeUQ d a b s
  | .sselQ d a b => Sys2Proof.Machine.execSselQ d a b s
  | .smovQ d b => Sys2Proof.Machine.execSmovQ d b s
  | .sclzQ d b => Sys2Proof.Machine.execSclzQ d b s
  | .spopcQ d b => Sys2Proof.Machine.execSpopcQ d b s
  | .sbfxQ d a b => Sys2Proof.Machine.execSbfxQ d a b s
  | .sbfiQ d a b => Sys2Proof.Machine.execSbfiQ d a b s
  | .simm d im => Sys2Proof.Machine.execSimm d im s
  | .saddImm d a im => Sys2Proof.Machine.execSaddImm d a im s
  | .sandImm d a im => Sys2Proof.Machine.execSandImm d a im s
  | .sorImm d a im => Sys2Proof.Machine.execSorImm d a im s
  | .sxorImm d a im => Sys2Proof.Machine.execSxorImm d a im s
  | .sshlImm d a n => Sys2Proof.Machine.execSshlImm d a n s
  | .sshrImm d a n => Sys2Proof.Machine.execSshrImm d a n s
  | .ssraImm d a n => Sys2Proof.Machine.execSsraImm d a n s
  | .kand d a b => Sys2Proof.Machine.execKand d a b s
  | .kor d a b => Sys2Proof.Machine.execKor d a b s
  | .kxor d a b => Sys2Proof.Machine.execKxor d a b s
  | .kandn d a b => Sys2Proof.Machine.execKandn d a b s
  | .kmov d a => Sys2Proof.Machine.execKmov d a s
  | .kmovFromQ d a => Sys2Proof.Machine.execKmovFromQ d a s
  | .kmovToQ d a => Sys2Proof.Machine.execKmovToQ d a s
  | .kpopc d a => Sys2Proof.Machine.execKpopc d a s
  | .kfirst d a => Sys2Proof.Machine.execKfirst d a s
  | .br c k d => Sys2Proof.Machine.execBr c k d s
  | .brd r k d => Sys2Proof.Machine.execBrd r k d s
  | .call d => Sys2Proof.Machine.execCall d s
  | .loop k d => Sys2Proof.Machine.execLoop k d s
  | .join a => Sys2Proof.Machine.execJoin a s
  | .calli a => Sys2Proof.Machine.execCalli a s
  | .ret => Sys2Proof.Machine.execRet s
  | .jmpi a => Sys2Proof.Machine.execJmpi a s
  | .lexit => Sys2Proof.Machine.execLexit s
  | .exit => Sys2Proof.Machine.execExit s
  | .yield => Sys2Proof.Machine.execYield s
  | .nop => Sys2Proof.Machine.execNop s
  | .waitc a p => Sys2Proof.Machine.execWaitc a p s
  | .bar bs => Sys2Proof.Machine.execBar bs s
  | .launch d a => Sys2Proof.Machine.execLaunch d a s
  | .launchQueueEntry w sp => Sys2Proof.Machine.execLaunchQueueEntry w sp s
  | .qcap d a => Sys2Proof.Machine.execQcap d a s
  | .srd d bs => Sys2Proof.Machine.execSrd d bs s
  | .trap n => Sys2Proof.Machine.execTrap n s
  | .trapBind n => Sys2Proof.Machine.execTrapBind n s
  | .bkpt n => Sys2Proof.Machine.execBkpt n s
  | .vadd d a b bs => Sys2Proof.Machine.execVadd d a b bs s
  | .vsub d a b bs => Sys2Proof.Machine.execVsub d a b bs s
  | .vmul d a b bs => Sys2Proof.Machine.execVmul d a b bs s
  | .vmulh d a b bs => Sys2Proof.Machine.execVmulh d a b bs s
  | .vmad d a b bs => Sys2Proof.Machine.execVmad d a b bs s
  | .vand d a b bs => Sys2Proof.Machine.execVand d a b bs s
  | .vor d a b bs => Sys2Proof.Machine.execVor d a b bs s
  | .vxor d a b bs => Sys2Proof.Machine.execVxor d a b bs s
  | .vshl d a b bs => Sys2Proof.Machine.execVshl d a b bs s
  | .vshr d a b bs => Sys2Proof.Machine.execVshr d a b bs s
  | .vsra d a b bs => Sys2Proof.Machine.execVsra d a b bs s
  | .vmin d a b bs => Sys2Proof.Machine.execVmin d a b bs s
  | .vmax d a b bs => Sys2Proof.Machine.execVmax d a b bs s
  | .vsel d a b bs => Sys2Proof.Machine.execVsel d a b bs s
  | .vbfx d a b bs => Sys2Proof.Machine.execVbfx d a b bs s
  | .vabs d b bs => Sys2Proof.Machine.execVabs d b bs s
  | .vclz d b bs => Sys2Proof.Machine.execVclz d b bs s
  | .vpopc d b bs => Sys2Proof.Machine.execVpopc d b bs s
  | .vmov d b bs => Sys2Proof.Machine.execVmov d b bs s
  | .vbcst d a b => Sys2Proof.Machine.execVbcst d a b s
  | .vsetEq d a b bs => Sys2Proof.Machine.execVsetEq d a b bs s
  | .vsetNe d a b bs => Sys2Proof.Machine.execVsetNe d a b bs s
  | .vsetLt d a b bs => Sys2Proof.Machine.execVsetLt d a b bs s
  | .vsetLe d a b bs => Sys2Proof.Machine.execVsetLe d a b bs s
  | .vsetLtU d a b bs => Sys2Proof.Machine.execVsetLtU d a b bs s
  | .vsetLeU d a b bs => Sys2Proof.Machine.execVsetLeU d a b bs s
  | .vmulhU d a b bs => Sys2Proof.Machine.execVmulhU d a b bs s
  | .vminU d a b bs => Sys2Proof.Machine.execVminU d a b bs s
  | .vmaxU d a b bs => Sys2Proof.Machine.execVmaxU d a b bs s
  | .vaddD d a b bs => Sys2Proof.Machine.execVaddD d a b bs s
  | .vsubD d a b bs => Sys2Proof.Machine.execVsubD d a b bs s
  | .vmulD d a b bs => Sys2Proof.Machine.execVmulD d a b bs s
  | .vmulhD d a b bs => Sys2Proof.Machine.execVmulhD d a b bs s
  | .vmadD d a b bs => Sys2Proof.Machine.execVmadD d a b bs s
  | .vandD d a b bs => Sys2Proof.Machine.execVandD d a b bs s
  | .vorD d a b bs => Sys2Proof.Machine.execVorD d a b bs s
  | .vxorD d a b bs => Sys2Proof.Machine.execVxorD d a b bs s
  | .vshlD d a b bs => Sys2Proof.Machine.execVshlD d a b bs s
  | .vshrD d a b bs => Sys2Proof.Machine.execVshrD d a b bs s
  | .vsraD d a b bs => Sys2Proof.Machine.execVsraD d a b bs s
  | .vminD d a b bs => Sys2Proof.Machine.execVminD d a b bs s
  | .vmaxD d a b bs => Sys2Proof.Machine.execVmaxD d a b bs s
  | .vselD d a b bs => Sys2Proof.Machine.execVselD d a b bs s
  | .vbfxD d a b bs => Sys2Proof.Machine.execVbfxD d a b bs s
  | .vabsD d b bs => Sys2Proof.Machine.execVabsD d b bs s
  | .vclzD d b bs => Sys2Proof.Machine.execVclzD d b bs s
  | .vpopcD d b bs => Sys2Proof.Machine.execVpopcD d b bs s
  | .vmovD d b bs => Sys2Proof.Machine.execVmovD d b bs s
  | .vbcstD d a b => Sys2Proof.Machine.execVbcstD d a b s
  | .vsetEqD d a b bs => Sys2Proof.Machine.execVsetEqD d a b bs s
  | .vsetNeD d a b bs => Sys2Proof.Machine.execVsetNeD d a b bs s
  | .vsetLtD d a b bs => Sys2Proof.Machine.execVsetLtD d a b bs s
  | .vsetLeD d a b bs => Sys2Proof.Machine.execVsetLeD d a b bs s
  | .vsetLtUD d a b bs => Sys2Proof.Machine.execVsetLtUD d a b bs s
  | .vsetLeUD d a b bs => Sys2Proof.Machine.execVsetLeUD d a b bs s
  | .vmulhUD d a b bs => Sys2Proof.Machine.execVmulhUD d a b bs s
  | .vminUD d a b bs => Sys2Proof.Machine.execVminUD d a b bs s
  | .vmaxUD d a b bs => Sys2Proof.Machine.execVmaxUD d a b bs s
  | .vfadd d a b bs => Sys2Proof.Machine.execVfadd d a b bs s
  | .vfsub d a b bs => Sys2Proof.Machine.execVfsub d a b bs s
  | .vfmul d a b bs => Sys2Proof.Machine.execVfmul d a b bs s
  | .vfma d a b bs => Sys2Proof.Machine.execVfma d a b bs s
  | .vfmin d a b bs => Sys2Proof.Machine.execVfmin d a b bs s
  | .vfmax d a b bs => Sys2Proof.Machine.execVfmax d a b bs s
  | .vfsetEq d a b bs => Sys2Proof.Machine.execVfsetEq d a b bs s
  | .vfsetLt d a b bs => Sys2Proof.Machine.execVfsetLt d a b bs s
  | .vfsetLe d a b bs => Sys2Proof.Machine.execVfsetLe d a b bs s
  | .vfsetUn d a b bs => Sys2Proof.Machine.execVfsetUn d a b bs s
  | .vfcls d b bs => Sys2Proof.Machine.execVfcls d b bs s
  | .vrcp d b bs => Sys2Proof.Machine.execVrcp d b bs s
  | .vrsq d b bs => Sys2Proof.Machine.execVrsq d b bs s
  | .vsqrt d b bs => Sys2Proof.Machine.execVsqrt d b bs s
  | .vexp2 d b bs => Sys2Proof.Machine.execVexp2 d b bs s
  | .vlog2 d b bs => Sys2Proof.Machine.execVlog2 d b bs s
  | .vfaddD d a b bs => Sys2Proof.Machine.execVfaddD d a b bs s
  | .vfsubD d a b bs => Sys2Proof.Machine.execVfsubD d a b bs s
  | .vfmulD d a b bs => Sys2Proof.Machine.execVfmulD d a b bs s
  | .vfmaD d a b bs => Sys2Proof.Machine.execVfmaD d a b bs s
  | .vfminD d a b bs => Sys2Proof.Machine.execVfminD d a b bs s
  | .vfmaxD d a b bs => Sys2Proof.Machine.execVfmaxD d a b bs s
  | .vfsetEqD d a b bs => Sys2Proof.Machine.execVfsetEqD d a b bs s
  | .vfsetLtD d a b bs => Sys2Proof.Machine.execVfsetLtD d a b bs s
  | .vfsetLeD d a b bs => Sys2Proof.Machine.execVfsetLeD d a b bs s
  | .vfsetUnD d a b bs => Sys2Proof.Machine.execVfsetUnD d a b bs s
  | .vfclsD d b bs => Sys2Proof.Machine.execVfclsD d b bs s
  | .vrcpD d b bs => Sys2Proof.Machine.execVrcpD d b bs s
  | .vrsqD d b bs => Sys2Proof.Machine.execVrsqD d b bs s
  | .vsqrtD d b bs => Sys2Proof.Machine.execVsqrtD d b bs s
  | .vexp2D d b bs => Sys2Proof.Machine.execVexp2D d b bs s
  | .vlog2D d b bs => Sys2Proof.Machine.execVlog2D d b bs s
  | .vcvt d a t im bs => Sys2Proof.Machine.execVcvt d a t im bs s
  | .vqmx d a => Sys2Proof.Machine.execVqmx d a s
  | .vdqmx d a bs => Sys2Proof.Machine.execVdqmx d a bs s
  | .vcbd d a bs => Sys2Proof.Machine.execVcbd d a bs s
  | .vperm d a b bs => Sys2Proof.Machine.execVperm d a b bs s
  | .vshfl d a b bs => Sys2Proof.Machine.execVshfl d a b bs s
  | .vred d a => Sys2Proof.Machine.execVred d a s
  | .vscan d a => Sys2Proof.Machine.execVscan d a s
  | .vsort d a b bs => Sys2Proof.Machine.execVsort d a b bs s
  | .vtopk d a b => Sys2Proof.Machine.execVtopk d a b s
  | .vrand d a b => Sys2Proof.Machine.execVrand d a b s
  | .gori2 d a b bs => Sys2Proof.Machine.execGori2 d a b bs s
  | .gori3 d a b bs => Sys2Proof.Machine.execGori3 d a b bs s
  | .ginc d a b bs => Sys2Proof.Machine.execGinc d a b bs s
  | .gins d a b bs => Sys2Proof.Machine.execGins d a b bs s
  | .gsegx d a b bs => Sys2Proof.Machine.execGsegx d a b bs s
  | .vaddImm d a im => Sys2Proof.Machine.execVaddImm d a im s
  | .vandImm d a im => Sys2Proof.Machine.execVandImm d a im s
  | .vshlImm d a n => Sys2Proof.Machine.execVshlImm d a n s
  | .vshrImm d a n => Sys2Proof.Machine.execVshrImm d a n s
  | .vsraImm d a n => Sys2Proof.Machine.execVsraImm d a n s
  | .vmovImm d im => Sys2Proof.Machine.execVmovImm d im s
  | .ldB d t vo im => Sys2Proof.Machine.execLdB d t vo im s
  | .ldSb d t vo im => Sys2Proof.Machine.execLdSb d t vo im s
  | .ldH d t vo im => Sys2Proof.Machine.execLdH d t vo im s
  | .ldSh d t vo im => Sys2Proof.Machine.execLdSh d t vo im s
  | .ldW d t vo im => Sys2Proof.Machine.execLdW d t vo im s
  | .ldD d t vo im => Sys2Proof.Machine.execLdD d t vo im s
  | .ldQ d t vo im => Sys2Proof.Machine.execLdQ d t vo im s
  | .ldPrvB d vo im => Sys2Proof.Machine.execLdPrvB d vo im s
  | .ldPrvSb d vo im => Sys2Proof.Machine.execLdPrvSb d vo im s
  | .ldPrvH d vo im => Sys2Proof.Machine.execLdPrvH d vo im s
  | .ldPrvSh d vo im => Sys2Proof.Machine.execLdPrvSh d vo im s
  | .ldPrvW d vo im => Sys2Proof.Machine.execLdPrvW d vo im s
  | .ldPrvD d vo im => Sys2Proof.Machine.execLdPrvD d vo im s
  | .stB d t vo im => Sys2Proof.Machine.execStB d t vo im s
  | .stH d t vo im => Sys2Proof.Machine.execStH d t vo im s
  | .stW d t vo im => Sys2Proof.Machine.execStW d t vo im s
  | .stD d t vo im => Sys2Proof.Machine.execStD d t vo im s
  | .stQ d t vo im => Sys2Proof.Machine.execStQ d t vo im s
  | .stPrvB d vo im => Sys2Proof.Machine.execStPrvB d vo im s
  | .stPrvH d vo im => Sys2Proof.Machine.execStPrvH d vo im s
  | .stPrvW d vo im => Sys2Proof.Machine.execStPrvW d vo im s
  | .stPrvD d vo im => Sys2Proof.Machine.execStPrvD d vo im s
  | .ldl u z d vo im => Sys2Proof.Machine.execLdl u z d vo im s
  | .stl u z d vo im => Sys2Proof.Machine.execStl u z d vo im s
  | .atomAdd d t vo im => Sys2Proof.Machine.execAtomAdd d t vo im s
  | .atomAnd d t vo im => Sys2Proof.Machine.execAtomAnd d t vo im s
  | .atomOr d t vo im => Sys2Proof.Machine.execAtomOr d t vo im s
  | .atomXor d t vo im => Sys2Proof.Machine.execAtomXor d t vo im s
  | .atomMin d t vo im => Sys2Proof.Machine.execAtomMin d t vo im s
  | .atomMax d t vo im => Sys2Proof.Machine.execAtomMax d t vo im s
  | .atomMinU d t vo im => Sys2Proof.Machine.execAtomMinU d t vo im s
  | .atomMaxU d t vo im => Sys2Proof.Machine.execAtomMaxU d t vo im s
  | .atomExch d t vo im => Sys2Proof.Machine.execAtomExch d t vo im s
  | .atomAddD d t vo im => Sys2Proof.Machine.execAtomAddD d t vo im s
  | .atomExchD d t vo im => Sys2Proof.Machine.execAtomExchD d t vo im s
  | .atomFadd d t vo im => Sys2Proof.Machine.execAtomFadd d t vo im s
  | .atomAddPosted d t vo im => Sys2Proof.Machine.execAtomAddPosted d t vo im s
  | .atomAndPosted d t vo im => Sys2Proof.Machine.execAtomAndPosted d t vo im s
  | .atomOrPosted d t vo im => Sys2Proof.Machine.execAtomOrPosted d t vo im s
  | .atomXorPosted d t vo im => Sys2Proof.Machine.execAtomXorPosted d t vo im s
  | .atomMinPosted d t vo im => Sys2Proof.Machine.execAtomMinPosted d t vo im s
  | .atomMaxPosted d t vo im => Sys2Proof.Machine.execAtomMaxPosted d t vo im s
  | .atomMinUPosted d t vo im => Sys2Proof.Machine.execAtomMinUPosted d t vo im s
  | .atomMaxUPosted d t vo im => Sys2Proof.Machine.execAtomMaxUPosted d t vo im s
  | .atomExchPosted d t vo im => Sys2Proof.Machine.execAtomExchPosted d t vo im s
  | .atomAddDPosted d t vo im => Sys2Proof.Machine.execAtomAddDPosted d t vo im s
  | .atomExchDPosted d t vo im => Sys2Proof.Machine.execAtomExchDPosted d t vo im s
  | .atomFaddPosted d t vo im => Sys2Proof.Machine.execAtomFaddPosted d t vo im s
  | .casW d t vo im => Sys2Proof.Machine.execCasW d t vo im s
  | .casD d t vo im => Sys2Proof.Machine.execCasD d t vo im s
  | .casQ d t vo im => Sys2Proof.Machine.execCasQ d t vo im s
  | .fence k bs => Sys2Proof.Machine.execFence k bs s
  | .cwb a b => Sys2Proof.Machine.execCwb a b s
  | .cinvD a b => Sys2Proof.Machine.execCinvD a b s
  | .cinvI a b => Sys2Proof.Machine.execCinvI a b s
  | .prefL2 a b => Sys2Proof.Machine.execPrefL2 a b s
  | .prefL1 a b => Sys2Proof.Machine.execPrefL1 a b s
  | .xlate t a b => Sys2Proof.Machine.execXlate t a b s
  | .xdrop t => Sys2Proof.Machine.execXdrop t s
  | .sems a b => Sys2Proof.Machine.execSems a b s
  | .semw a b => Sys2Proof.Machine.execSemw a b s
  | .semwSatisfied w sp => Sys2Proof.Machine.execSemwSatisfied w sp s
  | .migrate a => Sys2Proof.Machine.execMigrate a s
  | .migrateShip w => Sys2Proof.Machine.execMigrateShip w s
  | .ldtW d t vo im => Sys2Proof.Machine.execLdtW d t vo im s
  | .ldtD d t vo im => Sys2Proof.Machine.execLdtD d t vo im s
  | .ldtQ d t vo im => Sys2Proof.Machine.execLdtQ d t vo im s
  | .sttW d t vo im => Sys2Proof.Machine.execSttW d t vo im s
  | .sttD d t vo im => Sys2Proof.Machine.execSttD d t vo im s
  | .sttQ d t vo im => Sys2Proof.Machine.execSttQ d t vo im s
  | .tcopy d t im => Sys2Proof.Machine.execTcopy d t im s
  | .tcopyGath d t vo im => Sys2Proof.Machine.execTcopyGath d t vo im s
  | .tcopyScat d t vo im => Sys2Proof.Machine.execTcopyScat d t vo im s
  | .seal h q bs => Sys2Proof.Machine.execSeal h q bs s
  | .hfree h => Sys2Proof.Machine.execHfree h s
  | .mma h v c r => Sys2Proof.Machine.execMma h v c r s
  | .mloop h bs c => Sys2Proof.Machine.execMloop h bs c s
  | .mrdy v => Sys2Proof.Machine.execMrdy v s
  | .jointIssuePairing w => Sys2Proof.Machine.execJointIssuePairing w s
  | .mfence bs => Sys2Proof.Machine.execMfence bs s
  | .mwait bs n => Sys2Proof.Machine.execMwait bs n s
  | .batchComplete w => Sys2Proof.Machine.execBatchComplete w s
  | .sufx h => Sys2Proof.Machine.execSufx h s
  | .attn h bs => Sys2Proof.Machine.execAttn h bs s
  | .selpg h bs => Sys2Proof.Machine.execSelpg h bs s
  | .massr q bs r c => Sys2Proof.Machine.execMassr q bs r c s
  | .dcln q bs e => Sys2Proof.Machine.execDcln q bs e s
  | .sweepRequest n die => Sys2Proof.Machine.execSweepRequest n die s
  | .tier q bs c n => Sys2Proof.Machine.execTier q bs c n s
  | .ctrc h bs => Sys2Proof.Machine.execCtrc h bs s
  | .expd h q r t => Sys2Proof.Machine.execExpd h q r t s
  | .sqgrow a b c => Sys2Proof.Machine.execSqgrow a b c s
  | .sqgrowSlotCopy n => Sys2Proof.Machine.execSqgrowSlotCopy n s
  | .sqgrowComplete n => Sys2Proof.Machine.execSqgrowComplete n s
  | .tlbinv d a b => Sys2Proof.Machine.execTlbinv d a b s
  | .tlbinvPerform n die => Sys2Proof.Machine.execTlbinvPerform n die s
  | .tlback => Sys2Proof.Machine.execTlback s
  | .tlbackComplete w sp => Sys2Proof.Machine.execTlbackComplete w sp s
  | .ctxsv d a b => Sys2Proof.Machine.execCtxsv d a b s
  | .ctxld d a => Sys2Proof.Machine.execCtxld d a s
  | .tret d a => Sys2Proof.Machine.execTret d a s
  | .srr d a => Sys2Proof.Machine.execSrr d a s
  | .srw a b => Sys2Proof.Machine.execSrw a b s
  | .preemptReq a => Sys2Proof.Machine.execPreemptReq a s
  | .preemptWait d a => Sys2Proof.Machine.execPreemptWait d a s
  | .preemptClr a => Sys2Proof.Machine.execPreemptClr a s
  | .fltqPop d => Sys2Proof.Machine.execFltqPop d s
  | .fltqRpl d a => Sys2Proof.Machine.execFltqRpl d a s
  | .fltqAcc d a => Sys2Proof.Machine.execFltqAcc d a s
  | .fltqTpop d => Sys2Proof.Machine.execFltqTpop d s
  | .claimResume w sp => Sys2Proof.Machine.execClaimResume w sp s
  | .himm im => Sys2Proof.Machine.execHimm im s
  | .hgrd n k => Sys2Proof.Machine.execHgrd n k s
  | .hstl bs => Sys2Proof.Machine.execHstl bs s
  | .hmod m vo bs r v t => Sys2Proof.Machine.execHmod m vo bs r v t s
  | .hfe t => Sys2Proof.Machine.execHfe t s
  | .hfil f v => Sys2Proof.Machine.execHfil f v s
  | .hadd b a => Sys2Proof.Machine.execHadd b a s
  | .cpy na dst src len => Sys2Proof.Machine.execCpy na dst src len s
  | .cpy2 na dst src rowb rows dstr sstr => Sys2Proof.Machine.execCpy2 na dst src rowb rows dstr sstr s
  | .cgath rb iw na dst src idx count => Sys2Proof.Machine.execCgath rb iw na dst src idx count s
  | .cscat rb iw na dst src idx count => Sys2Proof.Machine.execCscat rb iw na dst src idx count s
  | .cfill psz dst pat len => Sys2Proof.Machine.execCfill psz dst pat len s
  | .cconv sf tf rm sat dst src count => Sys2Proof.Machine.execCconv sf tf rm sat dst src count s
  | .csems set sem value => Sys2Proof.Machine.execCsems set sem value s
  | .csemw sem threshold => Sys2Proof.Machine.execCsemw sem threshold s
  | .csemwSatisfied n => Sys2Proof.Machine.execCsemwSatisfied n s
  | .cloop back count => Sys2Proof.Machine.execCloop back count s
  | .cjmp target => Sys2Proof.Machine.execCjmp target s
  | .chalt => Sys2Proof.Machine.execChalt s
  | .splitPromotion w sp => Sys2Proof.Machine.execSplitPromotion w sp s
  | .multicycleResult n => Sys2Proof.Machine.execMulticycleResult n s
  | .loadComplete n => Sys2Proof.Machine.execLoadComplete n s
  | .storePerformed n => Sys2Proof.Machine.execStorePerformed n s
  | .atomicPerformed n => Sys2Proof.Machine.execAtomicPerformed n s
  | .remoteLocalComplete n => Sys2Proof.Machine.execRemoteLocalComplete n s
  | .tcopyRowLanded n => Sys2Proof.Machine.execTcopyRowLanded n s
  | .writeApply die n => Sys2Proof.Machine.execWriteApply die n s
  | .pageWalk die ctx va => Sys2Proof.Machine.execPageWalk die ctx va s
  | .faultHeldRelease die => Sys2Proof.Machine.execFaultHeldRelease die s
  | .faultReplay w => Sys2Proof.Machine.execFaultReplay w s
  | .skidStop w cyc => Sys2Proof.Machine.execSkidStop w cyc s
  | .trapDelivery g => Sys2Proof.Machine.execTrapDelivery g s
  | .forcedSave w => Sys2Proof.Machine.execForcedSave w s
  | .watchdog g => Sys2Proof.Machine.execWatchdog g s
  | .contextSave g => Sys2Proof.Machine.execContextSave g s
  | .sttArrival n die => Sys2Proof.Machine.execSttArrival n die s
  | .sttVisible n die => Sys2Proof.Machine.execSttVisible n die s
  | .tensedStoreAdmit n die => Sys2Proof.Machine.execTensedStoreAdmit n die s
  | .ldtArrival n die => Sys2Proof.Machine.execLdtArrival n die s
  | .ldtPerformed n die => Sys2Proof.Machine.execLdtPerformed n die s
  | .lateNotice n => Sys2Proof.Machine.execLateNotice n s
  | .outboundAccessAbort n => Sys2Proof.Machine.execOutboundAccessAbort n s
  | .inboundAccessTimeout n => Sys2Proof.Machine.execInboundAccessTimeout n s
  | .syncExchange die peer => Sys2Proof.Machine.execSyncExchange die peer s
  | .syncReceive die peer => Sys2Proof.Machine.execSyncReceive die peer s
  | .syncReply die peer => Sys2Proof.Machine.execSyncReply die peer s
  | .exchangeMissed die peer => Sys2Proof.Machine.execExchangeMissed die peer s
  | .flitReplay die peer => Sys2Proof.Machine.execFlitReplay die peer s
  | .scheduleInstall die peer => Sys2Proof.Machine.execScheduleInstall die peer s
  | .declensionInterval die ctx => Sys2Proof.Machine.execDeclensionInterval die ctx s
  | .recordSweep n => Sys2Proof.Machine.execRecordSweep n s
  | .frameSwap n => Sys2Proof.Machine.execFrameSwap n s
  | .readerEpochAdvance die => Sys2Proof.Machine.execReaderEpochAdvance die s
  | .oldFrameFree n => Sys2Proof.Machine.execOldFrameFree n s
  | .dispatchStep die => Sys2Proof.Machine.execDispatchStep die s
  | .workgroupRetire g => Sys2Proof.Machine.execWorkgroupRetire g s
  | .gridComplete g => Sys2Proof.Machine.execGridComplete g s
  | .gridPromotion g => Sys2Proof.Machine.execGridPromotion g s
  | .coreGate c => Sys2Proof.Machine.execCoreGate c s
  | .hbmSelfRefresh stack ch => Sys2Proof.Machine.execHbmSelfRefresh stack ch s
  | .launchRecord q => Sys2Proof.Machine.execLaunchRecord q s
  | .streamStartRecord q => Sys2Proof.Machine.execStreamStartRecord q s
  | .waitRecord q => Sys2Proof.Machine.execWaitRecord q s
  | .waitSatisfied q => Sys2Proof.Machine.execWaitSatisfied q s
  | .signalRecord q => Sys2Proof.Machine.execSignalRecord q s
  | .signalPerform q => Sys2Proof.Machine.execSignalPerform q s
  | .nopRecord q => Sys2Proof.Machine.execNopRecord q s
  | .mrd port tag addr len => Sys2Proof.Machine.execMrd port tag addr len s
  | .mwr port addr data => Sys2Proof.Machine.execMwr port addr data s
  | .cpl port tag abort data => Sys2Proof.Machine.execCpl port tag abort data s
  | .tail port arg => Sys2Proof.Machine.execTail port arg s
  | .qctlResume port arg => Sys2Proof.Machine.execQctlResume port arg s
  | .qctlStop port arg => Sys2Proof.Machine.execQctlStop port arg s
  | .rrd port tag arg => Sys2Proof.Machine.execRrd port tag arg s
  | .rwr port arg value => Sys2Proof.Machine.execRwr port arg value s
  | .boot offset data => Sys2Proof.Machine.execBoot offset data s
  | .bootend => Sys2Proof.Machine.execBootend s
  | .powerOnReset => Sys2Proof.Machine.execPowerOnReset s
  | .cxlViral port => Sys2Proof.Machine.execCxlViral port s
  | .enumerate port base size lanes => Sys2Proof.Machine.execEnumerate port base size lanes s
  | .online port => Sys2Proof.Machine.execOnline port s
  | .evacuate port => Sys2Proof.Machine.execEvacuate port s
  | .offline port => Sys2Proof.Machine.execOffline port s
  | .test stack ch value fail => Sys2Proof.Machine.execTest stack ch value fail s
  | .apply stack ch => Sys2Proof.Machine.execApply stack ch s
  | .repair stack ch value => Sys2Proof.Machine.execRepair stack ch value s
  | .channelRelease stack ch => Sys2Proof.Machine.execChannelRelease stack ch s
  | .commit die peer => Sys2Proof.Machine.execCommit die peer s
  | .mcmd die => Sys2Proof.Machine.execMcmd die s
  | .pageMove die => Sys2Proof.Machine.execPageMove die s
  | .drain die value => Sys2Proof.Machine.execDrain die value s
  | .coreEmpty die => Sys2Proof.Machine.execCoreEmpty die s
  | .selfTestDone die pass => Sys2Proof.Machine.execSelfTestDone die pass s
  | .freeze die => Sys2Proof.Machine.execFreeze die s
  | .thaw die => Sys2Proof.Machine.execThaw die s
  | .drop die => Sys2Proof.Machine.execDrop die s
  | .elstatRetire die count => Sys2Proof.Machine.execElstatRetire die count s
  | .ctxWord0Write ctx value => Sys2Proof.Machine.execCtxWord0Write ctx value s
  | .cbmagWrite ctx index value => Sys2Proof.Machine.execCbmagWrite ctx index value s
  | .faultQueueEnable die value => Sys2Proof.Machine.execFaultQueueEnable die value s
  | .trapRingEnable die value => Sys2Proof.Machine.execTrapRingEnable die value s
  | .regWrite addr value => Sys2Proof.Machine.execRegWrite addr value s
  | .dtimeEnWrite die value => Sys2Proof.Machine.execDtimeEnWrite die value s
  | .linkControlFlit die peer => Sys2Proof.Machine.execLinkControlFlit die peer s
  | .diePowerLimit die watts => Sys2Proof.Machine.execDiePowerLimit die watts s
  | .matrixSelfTest c path => Sys2Proof.Machine.execMatrixSelfTest c path s
  | .clusterRelease die cl => Sys2Proof.Machine.execClusterRelease die cl s
  | .engineInstructionDone w sp => Sys2Proof.Machine.execEngineInstructionDone w sp s
  | .trmodeWrite stack ch value => Sys2Proof.Machine.execTrmodeWrite stack ch value s

end Sys2Proof.Machine
end

