-- ==== Sys2Proof/Machine/Select.lean ====
section
/-! DEFINITION. Which split an issue slot issues (R40 to R42), and how its clock moves. -/

namespace Sys2Proof.Machine

noncomputable section

/-- The selected split issues the word at its pc; nothing happens where it may not issue (R40). -/
def issueStep (s : State) : Host.Outcome State Fault Refusal :=
  match issueCx s with
  | none => .next s
  | some c =>
    match s.fetch c with
    | .error o => o
    | .ok (s, w) =>
      match decode w with
      | .ok i => exec i s
      | .error _ => .next (s.illegalWord c)

/-- A load that is still to be made again after a save (R96). -/
def OpKind.unmade (k : OpKind) : Bool :=
  match k with
  | .load _ _ _ _ _ _ form _ => form == 2
  | .ldt _ _ _ _ _ arrived _ _ => arrived == [64]
  | _ => false

/-- The warp has loads to make again, before which it does not issue (R96). -/
def State.unmade (s : State) (w : Nat) : Bool := s.ops.any (fun o => o.warp == w && o.kind.unmade)

/-- The split is ready (R40): what it would do now changes its warp, or stops the step. One that waits for a register, a counter or
room leaves every warp as it is. -/
def State.ready (s : State) (w sp : Nat) : Bool :=
  let t := { s with cur := .warp w sp }
  if s.unmade w then false
  else match issueCx t with
  | none => false
  | some c =>
    match t.fetch c with
    | .error _ => true
    | .ok (u, x) =>
      match decode x with
      | .error _ => true
      | .ok i =>
        match exec i u with
        | .next v => decide (v.warps ≠ u.warps)
        | _ => true

/-- A split of an issue slot with what orders it: whether it is promoted (R42), its stamp, its warp index, its entry. -/
structure Cand where
  warp  : Nat
  sp    : Nat
  late  : Bool
  stamp : Nat
  idx   : Nat
deriving DecidableEq, Repr

/-- The order of issue (R41, R42): promoted splits first, then the oldest stamp, the lower warp index, the lower entry; warps of
different workgroups that still tie go by their numbers (assumption 122). -/
def Cand.before (a b : Cand) : Bool :=
  let key := fun (c : Cand) => [b2n (!c.late), c.stamp, c.idx, c.warp, c.sp]
  decide (key a < key b)

/-- A split is promoted (R42). -/
def Split.isLate (p : Split) (now : Nat) : Bool := p.promoted || decide (p.readyFrom + 4028 ≤ now)

/-- The splits of an issue slot, in no order. -/
def State.cands (s : State) (core slot : Nat) : List Cand :=
  let now := s.slotCyc core slot
  s.warps.flatMap (fun e =>
    if e.2.core = core ∧ e.2.slot = slot then
      (List.range e.2.splits.length).filterMap (fun n =>
        let p := e.2.split n
        if p.st = .run then some ⟨e.1, n, p.isLate now, p.stamp, e.2.idx⟩ else none)
    else [])

/-- The split that an issue slot issues in this cycle, if one is ready (R41, R42). -/
def State.pick (s : State) (core slot : Nat) : Option (Nat × Nat) :=
  ((sortBy Cand.before (s.cands core slot)).find? (fun a => s.ready a.warp a.sp)).map (fun a => (a.warp, a.sp))

/-- No split of its slot goes before this one (R41, R42), and its warp has no loads to make again (R96). -/
def State.mayIssue (s : State) (w sp : Nat) : Bool :=
  match tfind s.warps w with
  | none => true
  | some x =>
    let l := s.cands x.core x.slot
    !s.unmade w && (match l.find? (fun a => a.warp == w && a.sp == sp) with
      | none => true
      | some a => !(l.any (fun b => b.before a && s.ready b.warp b.sp)))

/-- A split after its slot's clock has moved: one that is not ready starts to count anew (R42). -/
def Split.note (p : Split) (ready : Bool) (now : Nat) : Split :=
  { p with since := if ready then p.since else now, promoted := p.promoted && ready }

/-- Siblings of a trapped warp in a slot that have used up their 12 instructions or 64 cycles stop (R69). -/
def State.endSkids (s : State) (core slot : Nat) : State :=
  s.warps.foldl (fun s e =>
    match s.cxOf e.1 0 with
    | some c =>
      if c.warp.core = core ∧ c.warp.slot = slot ∧ c.inSkid = true ∧ (12 ≤ c.warp.skid ∨ 64 ≤ c.warp.skidCyc (s.clockOf c)) then
        s.skidStop c
      else s
    | none => s) s

/-- What the clock of a slot brings as it moves: the counts of R42, and the ends of skids. -/
def State.noteSlot (s : State) (core slot : Nat) : State :=
  let now := s.slotCyc core slot
  State.endSkids { s with warps := s.warps.map (fun (e : Nat × Warp) => (e.1,
    if e.2.core = core ∧ e.2.slot = slot then
      { e.2 with splits := e.2.splits.zipIdx.map (fun q => q.1.note (s.ready e.1 q.2) now) }
    else e.2)) } core slot

/-- A state reached by an issue of the split's slot, with what the moved clock brings. -/
def noted (core slot before : Nat) (o : Host.Outcome State Fault Refusal) : Host.Outcome State Fault Refusal :=
  match o with
  | .next t => .next (if t.slotCyc core slot = before then t else t.noteSlot core slot)
  | _ => o

/-- The selected split issues, where its slot issues it now (R41); nothing happens otherwise. -/
def stepIssue (s : State) : Host.Outcome State Fault Refusal :=
  match s.cur with
  | .warp w sp =>
    match tfind s.warps w with
    | some x => if s.mayIssue w sp then noted x.core x.slot (s.slotCyc x.core x.slot) (issueStep s) else .next s
    | none => .next s
  | _ => .next s

/-- The slot cycles that may pass at once: up to the end of a stall (R396) or of a skid's 64 cycles (R69). -/
def State.clockRoom (s : State) (core slot n : Nat) : Nat :=
  let now := s.slotCyc core slot
  let mine := (s.warps.filter (fun e => e.2.core == core && e.2.slot == slot)).map (fun e => e.2)
  let ends := mine.flatMap (fun x =>
    (x.splits.map (fun p => p.stall)) ++ (match x.life, x.haltAt with | .running, some h => [h + 64] | _, _ => []))
  (ends.filter (fun e => decide (now < e))).foldl (fun m e => min m (e - now)) n

/-- Cycles of an issue slot pass in which no split of it is ready (R41). -/
def State.passCycles (s : State) (core slot n : Nat) : State :=
  if (s.pick core slot).isSome then s
  else
    let k := s.clockRoom core slot n
    if k = 0 then s
    else State.noteSlot { s with cyc := tset 0 s.cyc (4 * core + slot) (s.slotCyc core slot + k) } core slot

end

end Sys2Proof.Machine
end

