-- ==== Sys2Proof/Machine/Step.lean ====
section
/-! DEFINITION. One step of the module: what the agenda names, or, with nothing named, the oldest pending operation that can go
forward, and then the selected warp or stream. -/

namespace Sys2Proof.Machine

noncomputable section

/-- The selected stream executes the instruction at its pc; an invalid head word stops it (R232). Where quota is given, no more lines of a
copying instruction are written in this step (R326). -/
def stepStream (s : State) (quota : Option Nat) : Host.Outcome State Fault Refusal :=
  match streamCx s with
  | none => .next s
  | some (n, x) =>
    match s.streamFetch n x with
    | .error t => .next t
    | .ok (s, l) =>
      match decodeStream l with
      | .ok (i, _) => exec i (if x.quota = quota then s else s.setStream n (fun x => { x with quota := quota }))
      | .error _ => .next (s.stopStream n 1)

/-- The slot of the selected warp issues the split that it picks (R41); the selected stream goes on. -/
def stepCur (s : State) : Host.Outcome State Fault Refusal :=
  match s.cur with
  | .idle => .next s
  | .warp w _ =>
    match (tfind s.warps w).bind (fun x => s.pick x.core x.slot) with
    | some p => stepIssue { s with cur := .warp p.1 p.2 }
    | none => .next s
  | .stream _ => stepStream s none

/-- One choice of the environment takes place. -/
def stepAction (a : Action) (s : State) : Host.Outcome State Fault Refusal :=
  match a with
  | .issue w sp => stepIssue { s with cur := .warp w sp }
  | .stream n => stepStream { s with cur := .stream n } none
  | .streamPart n k => stepStream { s with cur := .stream n } (some k)
  | .event i => if i.rowKind = .event ∧ s.linkHolds i = false then exec i s else .next s
  | .elapse d ns => .next (s.elapse d ns)
  | .cycles core slot n => .next (s.passCycles core slot n)
  | .evict core word => .next (s.evictWord core word)
  | .lineBack d line => .next (if d < 4 then s.writeBack d (lineBytes * line) lineBytes else s)
  | .dropTlb d asid va => .next (s.dropTlb d asid va)
  | .fillTlb core ctx va => .next (s.fillL1Tlb core ctx va)
  | .dropL1Tlb core asid va => .next (s.dropL1Tlb core asid va)
  | .lineFill core line => .next (s.lineFill core line)
  | .lineDrop core line => .next (s.lineDrop core line)
  | .matrix w => .next (s.matrixStep w)
  | .request n => .next (s.askHost n)
  | .hostMem pa l => .next (if l.zipIdx.all (fun b => s.isHost (pa + b.2)) then { s with mem := memSetAll s.mem (cellsAt pa l) } else s)
  | .trainOhl => .next (if s.booted then s.reporting (fun s => { s with ohl1 := true }) else s)
  | .message port l => match messageOf port l with
    | some i => exec i s
    | none => .next (s.badMessage port l)
  | .bitError site index n => .next (s.bitError site index n)

/-- One step of the module. -/
def step (s : State) : Host.Outcome State Fault Refusal :=
  match s.agenda with
  | a :: r => stepAction a { s with agenda := r }
  | [] =>
    match finishFirst s s.ops with
    | some t => .next t
    | none => stepCur s

/-- The state with an instruction placed where step fetches its next one: a core word for a lone warp on core 2.0.0, or a
stream instruction for a lone stream of F0 (see the assumption log on how a program comes to run). -/
def State.withFetchWord (s : State) (nbits w : Nat) : State :=
  let l := toBytes (w % 2 ^ nbits) 36
  match decode (wordAt (w % 2 ^ nbits) 0), decodeStream ((List.range 9).map (wordAt (w % 2 ^ nbits))) with
  | .error _, .ok _ => s.placeStream l
  | _, _ => s.placeWarp l

end

end Sys2Proof.Machine
end

