-- ==== Sys2Proof/Safety.lean ====
section
/-! DEFINITION. What counts as a safe run, and the terms that claims use: when an instruction may execute, and the state after it
completes. -/

namespace Sys2Proof

/-- A safe step: it answers a next state, neither a fault nor a refusal. -/
def SafeStep (s : Machine.State) : Prop := ∃ t, Machine.step s = .next t

/-- A state from which k steps are safe. -/
def SafeFor : Nat → Machine.State → Prop
  | 0, _ => True
  | k + 1, s => ∃ t, Machine.step s = .next t ∧ SafeFor k t

/-- The memory keeps its canonical form. -/
def MemoryOk (s : Machine.State) : Prop := Machine.Memory.wf s.mem = true

/-- There are four dies, and every write made and not yet performed lists its bytes in order, under a number already given. -/
def PostedOk (s : Machine.State) : Prop :=
  s.dies.length = 4 ∧ ∀ p ∈ s.posted, Machine.tsorted p.bytes = true ∧ p.id < s.uid

namespace Machine

/-- The conditions under which the selected split of s executes an instruction with the issue data i normally, with its own effect:
it may issue (R40), its word and its hints are accepted (R223), its slot has the privilege (R410), its guard, sources and
destinations are full (R94), no source that it uses is poisoned (R102), no batch binds its v registers (R119), and code that a divided
call reached neither has left registers undefined nor makes the instruction leave one so (R399). -/
structure Ready (s : State) (c : Cx) (i : Issue) : Prop where
  cx : issueCx s = some c
  enc : i.enc = true
  hints : ∀ h ∈ c.split.hints, i.accepts h = true
  priv : i.priv = true → c.ctx.priv = true
  guard : ∀ n, c.guardReg = some n → c.warp.isEmpty (.k n) = false ∧ (n ≠ 0 → i.guard = true → c.warp.kPois n = false)
  srcs : ∀ l ∈ i.srcs, ∀ r ∈ l, c.warp.isEmpty r = false
  hid : ∀ r ∈ i.hidden, c.warp.isEmpty r = false
  dsts : ∀ r ∈ i.dsts, c.warp.isEmpty r = false
  clean : i.poison = 0
  free : ∀ n, RegRef.v n ∈ i.reads ∨ RegRef.v n ∈ i.dsts → c.warp.bound.getLsbD n = false
  firm : c.warp.loose = []
  undiv : c.split.div = 0 ∨ ∀ r ∈ i.dsts, r.shared = false

/-- The warp of an instruction that completes: its split at a pc with a loop stack, the group consumed, the stamp new (R41), the count
of R42 begun anew and no stall left (R396), the issue counted in the skid of a halting workgroup (R69). -/
def Cx.retire (c : Cx) (n : Nat) (loops : List LoopEnt) (pc : Nat) (x : Warp) : Warp :=
  { x with
    replay := none
    owed := []
    last := c.sp
    skid := if c.group.st = .halting then x.skid + 1 else x.skid
    splits := lset x.splits c.sp { x.split c.sp with
      pc := pc
      loops := loops
      hints := []
      stamp := n
      promoted := false
      since := n
      stall := 0 } }

/-- The state after an instruction completes: its warp changed by f, its split at the pc with the loop stack, the slot's clock one
further, and everything else as it was. -/
def State.afterAt (s : State) (c : Cx) (loops : List LoopEnt) (pc : Nat) (f : Warp → Warp) : State :=
  let n := s.slotCyc c.warp.core c.warp.slot + 1
  { s with
    cyc := tset 0 s.cyc (4 * c.warp.core + c.warp.slot) n
    warps := tput s.warps c.w (c.retire n loops pc (f c.warp)) }

/-- As afterAt, the split at the next instruction or round its innermost loops (R52). -/
def State.after (s : State) (c : Cx) (f : Warp → Warp) : State :=
  s.afterAt c (loopEnd c.split.loops c.split.pc).1 (loopEnd c.split.loops c.split.pc).2 f

/-- The state with a pending operation of the issuing split (R90, R93). -/
def State.pend (s : State) (c : Cx) (full : List RegRef) (path : Option (Path × Nat)) (kind : OpKind) : State :=
  { s with
    ops := s.ops ++ [⟨s.uid, c.w, c.sp, c.die, c.grid.ctx, c.split.first, full, path, kind, 2, c.ctx.asid⟩]
    uid := s.uid + 1 }

/-- The state after an instruction whose result takes more than one cycle (R93): its destinations empty, the writes pending. -/
def State.afterSlow (s : State) (c : Cx) (dsts : List RegRef) (w : List RegWrite) (flags : BitVec 5) : State :=
  (s.pend c dsts none (.result w flags)).after c (fun x => x.markAll true dsts)

/-- The state after an instruction that acts lane by lane: under an empty combined mask it does nothing (R217); else its result is
pending. -/
def State.afterLanes (s : State) (c : Cx) (dsts : List RegRef) (w : List RegWrite) (flags : BitVec 5) : State :=
  if c.combined = 0 then s.after c id else s.afterSlow c dsts w flags

end Machine

end Sys2Proof
end

