-- ==== Sys2Proof/Certificates/Slice0/Obligations.lean ====
section
/-! DEFINITION. The statements for the provers, in the order of the manual. -/

open Sys2Proof Sys2Proof.Machine

/-! ### Values: what rounding, arithmetic, conversion and the sums mean, over the integers -/

namespace Sys2Proof.Machine

/-- A finite value as a multiple of 2^q, for q no greater than its exponent. -/
def Num.units (x : Num) (q : Int) : Int :=
  match x with
  | .fin neg m e _ => (if neg then -1 else 1) * (m * 2 ^ (e - q).toNat : Nat)
  | _ => 0

/-- The floating-point formats of R137, and the exponent of the last place of a format's subnormals. -/
def allFmts : List Fmt := [fp64, fp32, bf16, e5m2, e4m3, e2m3, e2m1]
def Fmt.low (f : Fmt) : Int := 1 - f.bias - f.mb

/-- Bit patterns of a format. -/
def Fmt.pats (f : Fmt) : Nat := 2 ^ (f.eb + f.mb + 1)

end Sys2Proof.Machine

/-- RoundTo (R143, R144, R162) of a finite value that is not zero, against every finite value Y of the format: the result has the sign of
the value; under RNE none is nearer, and of two as near it is the one whose last bit is 0; under RZ it is the largest in magnitude that
is no larger, under RUP the least that is no less, and under RDN the greatest that is no greater, or the format's last value where
there is none. NX tells that it is not exact, UF that it is besides subnormal or zero, OF that the value lies past the last
finite one. An infinity arises past the last finite value only, and under RNE from half a last place past it on. A value of
the format, a zero, an infinity and a NaN go as the rules say; a part below the last place counts as one that is neither zero
nor half. -/
def Sys2Proof.Claim.RoundingIsNearest : Prop :=
  (∀ f ∈ allFmts, ∀ (rm : Nat) (sat neg : Bool) (m : Nat) (e : Int), rm < 4 → 0 < m →
    let r := roundTo f rm sat (.fin neg m e false)
    let q := min e f.low
    let X := (Num.fin neg m e false).units q
    let R := (f.decode r.1).units q
    let Y := fun (y : Nat) => (f.decode y).units q
    r.1 < f.pats ∧ (f.decode r.1).isNan = false ∧ (f.decode r.1).neg = neg ∧ r.2.getLsbD 0 = false ∧ r.2.getLsbD 1 = false ∧
    (∀ (s : Bool) (n : Nat) (k : Int) (more : Bool), f.decode r.1 = .fin s n k more →
      (r.2.getLsbD 4 = true ↔ X ≠ R) ∧ (r.2.getLsbD 3 = true ↔ X ≠ R ∧ n < 2 ^ f.mb) ∧ (r.2.getLsbD 2 = true → R.natAbs < X.natAbs) ∧
      ∀ y < f.pats, (f.decode y).isFinite = true →
        (r.2.getLsbD 2 = true → (Y y).natAbs ≤ R.natAbs) ∧
        (rm = 0 → (X - R).natAbs ≤ (X - Y y).natAbs ∧ ((X - R).natAbs = (X - Y y).natAbs → Y y = R ∨ r.1 % 2 = 0)) ∧
        (rm = 1 → R.natAbs ≤ X.natAbs ∧ ((Y y).natAbs ≤ X.natAbs → (Y y).natAbs ≤ R.natAbs)) ∧
        (rm = 2 → (X ≤ Y y → R ≤ Y y) ∧ (X ≤ R ∨ Y y ≤ R)) ∧
        (rm = 3 → (Y y ≤ X → Y y ≤ R) ∧ (R ≤ X ∨ R ≤ Y y))) ∧
    (∀ s, f.decode r.1 = .inf s → f.inf = true ∧ sat = false ∧ rm ≠ 1 ∧ r.2 = flagOF ||| flagNX ∧
      ∀ y < f.pats, (f.decode y).isFinite = true → (Y y).natAbs < X.natAbs) ∧
    (f.inf = true → sat = false → rm = 0 →
      ((f.decode r.1).isFinite = false ↔ (2 * f.maxM + 1) * 2 ^ (f.maxQ - q).toNat ≤ 2 * X.natAbs))) ∧
  (∀ f ∈ allFmts, ∀ (rm : Nat) (sat : Bool) (y : Nat), y < f.pats → (f.decode y).isFinite = true →
    roundTo f rm sat (f.decode y) = (y, 0)) ∧
  (∀ f ∈ allFmts, ∀ (rm : Nat) (sat neg sig : Bool) (e : Int),
    (∃ k, f.decode (roundTo f rm sat (.fin neg 0 e false)).1 = .fin neg 0 k false) ∧ (roundTo f rm sat (.fin neg 0 e false)).2 = 0 ∧
    (f.inf = true → sat = false → f.decode (roundTo f rm sat (.inf neg)).1 = .inf neg ∧ (roundTo f rm sat (.inf neg)).2 = 0) ∧
    (f.inf = false ∨ sat = true → f.decode (roundTo f rm sat (.inf neg)).1 = .fin neg f.maxM f.maxQ false ∧
      (roundTo f rm sat (.inf neg)).2 = flagIV) ∧
    (f.nan = true → f.decode (roundTo f rm sat (.nan neg sig)).1 = .nan neg false ∧
      (roundTo f rm sat (.nan neg sig)).2 = (if sig = true then flagIV else 0)) ∧
    (f.nan = false → (∃ k, f.decode (roundTo f rm sat (.nan neg sig)).1 = .fin neg 0 k false) ∧
      (roundTo f rm sat (.nan neg sig)).2 = flagIV)) ∧
  (∀ f ∈ allFmts, ∀ (rm : Nat) (sat neg : Bool) (m : Nat) (e : Int), rm < 4 → 2 ^ (f.mb + 1) ≤ m →
    roundTo f rm sat (.fin neg m e true) = roundTo f rm sat (.fin neg (2 * m + 1) (e - 1) false))

/-- What is rounded (R145, R153, R282): sums, products and fused sums of products of finite values are exact; a quotient, a square root and
its reciprocal are cut to some 100 bits or more with a note of what is left; EXP2 of a whole number and LOG2 of a power of two
are exact. -/
def Sys2Proof.Claim.ArithmeticIsExact : Prop :=
  (∀ (rm : Nat) (a b c : Bool) (i j k : Nat) (e f g t : Int),
    let x := Num.fin a i e false
    let y := Num.fin b j f false
    let z := Num.fin c k g false
    t ≤ e → t ≤ f → 2 * t ≤ g →
      (∃ u, addNum rm x y = (u, 0) ∧ u.isFinite = true ∧ u.units t = x.units t + y.units t) ∧
      (∃ u, mulNum x y = (u, 0) ∧ u.units (2 * t) = x.units t * y.units t ∧ u.neg = (a != b)) ∧
      (∃ u, fmaNum rm x y z = (u, 0) ∧ u.units (2 * t) = x.units t * y.units t + z.units (2 * t))) ∧
  (∀ (a b : Bool) (i j : Nat) (e f : Int), 0 < j →
    ∃ n k more, divNum (.fin a i e false) (.fin b j f false) = (.fin (a != b) n k more, 0) ∧ (0 < i → 2 ^ 199 ≤ n) ∧
      ∀ t, t ≤ e → t ≤ k + f →
        (if more = true then n * j * 2 ^ (k + f - t).toNat < i * 2 ^ (e - t).toNat else n * j * 2 ^ (k + f - t).toNat = i * 2 ^ (e - t).toNat) ∧
        i * 2 ^ (e - t).toNat < (n + 1) * j * 2 ^ (k + f - t).toNat) ∧
  (∀ (i : Nat) (e : Int), 0 < i →
    (∃ n k more, mathNum .sqrt (.fin false i e false) = (.fin false n k more, 0) ∧ 2 ^ 100 ≤ n ∧
      ∀ t, t ≤ e → t ≤ 2 * k →
        (if more = true then n ^ 2 * 2 ^ (2 * k - t).toNat < i * 2 ^ (e - t).toNat else n ^ 2 * 2 ^ (2 * k - t).toNat = i * 2 ^ (e - t).toNat) ∧
        i * 2 ^ (e - t).toNat < (n + 1) ^ 2 * 2 ^ (2 * k - t).toNat) ∧
    (∃ n k more, mathNum .rsq (.fin false i e false) = (.fin false n k more, 0) ∧ 2 ^ 100 ≤ n ∧ 2 * k + e ≤ 0 ∧
      (if more = true then n ^ 2 * i < 2 ^ (-(2 * k + e)).toNat else n ^ 2 * i = 2 ^ (-(2 * k + e)).toNat) ∧
      2 ^ (-(2 * k + e)).toNat < (n + 1) ^ 2 * i) ∧
    mathNum .rcp (.fin false i e false) = divNum (.fin false 1 0 false) (.fin false i e false)) ∧
  (∀ (neg : Bool) (n : Nat) (e : Int), n ≤ 100000 →
    mathNum .exp2 (.fin neg n 0 false) = (.fin false 1 (if neg = true then -n else n) false, 0) ∧
    mathNum .log2 (.fin false (2 ^ n) e false) = (.fin (decide (e + n < 0)) (e + n).natAbs 0 false, 0))

/-- The tree and the prefixes of R295 and R296: a tree over twice as many elements combines the trees over its halves, and each prefix
combines the one before it with the next element. -/
def Sys2Proof.Claim.TreesAndPrefixes : Prop :=
  (∀ (wide : Bool) (op n x : Nat) (f : Flags), redTree wide op n [x] f = (x, f)) ∧
  (∀ (wide : Bool) (op k n : Nat) (l : List Nat) (f : Flags), l.length = 2 ^ (k + 1) → k < n →
    let a := redTree wide op k (l.take (2 ^ k)) 0
    let b := redTree wide op k (l.drop (2 ^ k)) 0
    let c := redOp wide op a.1 b.1
    redTree wide op n l f = (c.1, f ||| a.2 ||| b.2 ||| c.2)) ∧
  (∀ (wide : Bool) (op x : Nat) (l : List Nat),
    let y := (scanFrom wide op x l).1
    y.length = l.length + 1 ∧ y[0]? = some x ∧
    (∀ i < l.length, y[i + 1]? = some (redOp wide op (y.getD i 0) (l.getD i 0)).1) ∧
    (scanFrom wide op x l).2 = (List.range l.length).foldl (fun f i => f ||| (redOp wide op (y.getD i 0) (l.getD i 0)).2) 0) ∧
  (∀ (wide : Bool) (a b : Nat),
    let w := if wide then 64 else 32
    let v := fun (x : Nat) => (BitVec.ofNat w x).toInt
    (redOp wide 0 a b).1 = (BitVec.ofNat w a + BitVec.ofNat w b).toNat ∧
    (redOp wide 1 a b).1 = a &&& b ∧ (redOp wide 2 a b).1 = a ||| b ∧ (redOp wide 3 a b).1 = a ^^^ b ∧
    (a < 2 ^ w → b < 2 ^ w → v (redOp wide 4 a b).1 = min (v a) (v b) ∧ v (redOp wide 5 a b).1 = max (v a) (v b)) ∧
    (redOp wide 6 a b).1 = min a b ∧ (redOp wide 7 a b).1 = max a b ∧
    redOp wide 8 a b = (let f := if wide then fp64 else fp32; roundNum f rne (addNum rne (f.decode a) (f.decode b))) ∧
    (∀ i < 8, (redOp wide i a b).2 = 0))

/-- Conversions (R149, R150), block scaling (R151, R152), the codebook (R141) and the generator (R300), over the integers: a whole number of n
bits saturates with IV, and is else the value rounded in its mode; the scale of a block is that of its largest magnitude, within its
limits; an index gives eight weights, of which an even number are negative before the offset. -/
def Sys2Proof.Claim.ConversionsAreExact : Prop :=
  -- to a whole number
  (∀ (rm n m : Nat) (neg : Bool) (e : Int), rm < 4 → (n = 8 ∨ n = 32 ∨ n = 64) → e ≤ 70 →
    let r := floatToInt rm n (.fin neg m e false)
    let q := min e 0
    let one : Int := 2 ^ (-q).toNat
    let X := (Num.fin neg m e false).units q
    let v := (BitVec.ofNat n r.1).toInt
    let lo : Int := -2 ^ (n - 1)
    let hi : Int := 2 ^ (n - 1) - 1
    r.1 < 2 ^ n ∧
    (r.2 = flagIV → (v = lo ∧ X < lo * one) ∨ (v = hi ∧ hi * one < X)) ∧
    (r.2 ≠ flagIV → r.2 = (if X = v * one then 0 else flagNX) ∧
      (rm = 0 → 2 * (X - v * one).natAbs ≤ one.natAbs ∧ (2 * (X - v * one).natAbs = one.natAbs → v % 2 = 0)) ∧
      (rm = 1 → (v * one).natAbs ≤ X.natAbs ∧ X.natAbs < (v * one).natAbs + one.natAbs ∧ 0 ≤ v * X) ∧
      (rm = 2 → X ≤ v * one ∧ v * one < X + one) ∧
      (rm = 3 → v * one ≤ X ∧ X < v * one + one)) ∧
    (lo * one ≤ X → X ≤ hi * one → r.2 ≠ flagIV)) ∧
  -- between formats
  (∀ (a b rm : Nat) (sat : Bool) (x : Nat) (f g : Fmt), fmtOf a = some f → fmtOf b = some g → x < f.pats →
    convert a b false false rm sat x = roundTo g rm sat (f.decode x) ∧
    convert a 6 false false rm sat x = floatToInt rm 8 (f.decode x) ∧ convert a 9 false false rm sat x = floatToInt rm 32 (f.decode x) ∧
    convert a 9 false true rm sat x = floatToInt rm 64 (f.decode x)) ∧
  (∀ (b rm : Nat) (sat : Bool) (g : Fmt) (wide : Bool) (x : Nat), fmtOf b = some g →
    let n := if wide then 64 else 32
    let v := (BitVec.ofNat n x).toInt
    let y := (BitVec.ofNat 8 x).toInt
    convert 9 b wide false rm sat x = roundTo g rm sat (.fin (decide (v < 0)) v.natAbs 0 false) ∧
    convert 6 b false false rm sat x = roundTo g rm sat (.fin (decide (y < 0)) y.natAbs 0 false)) ∧
  (∀ (neg : Bool) (m : Nat) (e : Int), 0 < m →
    let r := toE8m0 (.fin neg m e false)
    r.1 ≤ 254 ∧
    (∀ t, t ≤ e → t ≤ -127 →
      let one := fun (k : Nat) => 2 ^ ((k : Int) - 127 - t).toNat
      let X := m * 2 ^ (e - t).toNat
      (r.2 = 0 → X = one r.1) ∧ (r.2 = flagNX → one r.1 < X ∧ X < one (r.1 + 1)) ∧
      (r.2 = flagUF ||| flagNX → r.1 = 0 ∧ X < one 0) ∧ (r.2 = flagOF ||| flagNX → r.1 = 254 ∧ one 255 ≤ X) ∧
      (r.2 = 0 ∨ r.2 = flagNX ∨ r.2 = flagUF ||| flagNX ∨ r.2 = flagOF ||| flagNX))) ∧
  -- a block
  (∀ (code : Nat) (f : Fmt) (l : List Machine.Num), 2 ≤ code → code ≤ 5 → fmtOf code = some f →
    (∀ x ∈ l, ∃ neg m e, x = .fin neg m e false) →
    let r := mxQuant code l
    let emax : Int := if code = 3 then 15 else if code = 2 then 8 else 2
    let shifted := fun (x : Machine.Num) => match x with | .fin neg m e more => Num.fin neg m (e + 127 - r.1) more | y => y
    r.1 ≤ 254 ∧ r.2.1 = l.map (fun x => (roundTo f rne true (shifted x)).1) ∧
    r.2.2 = l.foldl (fun g x => g ||| (roundTo f rne true (shifted x)).2) 0 ∧
    ((∀ x ∈ l, x.isZero = true) → r.1 = 127) ∧
    (∀ x ∈ l, ∀ neg m e more, x = .fin neg m e more → 0 < m →
      -- no magnitude reaches the next power of two, and, above the least scale, some magnitude reaches this one
      (r.1 < 254 → ∀ t, t ≤ e → t ≤ (r.1 : Int) - 127 + emax → m * 2 ^ (e - t).toNat < 2 ^ ((r.1 : Int) - 127 + emax + 1 - t).toNat)) ∧
    ((∃ x ∈ l, x.isZero = false) → 0 < r.1 → ∃ x ∈ l, ∃ neg m e, x = .fin neg m e false ∧
      ∀ t, t ≤ e → t ≤ (r.1 : Int) - 127 + emax → 2 ^ ((r.1 : Int) - 127 + emax - t).toNat ≤ m * 2 ^ (e - t).toNat)) ∧
  -- the codebook
  (∀ (mag : Nat → Nat) (index s : Nat), s < 255 →
    let w := cb2Decode mag index s
    let row := mag (index % 256)
    let neg := fun (j : Nat) => if j < 7 then (index / 2 ^ (8 + j)) % 2 = 1
      else (((List.range 7).map (fun i => (index / 2 ^ (8 + i)) % 2)).foldl (fun n b => n + b) 0) % 2 = 1
    w.length = 8 ∧ ∀ j < 8, ∃ x, w[j]? = some x ∧ x.isFinite = true ∧
      x.units ((s : Int) - 129) = (if neg j then -(4 * (row / 4 ^ j % 4) + 2 : Int) else 4 * (row / 4 ^ j % 4) + 2) + (index / 2 ^ 15 % 2 : Nat)) ∧
  (∀ (mag : Nat → Nat) (index : Nat), cb2Decode mag index 255 = List.replicate 8 (.nan false false)) ∧
  -- the generator
  (∀ (k c : Nat),
    let z0 : BitVec 64 := BitVec.ofNat 64 k + BitVec.ofNat 64 c * 0x8F3A6C51D9E24B17
    let z1 := (z0 ^^^ (z0 >>> 31)) * 0x5B2EC7A913F6D08D
    let z2 := (z1 ^^^ (z1 >>> 27)) * 0xE1C49A376B05F2E3
    randWord k c = (z2 ^^^ (z2 >>> 33)).toNat)

/-- The determinants of R156 written out, over coordinates that are whole multiples of 2^−1074: where the determinant is not 0 its sign is
the result and the zero bit is clear; where it is 0 the zero bit is set, and the result is 0 without .ss or where two points share
an index. GSEGX without .ss is +1 just where the four orientations have opposite signs two by two (R160). -/
def Sys2Proof.Claim.DeterminantSigns : Prop :=
  ∀ (k : Pred) (pts : List (List Int)) (idx : Option (List Nat)) (D : Int) (a b c d e : List Int),
    let sign := fun (x : Int) => if x < 0 then (-1 : Int) else if x = 0 then 0 else 1
    let x := fun (p : List Int) => p.getD 0 0
    let y := fun (p : List Int) => p.getD 1 0
    let z := fun (p : List Int) => p.getD 2 0
    let ori2 := fun (a b c : List Int) => (x b - x a) * (y c - y a) - (y b - y a) * (x c - x a)
    let det3 := fun (p q r : Int × Int × Int) => p.1 * (q.2.1 * r.2.2 - q.2.2 * r.2.1) - p.2.1 * (q.1 * r.2.2 - q.2.2 * r.1)
      + p.2.2 * (q.1 * r.2.1 - q.2.1 * r.1)
    let sq2 := fun (p o : List Int) => (x p - x o) ^ 2 + (y p - y o) ^ 2
    let sq3 := fun (p o : List Int) => (x p - x o) ^ 2 + (y p - y o) ^ 2 + (z p - z o) ^ 2
    let d3 := fun (p o : List Int) => ((x p - x o, y p - y o, z p - z o) : Int × Int × Int)
    let lift := fun (p o : List Int) => ((x p - x o, y p - y o, sq2 p o) : Int × Int × Int)
    (∀ p ∈ [a, b, c, d, e], p.length = k.dim) →
    (k = .ori2 ∧ pts = [a, b, c] ∧ D = ori2 a b c ∨
      k = .ori3 ∧ pts = [a, b, c, d] ∧ D = det3 (d3 a d) (d3 b d) (d3 c d) ∨
      k = .inc ∧ pts = [a, b, c, d] ∧ D = det3 (lift a d) (lift b d) (lift c d) ∨
      k = .ins ∧ pts = [a, b, c, d, e] ∧ D = -sq3 a e * det3 (d3 b e) (d3 c e) (d3 d e) + sq3 b e * det3 (d3 a e) (d3 c e) (d3 d e)
        - sq3 c e * det3 (d3 a e) (d3 b e) (d3 d e) + sq3 d e * det3 (d3 a e) (d3 b e) (d3 c e)) →
      (geomSign k pts idx).2 = decide (D = 0) ∧ (D ≠ 0 → (geomSign k pts idx).1 = sign D) ∧
      (D = 0 → idx = none ∨ (∃ l, idx = some l ∧ ¬ l.Nodup) → (geomSign k pts idx).1 = 0)

/-- GSEGX without .ss (R158, R160) and the coordinates that it and the others read. -/
def Sys2Proof.Claim.SegmentsCross : Prop :=
  (∀ (a b c d : List Int),
    let x := fun (p : List Int) => p.getD 0 0
    let y := fun (p : List Int) => p.getD 1 0
    let o := fun (a b c : List Int) => (x b - x a) * (y c - y a) - (y b - y a) * (x c - x a)
    let opposite := fun (u v : Int) => u < 0 ∧ 0 < v ∨ 0 < u ∧ v < 0
    (∀ p ∈ [a, b, c, d], p.length = 2) →
    let r := geomSign .segx [a, b, c, d] none
    (r.1 = 1 ↔ opposite (o a b c) (o a b d) ∧ opposite (o c d a) (o c d b)) ∧ (r.1 = 1 ∨ r.1 = 0 ∨ r.1 = -1) ∧
    (r.2 = true ↔ o a b c = 0 ∨ o a b d = 0 ∨ o c d a = 0 ∨ o c d b = 0) ∧
    (r.1 = 0 → r.2 = true) ∧ (a = c ∨ a = d ∨ b = c ∨ b = d → r.1 = 0)) ∧
  (∀ x < 2 ^ 64, (fp64.decode x).isFinite = true → fp64Int x = (fp64.decode x).units (-1074))

/-- A group value (R154, R155): the exact sum of the exact products, and the accumulator takes it rounded once to FP32 by RNE. -/
def Sys2Proof.Claim.GroupSumsAreExact : Prop :=
  (∀ (l : List (Machine.Num × Machine.Num)) (t : Int), t ≤ 0 →
    (∀ p ∈ l, ∃ a i e b j f, p = (.fin a i e false, .fin b j f false) ∧ t ≤ e ∧ t ≤ f) →
    ∃ z, groupSum l = (z, 0) ∧ z.isFinite = true ∧
      z.units (2 * t) = l.foldl (fun n p => n + p.1.units t * p.2.units t) 0) ∧
  (∀ (acc : Nat) (z : Machine.Num) (g : Flags),
    let v := roundTo fp32 rne false z
    let r := roundNum fp32 rne (addNum rne (fp32.decode acc) (fp32.decode v.1))
    accGroup acc (z, g) = (r.1, g ||| v.2 ||| r.2))

/-- An element of a suffix (R351, R352): C times SCALE rounded, the bias added and rounded, and the activation of ReLU; an output row is
its elements in order in their format, and a block format has a scale for each half. -/
def Sys2Proof.Claim.SuffixElements : Prop :=
  ∀ (r : SufRec) (l : List Byte) (c : List Nat) (n w : Nat),
    let x := roundNum fp32 rne (mulNum (fp32.decode w) (fp32.decode r.scale))
    let b := roundNum fp32 rne (addNum rne (fp32.decode x.1) (fp32.decode (leAt l (64 + 4 * n) 4)))
    let y := if r.bias = true then (b.1, x.2 ||| b.2) else x
    let elems := ((List.range 64).zip c).map (fun e => r.elem l e.1 e.2)
    let size := if r.ofmt = 0 then 4 else if r.ofmt = 1 then 2 else 1
    (r.act = 0 → r.elem l n w = y) ∧
    (r.act = 1 → (r.elem l n w).2 = y.2 ∧ ((fp32.decode y.1).isNan = true → (r.elem l n w).1 = y.1) ∧
      (∀ neg m e more, fp32.decode y.1 = .fin neg m e more → (r.elem l n w).1 = if neg = false ∧ 0 < m then y.1 else 0) ∧
      (∀ neg, fp32.decode y.1 = .inf neg → (r.elem l n w).1 = if neg = true then 0 else y.1)) ∧
    (c.length = 64 → r.ofmt = 0 ∨ r.ofmt = 1 ∨ r.ofmt = 6 →
      (r.row l c).1.length = 64 * size ∧ (r.row l c).2.1 = [] ∧
      (∀ i < 64, ofBytes (((r.row l c).1.drop (size * i)).take size) =
        (convert 0 r.ofmt false false r.rm r.sat (elems.getD i (0, 0)).1).1 % 256 ^ size) ∧
      (r.row l c).2.2 = elems.foldl (fun f e => f ||| e.2 ||| (convert 0 r.ofmt false false r.rm r.sat e.1).2) 0) ∧
    (c.length = 64 → r.ofmt = 2 ∨ r.ofmt = 3 ∨ r.ofmt = 4 ∨ r.ofmt = 5 →
      (r.row l c).1.length = (if r.ofmt = 5 then 32 else 64) ∧ (r.row l c).2.1.length = 2 ∧
      ∀ h < 2,
        let half := ((elems.drop (32 * h)).take 32).map (fun e => fp32.decode e.1)
        (r.row l c).2.1[h]? = some (if half.all Num.isFinite = true then BitVec.ofNat 8 (mxQuant r.ofmt half).1 else 255) ∧
        ((r.row l c).1.drop (32 * h * (if r.ofmt = 5 then 1 else 2) / 2)).take (32 * (if r.ofmt = 5 then 1 else 2) / 2) =
          packRow r.ofmt (if half.all Num.isFinite = true then (mxQuant r.ofmt half).2.1 else List.replicate 32 0))

/-! ### Scalar and mask instructions -/

namespace Sys2Proof.Machine

/-- On word registers, the instruction i of operation op writes r to s d when it is ready, at once or, where R240 gives it more than
one cycle, as a pending result. -/
def WordGives (s : State) (c : Cx) (i : Instr) (op : AluOp) (d a b : BitVec 7) (slow : Bool) (r : Word) : Prop :=
  Ready s c (scalarIssue true false op d.toNat a.toNat b.toNat c) →
    exec i s = .next (if slow then s.afterSlow c [.s d.toNat] [.s d.toNat r false] 0
      else s.after c (fun x => x.putS d.toNat r false))

/-- As WordGives on q pairs, whose registers are even. -/
def PairGives (s : State) (c : Cx) (i : Instr) (op : AluOp) (d a b : BitVec 7) (slow : Bool) (r : DWord) : Prop :=
  even d = true → even a = true → even b = true →
  Ready s c (scalarIssue true true op d.toNat a.toNat b.toNat c) →
    exec i s = .next (if slow then
        s.afterSlow c (qref d.toNat) [.s d.toNat (r.truncate 32) false, .s (d.toNat + 1) ((r >>> 32).truncate 32) false] 0
      else s.after c (fun x => (x.putS d.toNat (r.truncate 32) false).putS (d.toNat + 1) ((r >>> 32).truncate 32) false))

end Sys2Proof.Machine

/-- Every result that R243 lists on words of 32 bits: a is s[SA], b is s[SB] or the HIMM value, and old is s[SD]. -/
def Sys2Proof.Claim.ScalarWordResults : Prop :=
  ∀ (s : State) (c : Cx) (d a b : BitVec 7),
    let A : Word := c.warp.sreg a.toNat
    let B : Word := match c.hint 0 with | some p => p.signExtend 32 | none => c.warp.sreg b.toNat
    let old : Word := c.warp.sreg d.toNat
    let n := B.toNat % 32
    WordGives s c (.sadd d a b) .add d a b false (A + B) ∧
    WordGives s c (.ssub d a b) .sub d a b false (A - B) ∧
    WordGives s c (.smul d a b) .mul d a b true (A * B) ∧
    WordGives s c (.smulh d a b) .mulh d a b true (BitVec.ofInt 32 (A.toInt * B.toInt / 2 ^ 32)) ∧
    WordGives s c (.smulhU d a b) .mulhU d a b true (BitVec.ofNat 32 (A.toNat * B.toNat / 2 ^ 32)) ∧
    WordGives s c (.sdiv d a b) .div d a b true (if B = 0 then 0 else BitVec.ofInt 32 (Int.tdiv A.toInt B.toInt)) ∧
    WordGives s c (.sdivU d a b) .divU d a b true (if B = 0 then 0 else BitVec.ofNat 32 (A.toNat / B.toNat)) ∧
    WordGives s c (.sand d a b) .and d a b false (A &&& B) ∧
    WordGives s c (.sor d a b) .or d a b false (A ||| B) ∧
    WordGives s c (.sxor d a b) .xor d a b false (A ^^^ B) ∧
    WordGives s c (.sandn d a b) .andn d a b false (A &&& ~~~B) ∧
    WordGives s c (.sshl d a b) .shl d a b false (A <<< n) ∧
    WordGives s c (.sshr d a b) .shr d a b false (A >>> n) ∧
    WordGives s c (.ssra d a b) .sra d a b false (A.sshiftRight n) ∧
    WordGives s c (.smin d a b) .min d a b false (if A.toInt < B.toInt then A else B) ∧
    WordGives s c (.sminU d a b) .minU d a b false (if A.toNat < B.toNat then A else B) ∧
    WordGives s c (.smax d a b) .max d a b false (if A.toInt < B.toInt then B else A) ∧
    WordGives s c (.smaxU d a b) .maxU d a b false (if A.toNat < B.toNat then B else A) ∧
    WordGives s c (.ssetEq d a b) (.set .eq) d a b false (if A = B then 1 else 0) ∧
    WordGives s c (.ssetNe d a b) (.set .ne) d a b false (if A = B then 0 else 1) ∧
    WordGives s c (.ssetLt d a b) (.set .lt) d a b false (if A.toInt < B.toInt then 1 else 0) ∧
    WordGives s c (.ssetLe d a b) (.set .le) d a b false (if A.toInt ≤ B.toInt then 1 else 0) ∧
    WordGives s c (.ssetLtU d a b) (.set .ltU) d a b false (if A.toNat < B.toNat then 1 else 0) ∧
    WordGives s c (.ssetLeU d a b) (.set .leU) d a b false (if A.toNat ≤ B.toNat then 1 else 0) ∧
    WordGives s c (.ssel d a b) .sel d a b false (if old = 0 then B else A) ∧
    WordGives s c (.sbfx d a b) .bfx d a b false (bfx A B) ∧
    WordGives s c (.sbfi d a b) .bfi d a b false (bfi old A B) ∧
    (Ready s c (scalarIssue true false .mov d.toNat 0 b.toNat c) →
      exec (.smov d b) s = .next (s.after c (fun x => x.putS d.toNat B (c.ihi.isNone && c.warp.sPois b.toNat)))) ∧
    WordGives s c (.sclz d b) .clz d 0 b false (BitVec.ofNat 32 (clzOf B)) ∧
    WordGives s c (.spopc d b) .popc d 0 b false (BitVec.ofNat 32 (popcount B.toNat 32))

/-- Every result that R243 lists on q pairs of 64 bits. -/
def Sys2Proof.Claim.ScalarPairResults : Prop :=
  ∀ (s : State) (c : Cx) (d a b : BitVec 7),
    let A : DWord := c.warp.qreg a.toNat
    let B : DWord := match c.hint 0 with | some p => p.signExtend 64 | none => c.warp.qreg b.toNat
    let old : DWord := c.warp.qreg d.toNat
    let n := B.toNat % 64
    PairGives s c (.saddQ d a b) .add d a b true (A + B) ∧
    PairGives s c (.ssubQ d a b) .sub d a b true (A - B) ∧
    PairGives s c (.smulQ d a b) .mul d a b true (A * B) ∧
    PairGives s c (.smulhQ d a b) .mulh d a b true (BitVec.ofInt 64 (A.toInt * B.toInt / 2 ^ 64)) ∧
    PairGives s c (.smulhUQ d a b) .mulhU d a b true (BitVec.ofNat 64 (A.toNat * B.toNat / 2 ^ 64)) ∧
    PairGives s c (.sdivQ d a b) .div d a b true (if B = 0 then 0 else BitVec.ofInt 64 (Int.tdiv A.toInt B.toInt)) ∧
    PairGives s c (.sdivUQ d a b) .divU d a b true (if B = 0 then 0 else BitVec.ofNat 64 (A.toNat / B.toNat)) ∧
    PairGives s c (.sandQ d a b) .and d a b true (A &&& B) ∧
    PairGives s c (.sorQ d a b) .or d a b true (A ||| B) ∧
    PairGives s c (.sxorQ d a b) .xor d a b true (A ^^^ B) ∧
    PairGives s c (.sandnQ d a b) .andn d a b true (A &&& ~~~B) ∧
    PairGives s c (.sshlQ d a b) .shl d a b true (A <<< n) ∧
    PairGives s c (.sshrQ d a b) .shr d a b true (A >>> n) ∧
    PairGives s c (.ssraQ d a b) .sra d a b true (A.sshiftRight n) ∧
    PairGives s c (.sminQ d a b) .min d a b true (if A.toInt < B.toInt then A else B) ∧
    PairGives s c (.sminUQ d a b) .minU d a b true (if A.toNat < B.toNat then A else B) ∧
    PairGives s c (.smaxQ d a b) .max d a b true (if A.toInt < B.toInt then B else A) ∧
    PairGives s c (.smaxUQ d a b) .maxU d a b true (if A.toNat < B.toNat then B else A) ∧
    PairGives s c (.ssetEqQ d a b) (.set .eq) d a b false (if A = B then 1 else 0) ∧
    PairGives s c (.ssetNeQ d a b) (.set .ne) d a b false (if A = B then 0 else 1) ∧
    PairGives s c (.ssetLtQ d a b) (.set .lt) d a b false (if A.toInt < B.toInt then 1 else 0) ∧
    PairGives s c (.ssetLeQ d a b) (.set .le) d a b false (if A.toInt ≤ B.toInt then 1 else 0) ∧
    PairGives s c (.ssetLtUQ d a b) (.set .ltU) d a b false (if A.toNat < B.toNat then 1 else 0) ∧
    PairGives s c (.ssetLeUQ d a b) (.set .leU) d a b false (if A.toNat ≤ B.toNat then 1 else 0) ∧
    PairGives s c (.sselQ d a b) .sel d a b false (if old = 0 then B else A) ∧
    PairGives s c (.sbfxQ d a b) .bfx d a b true (bfx A B) ∧
    PairGives s c (.sbfiQ d a b) .bfi d a b true (bfi old A B) ∧
    (even d = true → even b = true → Ready s c (scalarIssue true true .mov d.toNat 0 b.toNat c) →
      exec (.smovQ d b) s = .next (s.after c (fun x =>
        (x.putS d.toNat (B.truncate 32) (c.ihi.isNone && c.warp.sPois b.toNat)).putS (d.toNat + 1) ((B >>> 32).truncate 32)
          (c.ihi.isNone && c.warp.sPois (b.toNat + 1))))) ∧
    PairGives s c (.sclzQ d b) .clz d 0 b true (BitVec.ofNat 64 (clzOf B)) ∧
    PairGives s c (.spopcQ d b) .popc d 0 b true (BitVec.ofNat 64 (popcount B.toNat 64))

/-- Scalar register instructions: results and frame. -/
def Obligations.ScalarRegisterResults : Prop :=
  Sys2Proof.Claim.ScalarWordResults ∧ Sys2Proof.Claim.ScalarPairResults

/-- The immediate forms of R246: the 12-bit immediate is sign-extended, with an HIMM to the low 32 bits of R216's 35-bit value. -/
def Sys2Proof.Claim.ScalarImmediateResults : Prop :=
  ∀ (s : State) (c : Cx) (d a : BitVec 7) (im : BitVec 12) (n : BitVec 5),
    let A : Word := c.warp.sreg a.toNat
    let I : Word := match c.hint 0 with | some p => (p ++ im).truncate 32 | none => im.signExtend 32
    let puts := fun (r : Word) => s.after c (fun x => x.putS d.toNat r false)
    (Ready s c (once true accImm c [] [.s d.toNat]) → exec (.simm d im) s = .next (puts I)) ∧
    (Ready s c (once true accImm c [[.s a.toNat]] [.s d.toNat]) →
      exec (.saddImm d a im) s = .next (puts (A + I)) ∧
      exec (.sandImm d a im) s = .next (puts (A &&& I)) ∧
      exec (.sorImm d a im) s = .next (puts (A ||| I)) ∧
      exec (.sxorImm d a im) s = .next (puts (A ^^^ I)) ∧
      (c.ihi = none ∨ c.ihi = some 0 →
        exec (.sshlImm d a n) s = .next (puts (A <<< n.toNat)) ∧
        exec (.sshrImm d a n) s = .next (puts (A >>> n.toNat)) ∧
        exec (.ssraImm d a n) s = .next (puts (A.sshiftRight n.toNat))))

/-- The mask instructions of R247: k0 reads as the split's active mask, what is written to a k register loses the bits from W up
(R248), and a move carries poison with it (R102). -/
def Sys2Proof.Claim.MaskResults : Prop :=
  ∀ (s : State) (c : Cx) (d a b : BitVec 7),
    let A := c.k a.toNat
    let B := c.k b.toNat
    let acts := fun (src : List (List RegRef)) (dst : List RegRef) => once true Accept.none c src dst
    let moves := fun (src dst : List RegRef) => { acts [src] dst with poison := 0 }
    let puts := fun (x : Mask) (p : Bool) => s.after c (fun w =>
      { w with k := tset 0 w.k d.toNat (x &&& fullMask c.grid.w), kP := bvPut w.kP d.toNat p })
    let pois := decide (a.toNat ≠ 0) && c.warp.kPois a.toNat
    (kdst d = true → kreg a = true → kreg b = true → Ready s c (acts [[.k a.toNat], [.k b.toNat]] [.k d.toNat]) →
      exec (.kand d a b) s = .next (puts (A &&& B) false) ∧ exec (.kor d a b) s = .next (puts (A ||| B) false) ∧
      exec (.kxor d a b) s = .next (puts (A ^^^ B) false) ∧ exec (.kandn d a b) s = .next (puts (A &&& ~~~B) false)) ∧
    (kdst d = true → kreg a = true → Ready s c (moves [.k a.toNat] [.k d.toNat]) →
      exec (.kmov d a) s = .next (puts A pois)) ∧
    (kdst d = true → even a = true → Ready s c (moves (qref a.toNat) [.k d.toNat]) →
      exec (.kmovFromQ d a) s = .next (puts (c.warp.qreg a.toNat) (c.warp.sPois a.toNat || c.warp.sPois (a.toNat + 1)))) ∧
    (even d = true → kreg a = true → Ready s c (moves [.k a.toNat] (qref d.toNat)) →
      exec (.kmovToQ d a) s = .next (s.after c (fun w =>
        (w.putS d.toNat (A.truncate 32) pois).putS (d.toNat + 1) ((A >>> 32).truncate 32) pois))) ∧
    (kreg a = true → Ready s c (acts [[.k a.toNat]] [.s d.toNat]) →
      exec (.kpopc d a) s = .next (s.after c (fun w => w.putS d.toNat (BitVec.ofNat 32 (popcount A.toNat 64)) false)) ∧
      exec (.kfirst d a) s = .next (s.after c (fun w =>
        w.putS d.toNat (if A = 0 then 0xFFFFFFFF else BitVec.ofNat 32 (lowLane A)) false)))

/-- The bits of R244: SBFX takes bits POS and up of a, sign-extended on request; SBFI puts the low bits of a at POS. -/
def Sys2Proof.Claim.BitFieldBits : Prop :=
  ∀ (w : Nat) (old a b : BitVec w) (i : Nat), w = 32 ∨ w = 64 → i < w →
    let pos := b.toNat % 64
    let len := b.toNat / 64 % 128
    let f := fun (j : Nat) => decide (j < len) && decide (pos + j < w) && a.getLsbD (pos + j)
    (bfx a b).getLsbD i =
      (if b.getLsbD 13 = true ∧ 1 ≤ len ∧ len ≤ w ∧ len ≤ i then f (len - 1) else f i) ∧
    (bfi old a b).getLsbD i = (if pos ≤ i ∧ i < pos + len then a.getLsbD (i - pos) else old.getLsbD i)

/-- Scalar immediates, masks and bit fields: results and frame. -/
def Obligations.ScalarImmediateAndMaskResults : Prop :=
  Sys2Proof.Claim.ScalarImmediateResults ∧ Sys2Proof.Claim.MaskResults ∧ Sys2Proof.Claim.BitFieldBits

/-! ### Vector integer instructions -/

namespace Sys2Proof.Machine

/-- In each active lane the ready instruction i of operation op writes r to its element of v d, the result pending (R273). -/
def LaneGives (s : State) (c : Cx) (i : Instr) (op : AluOp) (d a b : BitVec 7) (bs : BitVec 1) (r : Nat → Word) : Prop :=
  Ready s c (vecIssue true false op d.toNat a.toNat b.toNat (bs == 1) c) →
    exec i s = .next (s.afterLanes c [.v d.toNat] ((lanes c.combined).map (fun l => .v d.toNat l (r l) false)) 0)

/-- As LaneGives on d pairs, whose registers are even. -/
def PairLaneGives (s : State) (c : Cx) (i : Instr) (op : AluOp) (d a b : BitVec 7) (bs : BitVec 1) (r : Nat → DWord) : Prop :=
  even d = true → even a = true → even b = true →
  Ready s c (vecIssue true true op d.toNat a.toNat b.toNat (bs == 1) c) →
    exec i s = .next (s.afterLanes c [.v d.toNat, .v (d.toNat + 1)] ((lanes c.combined).flatMap (fun l =>
      [.v d.toNat l ((r l).truncate 32) false, .v (d.toNat + 1) l ((r l >>> 32).truncate 32) false])) 0)

/-- In each active lane the ready comparison i sets the lane's bit of k d to p; the bits of the other lanes stay (R278). -/
def LaneCompares (s : State) (c : Cx) (i : Instr) (srcs : List (List RegRef)) (ok : Bool) (d : BitVec 7) (p : Nat → Prop)
    [DecidablePred p] : Prop :=
  ok = true → kdst d = true → Ready s c (perLane true (accVec noMod8 false) c srcs [.k d.toNat]) →
    exec i s = .next (s.afterLanes c [.k d.toNat]
      [.k d.toNat ((c.warp.kreg d.toNat &&& ~~~c.combined) ||| maskOf ((lanes c.combined).filter (fun l => decide (p l))))] 0)

/-- An exact integer clamped as MOD8 asks (R279): 1 is .SAT, 2 is .USAT, 0 wraps. -/
def saturated (w mod8 : Nat) (signed unsigned : Int) : BitVec w :=
  BitVec.ofInt w (if mod8 = 1 then max (-2 ^ (w - 1)) (min (2 ^ (w - 1) - 1) signed)
    else if mod8 = 2 then max 0 (min (2 ^ w - 1) unsigned) else signed)

end Sys2Proof.Machine

/-- The lane results of R277, R278 and R279 on 32-bit v registers: a is v[VA], b is v[VB] or, with BSEL, s[VB] in every lane. -/
def Sys2Proof.Claim.VectorWordResults : Prop :=
  ∀ (s : State) (c : Cx) (d a b : BitVec 7) (bs : BitVec 1),
    let A := fun (l : Nat) => c.warp.vreg a.toNat l
    let B := fun (l : Nat) => if bs = 1 then c.warp.sreg b.toNat else c.warp.vreg b.toNat l
    let old := fun (l : Nat) => c.warp.vreg d.toNat l
    let C := fun (l : Nat) => match c.hint 6 with
      | some p => if p.getLsbD 7 then c.warp.sreg (bits p.toNat 0 7) else c.warp.vreg (bits p.toNat 0 7) l
      | none => old l
    let m := c.mod8
    LaneGives s c (.vadd d a b bs) .add d a b bs (fun l => saturated 32 m ((A l).toInt + (B l).toInt) ((A l).toNat + (B l).toNat)) ∧
    LaneGives s c (.vsub d a b bs) .sub d a b bs (fun l => saturated 32 m ((A l).toInt - (B l).toInt) ((A l).toNat - (B l).toNat)) ∧
    LaneGives s c (.vmul d a b bs) .mul d a b bs (fun l => A l * B l) ∧
    LaneGives s c (.vmulh d a b bs) .mulh d a b bs (fun l => BitVec.ofInt 32 ((A l).toInt * (B l).toInt / 2 ^ 32)) ∧
    LaneGives s c (.vmulhU d a b bs) .mulhU d a b bs (fun l => BitVec.ofNat 32 ((A l).toNat * (B l).toNat / 2 ^ 32)) ∧
    LaneGives s c (.vmad d a b bs) .mad d a b bs (fun l => A l * B l + C l) ∧
    LaneGives s c (.vand d a b bs) .and d a b bs (fun l => A l &&& B l) ∧
    LaneGives s c (.vor d a b bs) .or d a b bs (fun l => A l ||| B l) ∧
    LaneGives s c (.vxor d a b bs) .xor d a b bs (fun l => A l ^^^ B l) ∧
    LaneGives s c (.vshl d a b bs) .shl d a b bs (fun l => A l <<< ((B l).toNat % 32)) ∧
    LaneGives s c (.vshr d a b bs) .shr d a b bs (fun l => A l >>> ((B l).toNat % 32)) ∧
    LaneGives s c (.vsra d a b bs) .sra d a b bs (fun l => (A l).sshiftRight ((B l).toNat % 32)) ∧
    LaneGives s c (.vmin d a b bs) .min d a b bs (fun l => if (A l).toInt < (B l).toInt then A l else B l) ∧
    LaneGives s c (.vmax d a b bs) .max d a b bs (fun l => if (A l).toInt < (B l).toInt then B l else A l) ∧
    LaneGives s c (.vminU d a b bs) .minU d a b bs (fun l => if (A l).toNat < (B l).toNat then A l else B l) ∧
    LaneGives s c (.vmaxU d a b bs) .maxU d a b bs (fun l => if (A l).toNat < (B l).toNat then B l else A l) ∧
    LaneGives s c (.vsel d a b bs) .sel d a b bs (fun l => if old l = 0 then B l else A l) ∧
    LaneGives s c (.vbfx d a b bs) .bfx d a b bs (fun l => bfx (A l) (B l)) ∧
    LaneGives s c (.vabs d b bs) .abs d 0 b bs (fun l =>
      if m = 1 then BitVec.ofInt 32 (min (2 ^ 31 - 1) (B l).toInt.natAbs) else BitVec.ofInt 32 (B l).toInt.natAbs) ∧
    LaneGives s c (.vclz d b bs) .clz d 0 b bs (fun l => BitVec.ofNat 32 (clzOf (B l))) ∧
    LaneGives s c (.vpopc d b bs) .popc d 0 b bs (fun l => BitVec.ofNat 32 (popcount (B l).toNat 32)) ∧
    (Ready s c (vecIssue true false .mov d.toNat 0 b.toNat (bs == 1) c) →
      exec (.vmov d b bs) s = .next (s.afterLanes c [.v d.toNat] ((lanes c.combined).map (fun l =>
        .v d.toNat l (B l) (if bs = 1 then c.warp.sPois b.toNat else c.warp.vPois b.toNat l))) 0)) ∧
    (let src := (c.warp.sreg b.toNat).toNat
     let i := perLane (c.vok d.toNat 1 && c.vok a.toNat 1) (accVec noMod8 false) c [[.v a.toNat], [.s b.toNat]] [.v d.toNat]
     c.warp.sPois b.toNat = false → (c.combined.getLsbD src = true → c.warp.vPois a.toNat src = false) →
     Ready s c { i with poison := 0 } →
      exec (.vbcst d a b) s = .next (s.afterLanes c [.v d.toNat] ((lanes c.combined).map (fun l =>
        .v d.toNat l (if c.combined.getLsbD src then c.warp.vreg a.toNat src else 0) false)) 0))

/-- The lane results of R277, R278 and R279 on d pairs of 64 bits. -/
def Sys2Proof.Claim.VectorPairResults : Prop :=
  ∀ (s : State) (c : Cx) (d a b : BitVec 7) (bs : BitVec 1),
    let A := fun (l : Nat) => c.warp.dreg a.toNat l
    let B := fun (l : Nat) => if bs = 1 then c.warp.qreg b.toNat else c.warp.dreg b.toNat l
    let old := fun (l : Nat) => c.warp.dreg d.toNat l
    let C := fun (l : Nat) => match c.hint 6 with
      | some p => if p.getLsbD 7 then c.warp.qreg (bits p.toNat 0 7) else c.warp.dreg (bits p.toNat 0 7) l
      | none => old l
    let m := c.mod8
    PairLaneGives s c (.vaddD d a b bs) .add d a b bs (fun l => saturated 64 m ((A l).toInt + (B l).toInt) ((A l).toNat + (B l).toNat)) ∧
    PairLaneGives s c (.vsubD d a b bs) .sub d a b bs (fun l => saturated 64 m ((A l).toInt - (B l).toInt) ((A l).toNat - (B l).toNat)) ∧
    PairLaneGives s c (.vmulD d a b bs) .mul d a b bs (fun l => A l * B l) ∧
    PairLaneGives s c (.vmulhD d a b bs) .mulh d a b bs (fun l => BitVec.ofInt 64 ((A l).toInt * (B l).toInt / 2 ^ 64)) ∧
    PairLaneGives s c (.vmulhUD d a b bs) .mulhU d a b bs (fun l => BitVec.ofNat 64 ((A l).toNat * (B l).toNat / 2 ^ 64)) ∧
    PairLaneGives s c (.vmadD d a b bs) .mad d a b bs (fun l => A l * B l + C l) ∧
    PairLaneGives s c (.vandD d a b bs) .and d a b bs (fun l => A l &&& B l) ∧
    PairLaneGives s c (.vorD d a b bs) .or d a b bs (fun l => A l ||| B l) ∧
    PairLaneGives s c (.vxorD d a b bs) .xor d a b bs (fun l => A l ^^^ B l) ∧
    PairLaneGives s c (.vshlD d a b bs) .shl d a b bs (fun l => A l <<< ((B l).toNat % 64)) ∧
    PairLaneGives s c (.vshrD d a b bs) .shr d a b bs (fun l => A l >>> ((B l).toNat % 64)) ∧
    PairLaneGives s c (.vsraD d a b bs) .sra d a b bs (fun l => (A l).sshiftRight ((B l).toNat % 64)) ∧
    PairLaneGives s c (.vminD d a b bs) .min d a b bs (fun l => if (A l).toInt < (B l).toInt then A l else B l) ∧
    PairLaneGives s c (.vmaxD d a b bs) .max d a b bs (fun l => if (A l).toInt < (B l).toInt then B l else A l) ∧
    PairLaneGives s c (.vminUD d a b bs) .minU d a b bs (fun l => if (A l).toNat < (B l).toNat then A l else B l) ∧
    PairLaneGives s c (.vmaxUD d a b bs) .maxU d a b bs (fun l => if (A l).toNat < (B l).toNat then B l else A l) ∧
    PairLaneGives s c (.vselD d a b bs) .sel d a b bs (fun l => if old l = 0 then B l else A l) ∧
    PairLaneGives s c (.vbfxD d a b bs) .bfx d a b bs (fun l => bfx (A l) (B l)) ∧
    PairLaneGives s c (.vabsD d b bs) .abs d 0 b bs (fun l =>
      if m = 1 then BitVec.ofInt 64 (min (2 ^ 63 - 1) (B l).toInt.natAbs) else BitVec.ofInt 64 (B l).toInt.natAbs) ∧
    PairLaneGives s c (.vclzD d b bs) .clz d 0 b bs (fun l => BitVec.ofNat 64 (clzOf (B l))) ∧
    PairLaneGives s c (.vpopcD d b bs) .popc d 0 b bs (fun l => BitVec.ofNat 64 (popcount (B l).toNat 64)) ∧
    (even d = true → even b = true → Ready s c (vecIssue true true .mov d.toNat 0 b.toNat (bs == 1) c) →
      let p := fun (k l : Nat) => if bs = 1 then c.warp.sPois (b.toNat + k) else c.warp.vPois (b.toNat + k) l
      exec (.vmovD d b bs) s = .next (s.afterLanes c [.v d.toNat, .v (d.toNat + 1)] ((lanes c.combined).flatMap (fun l =>
        [.v d.toNat l ((B l).truncate 32) (p 0 l), .v (d.toNat + 1) l ((B l >>> 32).truncate 32) (p 1 l)])) 0)) ∧
    (let src := (c.warp.sreg b.toNat).toNat
     let i := perLane (c.vok d.toNat 2 && c.vok a.toNat 2) (accVec noMod8 false) c [vref a.toNat 2, qref b.toNat] (vref d.toNat 2)
     let x : DWord := if c.combined.getLsbD src then c.warp.dreg a.toNat src else 0
     even d = true → even a = true → even b = true → c.warp.sPois b.toNat = false → c.warp.sPois (b.toNat + 1) = false →
     (c.combined.getLsbD src = true → c.warp.vPois a.toNat src = false ∧ c.warp.vPois (a.toNat + 1) src = false) →
     Ready s c { i with poison := 0 } →
      exec (.vbcstD d a b) s = .next (s.afterLanes c [.v d.toNat, .v (d.toNat + 1)] ((lanes c.combined).flatMap (fun l =>
        [.v d.toNat l (x.truncate 32) false, .v (d.toNat + 1) l ((x >>> 32).truncate 32) false])) 0))

/-- Vector integer instructions: results and frame.
The model's choice, where the manual leaves it open: the index of VBCST on d pairs (log entry 132). -/
def Obligations.VectorIntegerResults : Prop :=
  Sys2Proof.Claim.VectorWordResults ∧ Sys2Proof.Claim.VectorPairResults

/-- The comparisons of R278 on both widths. -/
def Sys2Proof.Claim.VectorCompareResults : Prop :=
  ∀ (s : State) (c : Cx) (d a b : BitVec 7) (bs : BitVec 1),
    let A := fun (l : Nat) => c.warp.vreg a.toNat l
    let B := fun (l : Nat) => if bs = 1 then c.warp.sreg b.toNat else c.warp.vreg b.toNat l
    let P := fun (l : Nat) => c.warp.dreg a.toNat l
    let Q := fun (l : Nat) => if bs = 1 then c.warp.qreg b.toNat else c.warp.dreg b.toNat l
    let words := [[.v a.toNat], if bs = 1 then [.s b.toNat] else [.v b.toNat]]
    let pairs := [vref a.toNat 2, if bs = 1 then qref b.toNat else vref b.toNat 2]
    let ok := c.vok a.toNat 1 && (bs == 1 || c.vok b.toNat 1)
    let okD := even a && even b && c.vok a.toNat 2 && (bs == 1 || c.vok b.toNat 2)
    LaneCompares s c (.vsetEq d a b bs) words ok d (fun l => A l = B l) ∧
    LaneCompares s c (.vsetNe d a b bs) words ok d (fun l => A l ≠ B l) ∧
    LaneCompares s c (.vsetLt d a b bs) words ok d (fun l => (A l).toInt < (B l).toInt) ∧
    LaneCompares s c (.vsetLe d a b bs) words ok d (fun l => (A l).toInt ≤ (B l).toInt) ∧
    LaneCompares s c (.vsetLtU d a b bs) words ok d (fun l => (A l).toNat < (B l).toNat) ∧
    LaneCompares s c (.vsetLeU d a b bs) words ok d (fun l => (A l).toNat ≤ (B l).toNat) ∧
    LaneCompares s c (.vsetEqD d a b bs) pairs okD d (fun l => P l = Q l) ∧
    LaneCompares s c (.vsetNeD d a b bs) pairs okD d (fun l => P l ≠ Q l) ∧
    LaneCompares s c (.vsetLtD d a b bs) pairs okD d (fun l => (P l).toInt < (Q l).toInt) ∧
    LaneCompares s c (.vsetLeD d a b bs) pairs okD d (fun l => (P l).toInt ≤ (Q l).toInt) ∧
    LaneCompares s c (.vsetLtUD d a b bs) pairs okD d (fun l => (P l).toNat < (Q l).toNat) ∧
    LaneCompares s c (.vsetLeUD d a b bs) pairs okD d (fun l => (P l).toNat ≤ (Q l).toNat)

/-- The immediate forms of R281. -/
def Sys2Proof.Claim.VectorImmediateResults : Prop :=
  ∀ (s : State) (c : Cx) (d a : BitVec 7) (im : BitVec 12) (n : BitVec 5),
    let A := fun (l : Nat) => c.warp.vreg a.toNat l
    let I : Word := match c.hint 0 with | some p => (p ++ im).truncate 32 | none => im.signExtend 32
    let m := c.mod8
    let puts := fun (r : Nat → Word) => s.afterLanes c [.v d.toNat] ((lanes c.combined).map (fun l => .v d.toNat l (r l) false)) 0
    let acts := fun (mod8 : Nat → Bool) (ok : Bool) => perLane ok (accVecImm mod8) c [[.v a.toNat]] [.v d.toNat]
    let ok := c.vok d.toNat 1 && c.vok a.toNat 1
    (Ready s c (acts (intMod8 .add) ok) → exec (.vaddImm d a im) s = .next (puts (fun l => saturated 32 m ((A l).toInt + I.toInt) ((A l).toNat + I.toNat)))) ∧
    (Ready s c (acts noMod8 ok) →
      exec (.vandImm d a im) s = .next (puts (fun l => A l &&& I)) ∧
      (c.ihi = none ∨ c.ihi = some 0 →
        exec (.vshlImm d a n) s = .next (puts (fun l => A l <<< n.toNat)) ∧
        exec (.vshrImm d a n) s = .next (puts (fun l => A l >>> n.toNat)) ∧
        exec (.vsraImm d a n) s = .next (puts (fun l => (A l).sshiftRight n.toNat)))) ∧
    (Ready s c { perLane (c.vok d.toNat 1) (accVecImm noMod8) c [] [.v d.toNat] with guard := false } →
      exec (.vmovImm d im) s = .next (puts (fun _ => I)))

/-- Vector compares and immediates: results and frame. -/
def Obligations.VectorCompareAndImmediateResults : Prop :=
  Sys2Proof.Claim.VectorCompareResults ∧ Sys2Proof.Claim.VectorImmediateResults

/-! ### Vector float, conversion, cross-lane, sorting and random numbers -/

namespace Sys2Proof.Machine

/-- When the instruction i is ready and no active lane raises a flag that TEN enables (R148), each active lane l writes w l, and the
flags are those of the lanes together, the result pending (R273). -/
def LanesGive (s : State) (c : Cx) (i : Instr) (issue : Issue) (dsts : List RegRef) (w : Nat → List RegWrite) (f : Nat → Flags) : Prop :=
  Ready s c issue → (∀ l ∈ lanes c.combined, f l &&& c.ten = 0) →
    exec i s = .next (s.afterLanes c dsts ((lanes c.combined).flatMap w) ((lanes c.combined).foldl (fun x l => x ||| f l) 0))

/-- As LanesGive for one bit of k d in each active lane: the bits of the other lanes stay (R278, R283). -/
def LaneBitsGive (s : State) (c : Cx) (i : Instr) (issue : Issue) (d : BitVec 7) (p : Nat → Bool) (f : Nat → Flags) : Prop :=
  Ready s c issue → (∀ l ∈ lanes c.combined, f l &&& c.ten = 0) →
    exec i s = .next (s.afterLanes c [.k d.toNat]
      [.k d.toNat ((c.warp.kreg d.toNat &&& ~~~c.combined) ||| maskOf ((lanes c.combined).filter p))]
      ((lanes c.combined).foldl (fun x l => x ||| f l) 0))

/-- What the checks see of a float instruction with these sources. -/
def floatIssue (ok : Bool) (c : Cx) (srcs : List (List RegRef)) (dsts : List RegRef) : Issue := perLane ok (accFloat false) c srcs dsts

end Sys2Proof.Machine

/-- The float instructions of R282 to R284 on FP32: each result is the exact value rounded once under the instruction's mode. -/
def Sys2Proof.Claim.VectorFloatResults : Prop :=
  ∀ (s : State) (c : Cx) (d a b : BitVec 7) (bs : BitVec 1),
    let A := fun (l : Nat) => fp32.decode (c.warp.vreg a.toNat l).toNat
    let raw := fun (l : Nat) => (if bs = 1 then c.warp.sreg b.toNat else c.warp.vreg b.toNat l).toNat
    let B := fun (l : Nat) => fp32.decode (raw l)
    let C := fun (l : Nat) => fp32.decode (match c.hint 6 with
      | some p => if p.getLsbD 7 then c.warp.sreg (bits p.toNat 0 7) else c.warp.vreg (bits p.toNat 0 7) l
      | none => c.warp.vreg d.toNat l).toNat
    let rm := if c.rmv then c.rm else rne
    let sb := if bs = 1 then [RegRef.s b.toNat] else [RegRef.v b.toNat]
    let vb := bs == 1 || c.vok b.toNat 1
    let gives := fun (i : Instr) (is : Issue) (r : Nat → Nat × Flags) =>
      LanesGive s c i is [.v d.toNat] (fun l => [.v d.toNat l (BitVec.ofNat 32 (r l).1) false]) (fun l => (r l).2)
    let two := floatIssue (c.vok d.toNat 1 && c.vok a.toNat 1 && vb) c [[.v a.toNat], sb] [.v d.toNat]
    let one := floatIssue (c.vok d.toNat 1 && vb) c [sb] [.v d.toNat]
    let ad := c.addendRef false d.toNat
    let three := perLane (c.vok d.toNat 1 && c.vok a.toNat 1 && vb && ad.2) (accFloat true) c [[.v a.toNat], sb, ad.1] [.v d.toNat]
    let cmp := floatIssue (kdst d && c.vok a.toNat 1 && vb) c [[.v a.toNat], sb] [.k d.toNat]
    let tests := fun (i : Instr) (k : FCmp) =>
      LaneBitsGive s c i cmp d (fun l => (compareNum k (A l) (B l)).1) (fun l => (compareNum k (A l) (B l)).2)
    gives (.vfadd d a b bs) two (fun l => roundNum fp32 rm (addNum rm (A l) (B l))) ∧
    gives (.vfsub d a b bs) two (fun l => roundNum fp32 rm (addNum rm (A l) (B l).negate)) ∧
    gives (.vfmul d a b bs) two (fun l => roundNum fp32 rm (mulNum (A l) (B l))) ∧
    gives (.vfma d a b bs) three (fun l => roundNum fp32 rm (fmaNum rm (A l) (B l) (C l))) ∧
    gives (.vfmin d a b bs) two (fun l => roundNum fp32 rm (minMaxNum false (A l) (B l))) ∧
    gives (.vfmax d a b bs) two (fun l => roundNum fp32 rm (minMaxNum true (A l) (B l))) ∧
    gives (.vfcls d b bs) one (fun l => (classOf fp32 (raw l), 0)) ∧
    gives (.vrcp d b bs) one (fun l => roundNum fp32 rm (mathNum .rcp (B l))) ∧
    gives (.vrsq d b bs) one (fun l => roundNum fp32 rm (mathNum .rsq (B l))) ∧
    gives (.vsqrt d b bs) one (fun l => roundNum fp32 rm (mathNum .sqrt (B l))) ∧
    gives (.vexp2 d b bs) one (fun l => roundNum fp32 rm (mathNum .exp2 (B l))) ∧
    gives (.vlog2 d b bs) one (fun l => roundNum fp32 rm (mathNum .log2 (B l))) ∧
    tests (.vfsetEq d a b bs) .eq ∧ tests (.vfsetLt d a b bs) .lt ∧ tests (.vfsetLe d a b bs) .le ∧ tests (.vfsetUn d a b bs) .un

/-- The float instructions of R282 to R284 on FP64 d pairs. -/
def Sys2Proof.Claim.VectorDoubleResults : Prop :=
  ∀ (s : State) (c : Cx) (d a b : BitVec 7) (bs : BitVec 1), even a = true → even b = true →
    let A := fun (l : Nat) => fp64.decode (c.warp.dreg a.toNat l).toNat
    let raw := fun (l : Nat) => (if bs = 1 then c.warp.qreg b.toNat else c.warp.dreg b.toNat l).toNat
    let B := fun (l : Nat) => fp64.decode (raw l)
    let C := fun (l : Nat) => fp64.decode (match c.hint 6 with
      | some p => if p.getLsbD 7 then c.warp.qreg (bits p.toNat 0 7) else c.warp.dreg (bits p.toNat 0 7) l
      | none => c.warp.dreg d.toNat l).toNat
    let rm := if c.rmv then c.rm else rne
    let sb := if bs = 1 then qref b.toNat else vref b.toNat 2
    let vb := bs == 1 || c.vok b.toNat 2
    let gives := fun (i : Instr) (is : Issue) (r : Nat → Nat × Flags) =>
      LanesGive s c i is (vref d.toNat 2) (fun l =>
        [.v d.toNat l (BitVec.ofNat 32 (r l).1) false, .v (d.toNat + 1) l (BitVec.ofNat 32 ((r l).1 / 2 ^ 32)) false]) (fun l => (r l).2)
    let two := floatIssue (c.vok d.toNat 2 && c.vok a.toNat 2 && vb) c [vref a.toNat 2, sb] (vref d.toNat 2)
    let one := floatIssue (c.vok d.toNat 2 && vb) c [sb] (vref d.toNat 2)
    let ad := c.addendRef true d.toNat
    let three := perLane (c.vok d.toNat 2 && c.vok a.toNat 2 && vb && ad.2) (accFloat true) c [vref a.toNat 2, sb, ad.1] (vref d.toNat 2)
    let tests := fun (i : Instr) (k : FCmp) =>
      LaneBitsGive s c i (floatIssue (c.vok a.toNat 2 && vb) c [vref a.toNat 2, sb] [.k d.toNat]) d
        (fun l => (compareNum k (A l) (B l)).1) (fun l => (compareNum k (A l) (B l)).2)
    (even d = true →
    gives (.vfaddD d a b bs) two (fun l => roundNum fp64 rm (addNum rm (A l) (B l))) ∧
    gives (.vfsubD d a b bs) two (fun l => roundNum fp64 rm (addNum rm (A l) (B l).negate)) ∧
    gives (.vfmulD d a b bs) two (fun l => roundNum fp64 rm (mulNum (A l) (B l))) ∧
    gives (.vfmaD d a b bs) three (fun l => roundNum fp64 rm (fmaNum rm (A l) (B l) (C l))) ∧
    gives (.vfminD d a b bs) two (fun l => roundNum fp64 rm (minMaxNum false (A l) (B l))) ∧
    gives (.vfmaxD d a b bs) two (fun l => roundNum fp64 rm (minMaxNum true (A l) (B l))) ∧
    gives (.vfclsD d b bs) one (fun l => (classOf fp64 (raw l), 0)) ∧
    gives (.vrcpD d b bs) one (fun l => roundNum fp64 rm (mathNum .rcp (B l))) ∧
    gives (.vrsqD d b bs) one (fun l => roundNum fp64 rm (mathNum .rsq (B l))) ∧
    gives (.vsqrtD d b bs) one (fun l => roundNum fp64 rm (mathNum .sqrt (B l))) ∧
    gives (.vexp2D d b bs) one (fun l => roundNum fp64 rm (mathNum .exp2 (B l))) ∧
    gives (.vlog2D d b bs) one (fun l => roundNum fp64 rm (mathNum .log2 (B l)))) ∧
    (kdst d = true →
      tests (.vfsetEqD d a b bs) .eq ∧ tests (.vfsetLtD d a b bs) .lt ∧ tests (.vfsetLeD d a b bs) .le ∧ tests (.vfsetUnD d a b bs) .un)

/-- Vector floating-point instructions: results and frame; and what their operations and RoundTo are over the integers (R143 to R145, R153,
R162).
The model's choice, where the manual leaves it open: the number of bits of EXP2 and LOG2 (log entry 9), that overflow is tested on the
rounded value (log entry 29) and the sign of LOG2 of 1 (log entry 149). -/
def Obligations.VectorFloatingResults : Prop :=
  Sys2Proof.Claim.VectorFloatResults ∧ Sys2Proof.Claim.VectorDoubleResults ∧ Sys2Proof.Claim.RoundingIsNearest ∧
  Sys2Proof.Claim.ArithmeticIsExact

/-- The conversions of R285 to R290: VCVT rounds each element once; VQMX forms one MX block for each half of 32 lanes; VDQMX and
VCBD round the decoded values. -/
def Sys2Proof.Claim.ConversionResults : Prop :=
  ∀ (s : State) (c : Cx) (d a : BitVec 7) (ti si sat : BitVec 1),
    let A := fun (l : Nat) => (c.warp.vreg a.toNat l).toNat
    let src := bits c.mod8 0 4
    let tgt := bits c.mod8 4 4
    let half := if tgt = 0 then fp32 else bf16
    -- VCVT
    (let ok := fun (m : Nat) => cvtCode (bits m 0 4) && cvtCode (bits m 4 4)
     let r := fun (l : Nat) => convert src tgt (si == 1) (ti == 1) (if c.rmv then c.rm else rne) (sat == 1) (c.warp.dreg a.toNat l).toNat
     let enc := c.codesOk ok && (si == 0 || src == 9) && (ti == 0 || tgt == 9)
       && c.vokPair d.toNat (fmtRegs tgt (ti == 1)) && c.vokPair a.toNat (fmtRegs src (si == 1))
     LanesGive s c (.vcvt d a ti si sat)
       (perLane enc (accConv true ok) c [vref a.toNat (fmtRegs src (si == 1))] (vref d.toNat (fmtRegs tgt (ti == 1))))
       (vref d.toNat (fmtRegs tgt (ti == 1)))
       (fun l => vwrite (pairFmt tgt (ti == 1)) d.toNat l (narrow tgt (r l).1) false) (fun l => (r l).2)) ∧
    -- VQMX: lane l holds element l % 32 of block l / 32; the scale stands in bits 15 to 8
    (let ok := fun (m : Nat) => decide (bits m 0 4 ≤ 1) && decide (2 ≤ bits m 4 4) && decide (bits m 4 4 ≤ 5)
     let value := fun (l : Nat) => if c.combined.getLsbD l
       then some ((if src = 0 then fp32 else bf16).decode (A l % 2 ^ fmtBits src)) else none
     let block := fun (j : Nat) => if (List.range 32).any (fun n => c.combined.getLsbD (32 * j + n))
       then vqmxBlock tgt ((List.range 32).map (fun n => value (32 * j + n))) else (0, [], 0)
     LanesGive s c (.vqmx d a)
       (perLane (c.codesOk ok && decide (32 ≤ c.grid.w) && c.vok d.toNat 1 && c.vok a.toNat 1) (accConv false ok) c
         [[.v a.toNat]] [.v d.toNat]) [.v d.toNat]
       (fun l => [.v d.toNat l (BitVec.ofNat 32 (([block 0, block 1].getD (l / 32) (0, [], 0)).2.1.getD (l % 32) 0
         + 256 * ([block 0, block 1].getD (l / 32) (0, [], 0)).1)) false])
       (fun l => if l = lowLane c.combined then (block 0).2.2 ||| (block 1).2.2 else 0)) ∧
    -- VDQMX
    (let ok := fun (m : Nat) => decide (2 ≤ bits m 0 4) && decide (bits m 0 4 ≤ 5) && decide (bits m 4 4 ≤ 1)
     let r := fun (l : Nat) => roundTo half rne (sat == 1) (mxDecode src (bits (A l) 8 8) (bits (A l) 0 8))
     LanesGive s c (.vdqmx d a sat)
       (perLane (c.codesOk ok && c.vok d.toNat 1 && c.vok a.toNat 1) (accConv false ok) c [[.v a.toNat]] [.v d.toNat]) [.v d.toNat]
       (fun l => [.v d.toNat l (BitVec.ofNat 32 (r l).1) false]) (fun l => (r l).2)) ∧
    -- VCBD: eight elements of the index in bits 15 to 0 under the scale in bits 23 to 16, one to each register of the group
    (let ok := fun (m : Nat) => bits m 0 4 == 7 && decide (bits m 4 4 ≤ 1)
     let r := fun (l : Nat) => (cb2Decode c.ctx.cbEntry (bits (A l) 0 16) (bits (A l) 16 8)).map (fun x => roundTo half rne (sat == 1) x)
     let flags := fun (l : Nat) => (r l).foldl (fun f x => f ||| x.2) 0
     let w := fun (l : Nat) => (List.range 8).map (fun j => RegWrite.v (d.toNat + j) l (BitVec.ofNat 32 ((r l).getD j (0, 0)).1) false)
     Ready s c (perLane (mult 8 d && c.codesOk ok && c.vok d.toNat 8 && c.vok a.toNat 1) (accConv false ok) c [[.v a.toNat]]
         (vref d.toNat 8)) →
       (∀ l ∈ lanes c.combined, flags l &&& c.ten = 0) →
       exec (.vcbd d a sat) s = .next (if c.combined = 0 then s.after c id
         else (s.pend c (vref d.toNat 8) none (.cb ((lanes c.combined).flatMap w)
           ((lanes c.combined).foldl (fun f l => f ||| flags l) 0))).after c (fun x => x.markAll true (vref d.toNat 8))))

/-- The cross-lane moves of R291 to R294: a lane outside the combined mask reads as the fill value. -/
def Sys2Proof.Claim.CrossLaneMoves : Prop :=
  ∀ (s : State) (c : Cx) (d a b : BitVec 7) (bs : BitVec 1),
    let D := bit c.mod8 4
    let n := if D then 2 else 1
    let idx := fun (l : Nat) => (if bs = 1 then c.warp.sreg b.toNat else c.warp.vreg b.toNat l).toNat
    let dist := fun (l : Nat) => if bs = 1 then (c.warp.sreg b.toNat).toNat
      else if D then (c.warp.dreg b.toNat l).toNat else (c.warp.vreg b.toNat l).toNat
    let elem := fun (l : Nat) => if D then (c.warp.dreg a.toNat l).toNat else (c.warp.vreg a.toNat l).toNat
    let read := fun (l : Nat) => if l < 64 ∧ c.combined.getLsbD l = true then elem l else c.fill (if D then 64 else 32)
    let br := if bs = 1 then [RegRef.s b.toNat] else vref b.toNat n
    let issue := fun (mod8 : Nat → Bool) (src : Nat → Nat) =>
      { perLane (c.vokPair d.toNat n && c.vokPair a.toNat n && (bs == 1 || c.vokPair b.toNat n)) (accCross mod8) c
          [vref a.toNat n, br] (vref d.toNat n) with poison := c.movePoison (vref a.toNat n) br src }
    let S := if bits c.mod8 5 3 = 0 then c.grid.w else 2 ^ bits c.mod8 5 3
    let shfl := fun (l : Nat) =>
      let o := l % S
      match bits c.mod8 0 2 with
      | 0 => if o < dist l then 64 else l - o + (o - dist l)
      | 1 => if S ≤ o + dist l then 64 else l - o + o + dist l
      | 2 => if S ≤ (o ^^^ dist l) then 64 else l - o + (o ^^^ dist l)
      | _ => l - o + toBits ((o : Int) - dist l) 64 % S
    LanesGive s c (.vperm d a b bs) (issue (fun m => bits m 0 4 == 0 && bits m 5 3 == 0) idx) (vref d.toNat n)
      (fun l => vwrite D d.toNat l (read (idx l)) false) (fun _ => 0) ∧
    LanesGive s c (.vshfl d a b bs) (issue (shflMod8 c) shfl) (vref d.toNat n)
      (fun l => vwrite D d.toNat l (read (shfl l)) false) (fun _ => 0)

/-- The reduction of R295 over the W lane positions in its fixed tree, and the prefixes of R296. -/
def Sys2Proof.Claim.CrossLaneReductions : Prop :=
  ∀ (s : State) (c : Cx) (d a : BitVec 7),
    let D := bit c.mod8 4
    let n := if D then 2 else 1
    let w := if D then 64 else 32
    let op := bits c.mod8 0 4
    let x := (List.range c.grid.w).map (fun l =>
      if l < 64 ∧ c.combined.getLsbD l = true then (if D then (c.warp.dreg a.toNat l).toNat else (c.warp.vreg a.toNat l).toNat)
      else c.fill w)
    let clean := (lanes c.combined).all (fun l => !c.lanePoison (vref a.toNat n) l)
    let issue := fun (scan : Bool) => { perLane (c.vokPair d.toNat n && c.vokPair a.toNat n) (accCross (redMod8 scan)) c
      [vref a.toNat n] (vref d.toNat n) with poison := 0 }
    let tree := redTree D op 6 x 0
    let pre := match x with | [] => (([] : List Nat), (0 : Flags)) | y :: r => scanFrom D op y r
    clean = true →
    LanesGive s c (.vred d a) (issue false) (vref d.toNat n) (fun l => vwrite D d.toNat l tree.1 false)
      (fun l => if l = lowLane c.combined then tree.2 else 0) ∧
    LanesGive s c (.vscan d a) (issue true) (vref d.toNat n)
      (fun l => vwrite D d.toNat l (if bit c.mod8 5 = false then pre.1.getD l 0 else if l = 0 then c.fill w else pre.1.getD (l - 1) 0) false)
      (fun l => if l = lowLane c.combined then pre.2 else 0)

/-- Cross-lane moves, reductions and scans; and what the tree, the prefixes and their operations are. -/
def Obligations.CrossLaneResults : Prop :=
  Sys2Proof.Claim.CrossLaneMoves ∧ Sys2Proof.Claim.CrossLaneReductions ∧ Sys2Proof.Claim.TreesAndPrefixes

/-- Sorting, selection and random numbers (R297 to R300): the n-th active lane gets the key of rank n. -/
def Sys2Proof.Claim.SortSelectRandom : Prop :=
  ∀ (s : State) (c : Cx) (d a b : BitVec 7) (bs : BitVec 1),
    let key := fun (l : Nat) => keyNum (bits c.mod8 0 2) (c.warp.vreg a.toNat l).toNat
    let nan := fun (l : Nat) => if (key l).isNan then flagIV else 0
    let rank := fun (down : Bool) => sortBy (fun x y => if down then keyLt (key y) (key x) else keyLt (key x) (key y)) (lanes c.combined)
    let pos := fun (l : Nat) => ((lanes c.combined).filter (fun j => decide (j < l))).length
    let rev := bit c.mod8 2
    -- VSORT
    (let from' := fun (l : Nat) => (rank rev).getD (pos l) 0
     let i := perLane (even d && (bs == 0 || b == 0) && c.vok d.toNat 2 && c.vok a.toNat 1 && (bs == 1 || c.vok b.toNat 1))
       (accVec sortMod8 false) c ([[.v a.toNat]] ++ (if bs = 1 then [] else [[.v b.toNat]])) (vref d.toNat 2)
     Ready s c { i with poison := c.poisonLanes [[.v a.toNat]] } →
       exec (.vsort d a b bs) s = .next (s.afterLanes c (vref d.toNat 2)
         ((lanes c.combined).flatMap (fun l => [.v d.toNat l (c.warp.vreg a.toNat (from' l)) false,
           .v (d.toNat + 1) l (if bs = 1 then BitVec.ofNat 32 (from' l) else c.warp.vreg b.toNat (from' l))
             (bs != 1 && c.warp.vPois b.toNat (from' l))])) ((lanes c.combined).foldl (fun f l => f ||| nan l) 0))) ∧
    -- VTOPK
    (let k := min (c.warp.sreg b.toNat).toNat 64
     Ready s c (perLane (even d && c.vok d.toNat 2 && c.vok a.toNat 1) (accVec sortMod8 false) c [[.v a.toNat], [.s b.toNat]]
         (vref d.toNat 2)) →
       exec (.vtopk d a b) s = .next (s.afterLanes c (vref d.toNat 2)
         ((lanes c.combined).flatMap (fun l =>
           if pos l < k then [.v d.toNat l (c.warp.vreg a.toNat ((rank (!rev)).getD (pos l) 0)) false,
             .v (d.toNat + 1) l (BitVec.ofNat 32 ((rank (!rev)).getD (pos l) 0)) false]
           else [.v d.toNat l 0 false, .v (d.toNat + 1) l 0xFFFFFFFF false]))
         ((lanes c.combined).foldl (fun f l => f ||| nan l) 0))) ∧
    -- VRAND
    (let D := bit c.mod8 0
     let z := fun (l : Nat) => randWord (c.warp.qreg b.toNat).toNat (c.warp.vreg a.toNat l).toNat
     Ready s c (perLane (even b && c.vokPair d.toNat (if D then 2 else 1) && c.vok a.toNat 1 && a.toNat != d.toNat
           && (!D || a.toNat != d.toNat + 1)) (accVec (fun m => bits m 1 7 == 0) false) c [[.v a.toNat], qref b.toNat]
         (vref d.toNat (if D then 2 else 1) ++ [.v a.toNat])) →
       exec (.vrand d a b) s = .next (s.afterLanes c (vref d.toNat (if D then 2 else 1) ++ [.v a.toNat])
         ((lanes c.combined).flatMap (fun l => vwrite D d.toNat l (z l) false ++ [.v a.toNat l (c.warp.vreg a.toNat l + 1) false])) 0))

/-- Conversions, sort, top-k and random numbers; and what conversions, block scales, the codebook and the generator are over the integers.
The model's choice, where the manual leaves it open: that overflow is tested on the rounded value (log entry 29) and which of two
tables gives an encoding (log entry 30). -/
def Obligations.ConversionAndSelectionResults : Prop :=
  Sys2Proof.Claim.ConversionResults ∧ Sys2Proof.Claim.SortSelectRandom ∧ Sys2Proof.Claim.ConversionsAreExact

namespace Sys2Proof.Machine

/-- The geometric instruction i of predicate k: every active lane gets the sign, or 2 where a coordinate is not finite (R161), and
k[KZ] the zero mask (R302). -/
def PredicateGives (s : State) (c : Cx) (i : Instr) (k : Pred) (d a b : BitVec 7) (bs : BitVec 1) : Prop :=
  let kz := bits c.mod8 0 4
  let ss := bit c.mod8 4
  let n := 2 * k.points * k.dim + (if ss then k.points else 0)
  let coord := fun (l p j : Nat) => (c.warp.dreg (a.toNat + 2 * (p * k.dim + j)) l).toNat
  let bad := fun (l : Nat) => (List.range k.points).any (fun p => (List.range k.dim).any (fun j => !(fp64.decode (coord l p j)).isFinite))
  let pts := fun (l : Nat) => (List.range k.points).map (fun p => (List.range k.dim).map (fun j => fp64Int (coord l p j)))
  let idx := fun (l : Nat) => if ss then some ((List.range k.points).map (fun p =>
    ((c.warp.qreg b.toNat).toNat + (c.warp.vreg (a.toNat + 2 * k.points * k.dim + p) l).toNat) % 2 ^ 64)) else none
  let sign := fun (l : Nat) => if bad l then ((2 : Int), false) else geomSign k (pts l) (idx l)
  let dsts := [RegRef.v d.toNat] ++ (if kz = 0 then [] else [.k kz])
  even a = true → (if bs = 0 then b = 0 else even b = true) →
  Ready s c (perLane (ss == (bs == 1) && c.vok d.toNat 1 && c.vok a.toNat n) (accVec (fun m => bits m 6 2 == 0) false) c
    ([vref a.toNat n] ++ (if ss then [qref b.toNat] else [])) dsts) →
  (bit c.mod8 5 = false → ∀ l ∈ lanes c.combined, bad l = false) →
    exec i s = .next (s.afterLanes c dsts
      ((lanes c.combined).map (fun l => .v d.toNat l (BitVec.ofInt 32 (sign l).1) false)
        ++ (if kz = 0 then [] else [.k kz (maskOf ((lanes c.combined).filter (fun l => (sign l).2)))]))
      (if (lanes c.combined).any bad then flagIV else 0))

end Sys2Proof.Machine

/-- The geometric predicates of R301 and R302; and the determinants of R156 and the crossing of R160 written out.
The model's choice, where the manual leaves it open: which of two tables gives an encoding (log entry 30) and GSEGX.SS where two points
share an index (log entry 134). -/
def Obligations.GeometricResults : Prop :=
  (∀ (s : State) (c : Cx) (d a b : BitVec 7) (bs : BitVec 1),
    PredicateGives s c (.gori2 d a b bs) .ori2 d a b bs ∧ PredicateGives s c (.gori3 d a b bs) .ori3 d a b bs ∧
    PredicateGives s c (.ginc d a b bs) .inc d a b bs ∧ PredicateGives s c (.gins d a b bs) .ins d a b bs ∧
    PredicateGives s c (.gsegx d a b bs) .segx d a b bs) ∧
  Sys2Proof.Claim.DeterminantSigns ∧ Sys2Proof.Claim.SegmentsCross

/-! ### Hints -/

namespace Sys2Proof.Machine

/-- The split goes past a hint word, which joins its pending group; nothing else changes, and no issue is counted. -/
def State.withHint (s : State) (c : Cx) (kind : Nat) (payload : BitVec 23) : State :=
  let p : Split := { c.split with pc := (c.split.pc + 4) % vaMod, hints := c.split.hints ++ [⟨c.split.pc, kind, payload⟩] }
  { s with warps := tput s.warps c.w { c.warp with splits := lset c.warp.splits c.sp p } }

end Sys2Proof.Machine

/-- Each hint word joins the group (R215 to R223): at most three of different kinds, none at the end address of the top loop entry
(R225). The fields of the payload stand where R216 to R222 put them. A second hint of a kind, or a fourth one, is ILLEGAL at itself. HSTL
takes an issue slot of its own, and its split is not ready for its count of cycles (R396).
The model's choice, where the manual leaves it open: that each hint word is one step (log entry 13) and when the cycles of HSTL count
(log entry 118). -/
def Obligations.HintsJoinTheGroup : Prop :=
  ∀ (s : State) (c : Cx) (p : BitVec 23) (n : BitVec 1) (k : BitVec 4) (bs : BitVec 12) (m : BitVec 8) (vo rm : BitVec 2)
    (sc : BitVec 3) (t : BitVec 5) (f : BitVec 1) (v : BitVec 22) (r : BitVec 7),
    issueCx s = some c → (∀ e ∈ c.split.loops.head?, e.stop ≠ c.split.pc) →
    let fresh := fun (kind : Nat) => c.split.hints.length < 3 ∧ ∀ h ∈ c.split.hints, h.kind ≠ kind
    let takes := fun (i : Instr) (kind : Nat) (x : BitVec 23) =>
      (fresh kind → exec i s = .next (s.withHint c kind x)) ∧ (¬ fresh kind → exec i s = .next (s.illegalWord c))
    takes (.himm p) 0 p ∧
    takes (.hgrd n k) 1 (0#18 ++ n ++ k) ∧
    (let clk := s.slotCyc c.warp.core c.warp.slot + 1
     let p : Split := { c.split with
       pc := (c.split.pc + 4) % vaMod
       hints := c.split.hints ++ [⟨c.split.pc, 2, 0#11 ++ bs⟩]
       stamp := clk
       since := clk
       promoted := false
       stall := clk + bs.toNat }
     (fresh 2 → exec (.hstl bs) s = .next { s with
       cyc := tset 0 s.cyc (4 * c.warp.core + c.warp.slot) clk
       warps := tput s.warps c.w { c.warp with splits := lset c.warp.splits c.sp p, last := c.sp } }) ∧
     (¬ fresh 2 → exec (.hstl bs) s = .next (s.illegalWord c))) ∧
    ((n = 1 ∨ rm = 0) → (vo ≠ 0 ∨ sc = 0) → sc ≠ 7 → takes (.hmod m vo sc rm n t) 3 (0#2 ++ m ++ vo ++ sc ++ rm ++ n ++ t)) ∧
    takes (.hfe t) 4 (0#18 ++ t) ∧
    ((f = 0 ∨ v.extractLsb' 16 6 = 0) → takes (.hfil f v) 5 (f ++ v)) ∧
    takes (.hadd n r) 6 (0#15 ++ n ++ r)

/-! ### Control -/

/-- BR, JMPI, CALL, LOOP, LEXIT and NOP (R249, R252, R253, R256, R259, R263): the split's next pc and loop stack. -/
def Sys2Proof.Claim.BranchesAndLoops : Prop :=
  ∀ (s : State) (c : Cx) (cond k : BitVec 4) (d : BitVec 18) (a : BitVec 7),
    let pc := c.split.pc
    let loops := c.split.loops
    let m := c.split.mask
    let disp : Int := match c.hint 0 with | some p => (p ++ d).toInt | none => d.toInt
    let target := (((pc : Int) + 4 * disp) % (2 ^ 57 : Int)).toNat
    let goes := fun (t : Nat) => s.afterAt c (unwind loops t) t id
    -- BR
    (let K := c.k k.toNat
     let v := c.warp.sreg k.toNat
     let holds := match cond.toNat with
       | 0 => True
       | 1 => m &&& K ≠ 0
       | 2 => m &&& ~~~K = 0
       | 3 => m &&& K = 0
       | 4 => m &&& ~~~K ≠ 0
       | 5 => v = 0
       | 6 => v ≠ 0
       | 7 => v.toInt < 0
       | _ => 0 ≤ v.toInt
     let srcs := if cond = 0 then [] else if cond.toNat ≤ 4 then [[RegRef.k k.toNat]] else [[RegRef.s k.toNat]]
     cond.toNat ≤ 8 → (cond = 0 → k = 0) → Ready s c (once true accImm c srcs []) →
       (holds → exec (.br cond k d) s = .next (goes target)) ∧ (¬ holds → exec (.br cond k d) s = .next (s.after c id))) ∧
    -- JMPI
    (let t := (c.warp.qreg a.toNat).toNat % 2 ^ 57
     even a = true → Ready s c (once true Accept.none c [qref a.toNat] []) →
       (t % 4 = 0 → exec (.jmpi a) s = .next (goes t)) ∧
       (t % 4 ≠ 0 → exec (.jmpi a) s = .next (s.trap c .misalign m t))) ∧
    -- CALL
    (let ra := (pc + 4) % 2 ^ 57
     let link := (lanes m).flatMap (fun l => [RegWrite.v 0 l (BitVec.ofNat 32 ra) false,
       .v 1 l (BitVec.ofNat 32 (ra / 2 ^ 32 + loops.length * 2 ^ 25)) false])
     Ready s c (once true accImm c [] [.v 0, .v 1]) →
       exec (.call d) s = .next ((s.afterAt c loops target (fun w => w.writeAll c.grid.w link)).onWarp c (fun w =>
         w.setSplit c.sp (fun p => { p with div := c.warp.callDiv c.split })))) ∧
    -- LOOP
    (let n := (c.warp.sreg k.toNat).toNat
     1 ≤ disp → Ready s c (once true accImm c [[.s k.toNat]] []) →
       (n = 0 → exec (.loop k d) s = .next (s.afterAt c loops ((target + 4) % 2 ^ 57) id)) ∧
       (0 < n → loops.length < 4 →
         exec (.loop k d) s = .next (s.afterAt c (⟨(pc + 4) % 2 ^ 57, target, n⟩ :: loops) ((pc + 4) % 2 ^ 57) id)) ∧
       (0 < n → 4 ≤ loops.length → exec (.loop k d) s = .next (s.trap c .loopx m 0))) ∧
    -- LEXIT, NOP
    (Ready s c (once true Accept.none c [] []) →
      (∀ e r, loops = e :: r →
        exec .lexit s = .next (s.afterAt c (unwind r ((e.stop + 4) % 2 ^ 57)) ((e.stop + 4) % 2 ^ 57) id)) ∧
      (loops = [] → exec .lexit s = .next (s.trap c .illegal m 0)) ∧
      exec .nop s = .next (s.after c id))

/-- Going round or past loops (R52) and leaving them (R53): an entry whose end is the completed instruction's address is counted down
and started again, or popped and the next one tried; a transfer pops the entries whose bodies do not hold the target. -/
def Sys2Proof.Claim.LoopStackRules : Prop :=
  (∀ pc, loopEnd [] pc = ([], (pc + 4) % 2 ^ 57)) ∧
  (∀ e r pc, e.stop ≠ pc → loopEnd (e :: r) pc = (e :: r, (pc + 4) % 2 ^ 57)) ∧
  (∀ e r, 1 < e.count → loopEnd (e :: r) e.stop = ({ e with count := e.count - 1 } :: r, e.start)) ∧
  (∀ e r, e.count ≤ 1 → loopEnd (e :: r) e.stop = loopEnd r e.stop) ∧
  (∀ e r t, e.start ≤ t → t ≤ e.stop → unwind (e :: r) t = e :: r) ∧
  (∀ e r t, t < e.start ∨ e.stop < t → unwind (e :: r) t = unwind r t) ∧
  (∀ l t, (unwind l t).length ≤ l.length) ∧ (∀ l pc, (loopEnd l pc).1.length ≤ l.length)

/-- Branches, loops and the loop stack.
The model's choice, where the manual leaves it open: which calls are divided, which the split counts in div (log entry 138). -/
def Obligations.BranchesAndLoopStack : Prop :=
  Sys2Proof.Claim.BranchesAndLoops ∧ Sys2Proof.Claim.LoopStackRules

/-- BRD (R43, R250): kr gets the split's mask, read after kc; a split that divides keeps the taken lanes at the target, and the others go
on in the lowest FREE entry, or wait in the deferred slot; with neither it raises SPLITX. -/
def Sys2Proof.Claim.BrdDivides : Prop :=
  ∀ (s : State) (c : Cx) (r k : BitVec 4) (d : BitVec 18),
    let m := c.split.mask
    let disp : Int := match c.hint 0 with | some p => (p ++ d).toInt | none => d.toInt
    let target := (((c.split.pc : Int) + 4 * disp) % (2 ^ 57 : Int)).toNat
    let taken := m &&& c.k k.toNat
    let rest := m &&& ~~~taken
    let rejoin := fun (w : Warp) => w.putK c.grid.w r.toNat m
    let next := loopEnd c.split.loops c.split.pc
    let moved := s.afterAt c (unwind c.split.loops target) target rejoin
    r ≠ 0 → Ready s c (once true accImm c [[.k k.toNat]] [.k r.toNat]) →
      (taken = 0 → exec (.brd r k d) s = .next (s.after c rejoin)) ∧
      (taken ≠ 0 → rest = 0 → exec (.brd r k d) s = .next moved) ∧
      (taken ≠ 0 → rest ≠ 0 → ∀ f, freeEntry c.warp.splits = some f →
        exec (.brd r k d) s = .next (moved.onWarp c (fun w =>
          (w.setSplit c.sp (fun p => { p with mask := taken })).setSplit f (fun p =>
            { p with
              st := .run
              pc := next.2
              mask := rest
              loops := next.1
              mark := c.split.mark
              stamp := s.slotCyc c.warp.core c.warp.slot + 1
              since := s.slotCyc c.warp.core c.warp.slot + 1
              wait := .ready
              hints := []
              promoted := false
              stall := 0
              imp := false
              div := c.split.div })))) ∧
      (taken ≠ 0 → rest ≠ 0 → freeEntry c.warp.splits = none →
        (c.split.defSt = .empty →
          exec (.brd r k d) s = .next (moved.onWarp c (fun w => w.setSplit c.sp (fun p =>
            { p with mask := taken, defSt := .pending, dpc := next.2, dmask := rest, dloops := next.1, ddiv := c.split.div })))) ∧
        (c.split.defSt ≠ .empty → exec (.brd r k d) s = .next (s.trap c .splitx m 0)))

/-- CALLI, RET and JOIN (R44, R45, R257, R258): lanes with one target go on together; otherwise the groups are placed in ascending order
of target, the later ones in FREE entries and what is left over in the deferred slot. Groups that find no place, or a CALLI that divides
in a split whose marker names another address, raise SPLITX and change nothing. -/
def Sys2Proof.Claim.CallsAndJoins : Prop :=
  ∀ (s : State) (c : Cx) (a : BitVec 7),
    let m := c.split.mask
    let loops := c.split.loops
    let st := s.slotCyc c.warp.core c.warp.slot + 1
    let ra := (c.split.pc + 4) % 2 ^ 57
    let link := fun (x : Mask) => (lanes x).flatMap (fun l => [RegWrite.v 0 l (BitVec.ofNat 32 ra) false,
      .v 1 l (BitVec.ofNat 32 (ra / 2 ^ 32 + loops.length * 2 ^ 25)) false])
    let free := entriesWith c.warp.splits (fun p => p.st == .free)
    -- CALLI
    (let target := fun (l : Nat) => (c.warp.dreg a.toNat l).toNat % 2 ^ 57
     let bad := (lanes m).filter (fun l => decide (target l % 4 ≠ 0))
     let groups := groupLanes ((lanes m).map (fun l => (l, target l, 0)))
     even a = true → c.vok a.toNat 2 = true → m ≠ 0 → Ready s c (perLane true Accept.none c [vref a.toNat 2] [.v 0, .v 1]) →
       (bad ≠ [] → exec (.calli a) s = .next (s.trap c .misalign (maskOf bad) (target (bad.headD 0)))) ∧
       (bad = [] → ∀ g, groups = [g] →
         exec (.calli a) s = .next ((s.afterAt c loops g.1 (fun w => w.writeAll c.grid.w (link m))).onWarp c (fun w =>
           w.setSplit c.sp (fun p => { p with div := c.warp.callDiv c.split })))) ∧
       (bad = [] → ∀ g h more, groups = g :: h :: more →
         let pl := placeGroups free (h :: more)
         let mk := match c.split.mark with | some k => k.2 | none => m
         (∀ k ∈ c.split.mark, k.1 = ra) → (pl.2 = 0 ∨ c.split.defSt = .empty) →
         exec (.calli a) s = .next ((((((s.tick c).onWarp c (fun w => w.writeAll c.grid.w (link (m &&& ~~~pl.2)))).onWarp c
           (fun w => w.divideTo c pl.1 pl.2 (some (ra, mk)) (fun _ => loops) (c.split.div + 1) st)).place c g.1 g.2.2 loops
             (c.split.div + 1))).onWarp c
           (fun w => w.setSplit c.sp (fun p => { p with mark := some (ra, mk) })))) ∧
       (bad = [] → ∀ g h more, groups = g :: h :: more →
         (∃ k ∈ c.split.mark, k.1 ≠ ra) ∨ ((placeGroups free (h :: more)).2 ≠ 0 ∧ c.split.defSt ≠ .empty) →
         exec (.calli a) s = .next (s.trap c .splitx m 0))) ∧
    -- RET
    (let target := fun (l : Nat) => (c.warp.vreg 0 l).toNat + (c.warp.vreg 1 l).toNat % 2 ^ 25 * 2 ^ 32
     let depth := fun (l : Nat) => (c.warp.vreg 1 l).toNat / 2 ^ 25 % 8
     let bad := (lanes m).filter (fun l => decide (target l % 4 ≠ 0))
     let groups := groupLanes ((lanes m).map (fun l => (l, target l, depth l)))
     m ≠ 0 → Ready s c { perLane true Accept.none c [] [] with
         hidden := [.v 0, .v 1], poison := c.poisonLanes [[.v 0, .v 1]] } →
       (bad ≠ [] → exec .ret s = .next (s.trap c .misalign (maskOf bad) (target (bad.headD 0)))) ∧
       (bad = [] → ∀ g, groups = [g] → c.split.mark = none →
         exec .ret s = .next ((s.tick c).place c g.1 g.2.2 (cutLoops loops g.2.1) (c.split.div - 1))) ∧
       (bad = [] → ∀ g more, groups = g :: more →
         let pl := placeGroups free more
         (pl.2 = 0 ∨ c.split.defSt = .empty) →
         exec .ret s = .next ((((s.tick c).onWarp c (fun w =>
             w.divideTo c pl.1 pl.2 c.split.mark (fun n => cutLoops loops n) (c.split.div - 1) st)).place c g.1 g.2.2
               (cutLoops loops g.2.1) (c.split.div - 1)).onWarp c
           (fun w => ((c.sp, g.1) :: pl.1.map (fun q => (q.1, q.2.1))).foldl (fun w u =>
             match (w.split u.1).mark with
             | some k => if k.1 = u.2 then w.joinAt u.1 u.2 k.2 true st else w
             | none => w) w))) ∧
       (bad = [] → ∀ g more, groups = g :: more → (placeGroups free more).2 ≠ 0 → c.split.defSt ≠ .empty →
         exec .ret s = .next (s.trap c .splitx m 0))) ∧
    -- JOIN
    (kreg a = true → Ready s c (once true Accept.none c [[.k a.toNat]] []) →
      (c.k a.toNat &&& c.warp.alive &&& ~~~m = 0 → exec (.join a) s = .next (s.after c id)) ∧
      (c.k a.toNat &&& c.warp.alive &&& ~~~m ≠ 0 → exec (.join a) s = .next ((s.tick c).onWarp c (fun w =>
        let y := w.joinAt c.sp c.split.pc (c.k a.toNat) false st
        { y with skid := if y.laneParked (lowLane m) = true then c.warp.skid else y.skid }))))

/-- BRD, CALLI, RET and JOIN divide and join splits; with no entry and no slot left they raise SPLITX.
The model's choice, where the manual leaves it open: how lanes parked at a JOIN or at an implicit join merge (log entry 27), which
calls are divided, which the split counts in div (log entry 138) and a BRD that takes no lane (log entry 150). -/
def Obligations.SplitsDivideAndJoin : Prop :=
  Sys2Proof.Claim.BrdDivides ∧ Sys2Proof.Claim.CallsAndJoins

/-- WAITC, BAR, YIELD, EXIT and the traps on purpose (R262 to R265, R269, R270).
The model's choice, where the manual leaves it open: what an acquire applies and what a release waits for (log entry 25). That YIELD in
a halting workgroup does nothing is the model's too (log entry 158). -/
def Obligations.WaitsAndEnds : Prop :=
  ∀ (s : State) (c : Cx) (a p bs : BitVec 7) (n : BitVec 14),
    let m := c.split.mask
    let quiet := c.warp.peer = none ∧ c.warp.late = none
    -- WAITC waits for the counter, and raises a pending PEER or LATE
    (p.toNat ≤ 4 → Ready s c (once true Accept.none c [[.s a.toNat]] []) → (p = 1 → c.warp.peer = none) → (p = 4 → c.warp.late = none) →
      let count := match p.toNat with
        | 0 => c.warp.gld | 1 => c.warp.gst | 2 => c.warp.lrm | 3 => c.warp.tcp | _ => c.warp.tmd
      (count ≤ (c.warp.sreg a.toNat).toNat → exec (.waitc a p) s = .next (s.after c id)) ∧
      ((c.warp.sreg a.toNat).toNat < count → exec (.waitc a p) s = .next s)) ∧
    (Ready s c (once true Accept.none c [[.s a.toNat]] []) →
      (∀ x, c.warp.peer = some x →
        exec (.waitc a 1) s = .next ((s.onWarp c (fun w => { w with peer := none })).trap c .peer x.1 x.2)) ∧
      (∀ x, c.warp.late = some x →
        exec (.waitc a 4) s = .next ((s.onWarp c (fun w => { w with late := none })).trap c .late x 0))) ∧
    -- BAR parks the split, and the last arrival lets all depart
    (bs = 2 ∨ bs = 3 ∨ bs = 5 → Ready s c (once true Accept.none c [] []) → (bs = 5 → c.grid.coop = true) →
      (∀ q ∈ c.warp.splits, q.st = .run → ∀ x, q.wait = .bar x → x = bs.toNat) →
      (s.released c.w c.die bs.toNat = true → exec (.bar bs) s = .next ((s.hold c (.bar bs.toNat)).openBar c.gid bs.toNat)) ∧
      (s.released c.w c.die bs.toNat = false → exec (.bar bs) s = .next s)) ∧
    (Ready s c (once true Accept.none c [] []) →
      -- YIELD
      (c.ctx.req = false ∨ c.group.st ≠ .running → exec .yield s = .next (s.after c id)) ∧
      (c.ctx.req = true → c.group.st = .running → exec .yield s = .next ((s.after c id).haltWarp c.w .yielded true)) ∧
      -- EXIT
      (c.warp.gst = 0 → c.warp.tmd = 0 → quiet →
        exec .exit s = .next (((s.tick c).onWarp c (fun w =>
          w.exitLanes c.sp (s.slotCyc c.warp.core c.warp.slot + 1))).exitCheck c.w c.gid)) ∧
      (c.warp.gst ≠ 0 ∨ c.warp.tmd ≠ 0 → exec .exit s = .next s) ∧
      (c.warp.gst = 0 → c.warp.tmd = 0 →
        (∀ x, c.warp.peer = some x → exec .exit s = .next ((s.onWarp c (fun w => { w with peer := none })).trap c .peer x.1 x.2)) ∧
        (∀ x, c.warp.peer = none → c.warp.late = some x →
          exec .exit s = .next ((s.onWarp c (fun w => { w with late := none })).trap c .late x 0))) ∧
      -- TRAP, TRAP.BIND, BKPT
      exec (.trap n) s = .next (s.trap c .swtrap m 0) ∧ exec (.trapBind n) s = .next (s.trap c .bind m 0) ∧
      exec (.bkpt n) s = .next (s.trap c .bkpt m 0))

/-- SRD and QCAP (R267, R268).
The model's choice, where the manual leaves it open: that a read of FSTAT waits for pending results (log entry 33) and the bits of
MMA_FMT (log entry 34). -/
def Obligations.SpecialRegisterReads : Prop :=
  ∀ (s : State) (c : Cx) (d a : BitVec 7),
    let W := c.grid.w
    let lin := c.group.lin
    let lane := fun (n : Nat) (v : Nat → Nat) => Ready s c (once (c.vok d.toNat 1) Accept.none c [] [.v d.toNat]) →
      exec (.srd d (BitVec.ofNat 7 n)) s = .next (s.after c (fun w => w.writeAll W
        ((lanes c.split.mask).map (fun l => .v d.toNat l (BitVec.ofNat 32 (v l)) false))))
    let word := fun (n v : Nat) => Ready s c (once true Accept.none c [] [.s d.toNat]) →
      exec (.srd d (BitVec.ofNat 7 n)) s = .next (s.after c (fun w => w.putS d.toNat (BitVec.ofNat 32 v) false))
    let pair := fun (n v : Nat) => even d = true → Ready s c (once true Accept.none c [] (qref d.toNat)) →
      exec (.srd d (BitVec.ofNat 7 n)) s = .next (s.afterSlow c (qref d.toNat)
        [.s d.toNat (BitVec.ofNat 32 v) false, .s (d.toNat + 1) (BitVec.ofNat 32 (v / 2 ^ 32)) false] 0)
    lane 0 (fun l => l) ∧ word 1 c.warp.idx ∧ word 2 c.group.warps.length ∧ word 3 W ∧
    word 4 (lin % c.grid.x) ∧ word 5 (lin / c.grid.x % c.grid.y) ∧ word 6 (lin / c.grid.x / c.grid.y) ∧
    word 7 c.grid.x ∧ word 8 c.grid.y ∧ word 9 c.grid.z ∧ lane 10 (fun l => c.warp.idx * W + l) ∧
    word 11 (if c.grid.cluster = 0 then 0 else lin % c.grid.cluster) ∧ word 12 c.grid.depth ∧ word 13 c.die ∧
    word 14 (c.warp.core % 384 % 192 + field (c.warp.core % 384 / 192) 8 1 + field (c.warp.core / 384) 9 2) ∧
    word 15 c.warp.slot ∧ pair 16 (s.die c.die).time ∧ pair 17 (s.slotCyc c.warp.core c.warp.slot) ∧
    (s.resultPending c.w = false → Ready s c (once true Accept.none c [] [.s d.toNat]) →
      let reads := s.afterSlow c [.s d.toNat] [.s d.toNat (c.warp.fstat.zeroExtend 32) false] 0
      exec (.srd d 18) s = .next reads ∧
      exec (.srd d 19) s = .next (reads.onWarp c (fun w => { w with fstat := 0 }))) ∧
    (even d = true → Ready s c (once true Accept.none c [[.s a.toNat]] (qref d.toNat)) →
      let v := s.cap c.warp.core (c.warp.sreg a.toNat).toNat
      exec (.qcap d a) s = .next (s.afterSlow c (qref d.toNat)
        [.s d.toNat (BitVec.ofNat 32 (v.getD 0)) false, .s (d.toNat + 1) (if v.isSome then 1 else 0) false] 0))

/-! ### Loads, stores and atomics -/

namespace Sys2Proof.Machine

/-- The state in which the issued instruction holds its split until the pending operation n ends (R310, R335): its warp changed by f,
the slot's clock one further, the split stamped with it, and everything else as it was. -/
def State.holdsAt (s : State) (c : Cx) (n : Nat) (f : Warp → Warp) : State :=
  let x := f c.warp
  { s with
    cyc := tset 0 s.cyc (4 * c.warp.core + c.warp.slot) (s.slotCyc c.warp.core c.warp.slot + 1)
    warps := tput s.warps c.w
      { x with
        replay := none
        owed := []
        last := c.sp
        splits := lset x.splits c.sp { x.split c.sp with
          wait := .op n
          stamp := s.slotCyc c.warp.core c.warp.slot + 1
          since := s.slotCyc c.warp.core c.warp.slot + 1
          promoted := false } } }

/-- Some lane is active, the translation register is valid, every active lane's address is aligned, and each lane reaches plain memory
(no fault, not the BF16 window): at pa l, on a page whose PMODE is pm l, through a frame taken under the ASID asn l. -/
structure PlainLanes (s : State) (c : Cx) (tr : TReg) (n : Need) (z : Nat) (off : Nat → Int) (pa pm : Nat → Nat)
    (asn : Nat → Option Nat) (ac : Nat → Bool) : Prop where
  some : c.combined ≠ 0
  valid : tr.valid = true
  aligned : ∀ l ∈ lanes c.combined, vaAt tr.base (off l) % z = 0
  paths : ∀ l ∈ lanes c.combined,
    s.reach c.seat c.grid.ctx tr n z l (off l) = .ok ⟨l, vaAt tr.base (off l), pa l, [], [], none, pm l, asn l⟩ (ac l)

/-- One more operation on a path, unless a replayed instruction kept its raise (R90, R91). -/
def Cx.counted (c : Cx) (p : Path) (x : Warp) : Warp := if c.keeps p then x else x.setCount p (x.count p + 1)

/-- The global loads of R309: operand check, bytes, sign extension, and the operands. -/
def globalLoad : Instr → Option (Bool × Nat × Bool × BitVec 7 × BitVec 3 × BitVec 7 × BitVec 5)
  | .ldB d t v i => some (true, 1, false, d, t, v, i)
  | .ldSb d t v i => some (true, 1, true, d, t, v, i)
  | .ldH d t v i => some (true, 2, false, d, t, v, i)
  | .ldSh d t v i => some (true, 2, true, d, t, v, i)
  | .ldW d t v i => some (true, 4, false, d, t, v, i)
  | .ldD d t v i => some (even d, 8, false, d, t, v, i)
  | .ldQ d t v i => some (mult 4 d, 16, false, d, t, v, i)
  | _ => none

/-- The global stores of R309. -/
def globalStore : Instr → Option (Bool × Nat × BitVec 7 × BitVec 3 × BitVec 7 × BitVec 5)
  | .stB d t v i => some (true, 1, d, t, v, i)
  | .stH d t v i => some (true, 2, d, t, v, i)
  | .stW d t v i => some (true, 4, d, t, v, i)
  | .stD d t v i => some (even d, 8, d, t, v, i)
  | .stQ d t v i => some (mult 4 d, 16, d, t, v, i)
  | _ => none

/-- The atomics of R312 and R313: operand check, operation, bytes of the location, whether the old value returns, operands. -/
def atomicForm : Instr → Option (Bool × AtomFn × Nat × Bool × BitVec 7 × BitVec 3 × BitVec 7 × BitVec 5)
  | .atomAdd d t v i => some (true, .add, 4, true, d, t, v, i)
  | .atomAnd d t v i => some (true, .and, 4, true, d, t, v, i)
  | .atomOr d t v i => some (true, .or, 4, true, d, t, v, i)
  | .atomXor d t v i => some (true, .xor, 4, true, d, t, v, i)
  | .atomMin d t v i => some (true, .min, 4, true, d, t, v, i)
  | .atomMax d t v i => some (true, .max, 4, true, d, t, v, i)
  | .atomMinU d t v i => some (true, .minU, 4, true, d, t, v, i)
  | .atomMaxU d t v i => some (true, .maxU, 4, true, d, t, v, i)
  | .atomExch d t v i => some (true, .exch, 4, true, d, t, v, i)
  | .atomAddD d t v i => some (even d, .add, 8, true, d, t, v, i)
  | .atomExchD d t v i => some (even d, .exch, 8, true, d, t, v, i)
  | .atomFadd d t v i => some (true, .fadd, 4, true, d, t, v, i)
  | .atomAddPosted d t v i => some (true, .add, 4, false, d, t, v, i)
  | .atomAndPosted d t v i => some (true, .and, 4, false, d, t, v, i)
  | .atomOrPosted d t v i => some (true, .or, 4, false, d, t, v, i)
  | .atomXorPosted d t v i => some (true, .xor, 4, false, d, t, v, i)
  | .atomMinPosted d t v i => some (true, .min, 4, false, d, t, v, i)
  | .atomMaxPosted d t v i => some (true, .max, 4, false, d, t, v, i)
  | .atomMinUPosted d t v i => some (true, .minU, 4, false, d, t, v, i)
  | .atomMaxUPosted d t v i => some (true, .maxU, 4, false, d, t, v, i)
  | .atomExchPosted d t v i => some (true, .exch, 4, false, d, t, v, i)
  | .atomAddDPosted d t v i => some (even d, .add, 8, false, d, t, v, i)
  | .atomExchDPosted d t v i => some (even d, .exch, 8, false, d, t, v, i)
  | .atomFaddPosted d t v i => some (true, .fadd, 4, false, d, t, v, i)
  | .casW d t v i => some (even d, .cas, 4, true, d, t, v, i)
  | .casD d t v i => some (mult 4 d, .cas, 8, true, d, t, v, i)
  | .casQ d t v i => some (mult 8 d, .cas, 16, true, d, t, v, i)
  | _ => none

/-- The private loads and stores of R309. -/
def privateLoad : Instr → Option (Bool × Nat × Bool × BitVec 7 × BitVec 7 × BitVec 5)
  | .ldPrvB d v i => some (true, 1, false, d, v, i)
  | .ldPrvSb d v i => some (true, 1, true, d, v, i)
  | .ldPrvH d v i => some (true, 2, false, d, v, i)
  | .ldPrvSh d v i => some (true, 2, true, d, v, i)
  | .ldPrvW d v i => some (true, 4, false, d, v, i)
  | .ldPrvD d v i => some (even d, 8, false, d, v, i)
  | _ => none
def privateStore : Instr → Option (Bool × Nat × BitVec 7 × BitVec 7 × BitVec 5)
  | .stPrvB d v i => some (true, 1, d, v, i)
  | .stPrvH d v i => some (true, 2, d, v, i)
  | .stPrvW d v i => some (true, 4, d, v, i)
  | .stPrvD d v i => some (even d, 8, d, v, i)
  | _ => none

/-- The offset of lane l (R304): its offset element plus the scaled immediate. -/
def Cx.laneOff (c : Cx) (v : BitVec 7) (im : BitVec 5) (z l : Nat) : Int := (c.warp.vreg v.toNat l).toInt + c.imm 5 im.toNat * z

end Sys2Proof.Machine

/-- A global load (R304, R306, R309, R310): GLD is raised, the destination is empty and a pending load holds each active lane's address;
the split goes on, or holds for an acquire or an access that may leave the module. With no active lane it does nothing, and with
GLD full it waits. Memory, and every other register, is as before. -/
def Sys2Proof.Claim.GlobalLoadsIssue : Prop :=
  ∀ (s : State) (c : Cx) (i : Instr) (wf : Bool) (z : Nat) (sx : Bool) (d : BitVec 7) (t : BitVec 3) (v : BitVec 7) (im : BitVec 5)
    (pa pm : Nat → Nat) (asn : Nat → Option Nat) (ac : Nat → Bool),
    globalLoad i = some (wf, z, sx, d, t, v, im) →
    let tr := c.warp.treg t.toNat
    let off := c.laneOff v im z
    let regs := vref d.toNat (groupRegs z)
    let accs := (lanes c.combined).map (fun l => (⟨l, vaAt tr.base (off l), pa l, [], [], none, pm l, asn l⟩ : LaneAcc))
    let op := OpKind.load accs z sx d.toNat c.order c.scope 0 ⟨tr.base, c.imm 5 im.toNat * z, bit c.mod8 0⟩
    let f := fun (x : Warp) => (c.counted .gld x).markAll true regs
    Ready s c (perLane (wf && c.vok v.toNat 1 && c.vok d.toNat (groupRegs z)) (accMem loadOrd naMod8) c [[.t t.toNat], vref v.toNat 1] regs) →
      (c.combined = 0 → exec i s = .next (s.after c id)) ∧
      (c.combined ≠ 0 → c.room .gld 1 = false → exec i s = .next s) ∧
      (c.room .gld 1 = true → PlainLanes s c tr .load z off pa pm asn ac →
        (∀ l ∈ lanes c.combined, pm l = 1 → s.poisoned (pa l) z = false) →
        exec i s = .next (if c.order = 1 ∨ (lanes c.combined).any (fun l => s.outbound (pa l)) = true
          then (s.pend c regs (some (.gld, 1)) op).holdsAt c s.uid f else (s.pend c regs (some (.gld, 1)) op).after c f))

/-- A global store (R304 to R309, R112): GST is raised, and its bytes are one posted write that its die sees at once; it waits for the
warp's own earlier accesses to the bytes, and as a release for what it orders. A poisoned register of the group poisons its own word and no
other (R102). Home memory and every register are as before. -/
def Sys2Proof.Claim.GlobalStoresIssue : Prop :=
  ∀ (s : State) (c : Cx) (i : Instr) (wf : Bool) (z : Nat) (d : BitVec 7) (t : BitVec 3) (v : BitVec 7) (im : BitVec 5)
    (pa pm : Nat → Nat) (asn : Nat → Option Nat) (ac : Nat → Bool),
    globalStore i = some (wf, z, d, t, v, im) →
    let tr := c.warp.treg t.toNat
    let off := c.laneOff v im z
    let regs := vref d.toNat (groupRegs z)
    let bad := fun (l : Nat) => (List.range (groupRegs z)).filter (fun k => c.warp.vPois (d.toNat + k) l)
    let accs := (lanes c.combined).map (fun l =>
      (⟨l, vaAt tr.base (off l), pa l, c.groupBytes d.toNat z l, bad l, none, pm l, asn l⟩ : LaneAcc))
    let cells := (lanes c.combined).flatMap (fun l => cellsAt (pa l) (c.groupBytes d.toNat z l))
    let spans := (lanes c.combined).flatMap (fun l => (pa l, z, false) :: (bad l).map (fun k => (pa l + 4 * k, min z 4, true)))
    let sys := decide (c.order = 2 ∧ c.scope = 6)
    let s0 := if sys then s.writeBackSeen c.die else s
    let i0 := perLane (wf && c.vok v.toNat 1 && c.vok d.toNat (groupRegs z)) (accMem storeOrd naMod8) c
      [[.t t.toNat], vref v.toNat 1, regs] []
    Ready s c { i0 with poison := c.poisonLanes [vref v.toNat 1] } →
      (c.combined = 0 → exec i s = .next (s.after c id)) ∧
      (c.combined ≠ 0 → c.room .gst 1 = false → exec i s = .next s) ∧
      (c.room .gst 1 = true → PlainLanes s c tr .store z off pa pm asn ac →
        (s.behind c.w accs z = true ∨ (c.order = 2 ∧ s.released c.w c.die c.scope = false) → exec i s = .next s) ∧
        (s.behind c.w accs z = false → (c.order = 2 → s.released c.w c.die c.scope = true) →
          exec i s = .next (((s0.post c.die cells spans).1.pend c [] (some (.gst, 1)) (.store s.uid accs z sys)).after c (c.counted .gst))))

/-- What a posted write changes (R26, R105, R108, R307): its die sees every byte of the cells at once, the last cell of an address
winning; every other byte, every other die's view, and home memory are as before. -/
def Sys2Proof.Claim.StoresAreSeenAtOnce : Prop :=
  ∀ (s : State) (d : Nat) (cells : List Host.Cell) (spans : List (Nat × Nat × Bool)) (a e : Nat),
    let t := (s.post d cells spans).1
    (∀ pre b post, cells = pre ++ (a, b) :: post → (∀ x ∈ post, x.1 ≠ a) → t.viewByte d a = b) ∧
    ((∀ x ∈ cells, x.1 ≠ a) → t.viewByte d a = s.viewByte d a) ∧
    (e ≠ d → t.viewByte e a = s.viewByte e a) ∧ t.mem = s.mem ∧ t.wlog = s.wlog ∧ t.warps = s.warps ∧ t.ops = s.ops

/-- Global loads and stores issue; a store is seen at once.
The model's choice, where the manual leaves it open: that the lanes of one load, store or atomic are performed together, in a later
step (log entry 24), what an acquire applies and what a release waits for (log entry 25), that an access waits for an older one of its
warp which R108 orders before it (log entry 28), which page's PMODE counts (log entry 37) and which accesses to the host hold their
split, and the record of one that aborts (log entry 38). -/
def Obligations.GlobalAccessesIssue : Prop :=
  Sys2Proof.Claim.GlobalLoadsIssue ∧ Sys2Proof.Claim.GlobalStoresIssue ∧ Sys2Proof.Claim.StoresAreSeenAtOnce

/-- An atomic or CAS (R306, R307, R312 to R314): its path's counter is raised, the operation is pending with each lane's operand bytes,
and an acquire or an access that may leave the module holds the split; no memory changes yet. A system-scope form on a page
without the capability raises ATOMCAP. -/
def Sys2Proof.Claim.AtomicsIssue : Prop :=
  ∀ (s : State) (c : Cx) (i : Instr) (wf : Bool) (fn : AtomFn) (z : Nat) (ret : Bool) (d : BitVec 7) (t : BitVec 3) (v : BitVec 7)
    (im : BitVec 5) (pa pm : Nat → Nat) (asn : Nat → Option Nat) (ac : Nat → Bool),
    atomicForm i = some (wf, fn, z, ret, d, t, v, im) →
    let tr := c.warp.treg t.toNat
    let off := c.laneOff v im z
    let size := if fn = .cas then 2 * z else z
    let regs := vref d.toNat (groupRegs size)
    let dst := if ret then regs else []
    let path := if ret then Path.gld else .gst
    let accs := (lanes c.combined).map (fun l =>
      (⟨l, vaAt tr.base (off l), pa l, c.groupBytes d.toNat size l, [], none, pm l, asn l⟩ : LaneAcc))
    let op := OpKind.atom fn accs z (if ret then some d.toNat else none) c.order c.scope
    let low := (lanes c.combined).filter (fun l => !ac l)
    let f := fun (x : Warp) => (c.counted path x).markAll true dst
    let release := c.order = 2 ∨ c.order = 3
    let s0 := if release ∧ c.scope = 6 then s.writeBackSeen c.die else s
    Ready s c (perLane (wf && c.vok v.toNat 1 && c.vok d.toNat (groupRegs size)) (accMem atomOrd noMod8) c
        [[.t t.toNat], vref v.toNat 1, regs] dst) →
      (c.combined = 0 → exec i s = .next (s.after c id)) ∧
      (c.combined ≠ 0 → c.room path 1 = false → exec i s = .next s) ∧
      (c.room path 1 = true → PlainLanes s c tr .atomic z off pa pm asn ac →
        (c.order ≠ 0 → c.scope = 6 → low ≠ [] →
          exec i s = .next (s.trap c .atomcap (maskOf low) (vaAt tr.base (off (low.headD 0))))) ∧
        ((c.order = 0 ∨ c.scope ≠ 6 ∨ low = []) →
          (s.behind c.w accs z = true ∨ (release ∧ s.released c.w c.die c.scope = false) → exec i s = .next s) ∧
          (s.behind c.w accs z = false → (release → s.released c.w c.die c.scope = true) →
            exec i s = .next (if c.order = 1 ∨ c.order = 3 ∨ (lanes c.combined).any (fun l => s.outbound (pa l)) = true
              then (s0.pend c dst (some (path, 1)) op).holdsAt c s.uid f else (s0.pend c dst (some (path, 1)) op).after c f))))

/-- The order of the checks of R306 before a lane is translated, for global loads, stores and atomics: an invalid translation register
is ACCESS for every lane; a misaligned address is MISALIGN for its lanes, with the lowest such address; then an atomic in the
BF16 window is ACCESS, and a byte access there MISALIGN. -/
def Sys2Proof.Claim.MemoryChecksInOrder : Prop :=
  ∀ (s : State) (c : Cx) (i : Instr) (wf sx ret : Bool) (fn : AtomFn) (z : Nat) (d : BitVec 7) (t : BitVec 3) (v : BitVec 7) (im : BitVec 5),
    let tr := c.warp.treg t.toNat
    let off := c.laneOff v im z
    let on := lanes c.combined
    let bad := on.filter (fun l => decide (vaAt tr.base (off l) % z ≠ 0))
    let win := on.filter (fun l => s.inWindow c.seat c.grid.ctx tr z (off l))
    let at' := fun (l : List Nat) => vaAt tr.base (off (l.headD 0))
    let checks := fun (path : Path) (inWin : TrapCode) (stops : Bool) =>
      c.combined ≠ 0 → c.room path 1 = true →
        (tr.valid = false → exec i s = .next (s.trap c .access c.combined 0)) ∧
        (tr.valid = true → bad ≠ [] → exec i s = .next (s.trap c .misalign (maskOf bad) (at' bad))) ∧
        (tr.valid = true → bad = [] → win ≠ [] → stops = true →
          exec i s = .next (s.trap c inWin (maskOf win) (at' win)))
    (globalLoad i = some (wf, z, sx, d, t, v, im) →
      Ready s c (perLane (wf && c.vok v.toNat 1 && c.vok d.toNat (groupRegs z)) (accMem loadOrd naMod8) c
        [[.t t.toNat], vref v.toNat 1] (vref d.toNat (groupRegs z))) → checks .gld .misalign (z == 1)) ∧
    (globalStore i = some (wf, z, d, t, v, im) →
      Ready s c { perLane (wf && c.vok v.toNat 1 && c.vok d.toNat (groupRegs z)) (accMem storeOrd naMod8) c
        [[.t t.toNat], vref v.toNat 1, vref d.toNat (groupRegs z)] [] with poison := c.poisonLanes [vref v.toNat 1] } →
      checks .gst .misalign (z == 1)) ∧
    (let size := if fn = .cas then 2 * z else z
     let regs := vref d.toNat (groupRegs size)
     atomicForm i = some (wf, fn, z, ret, d, t, v, im) →
      Ready s c (perLane (wf && c.vok v.toNat 1 && c.vok d.toNat (groupRegs size)) (accMem atomOrd noMod8) c
        [[.t t.toNat], vref v.toNat 1, regs] (if ret then regs else [])) → checks (if ret then .gld else .gst) .access true)

/-- Atomics issue, and the order of the checks of a memory access.
The model's choice, where the manual leaves it open: the order of the checks that R68 and R223 leave open (log entry 15), what an
acquire applies and what a release waits for (log entry 25) and which accesses to the host hold their split, and the record of one that
aborts (log entry 38). -/
def Obligations.AtomicsIssueAfterTheChecks : Prop :=
  Sys2Proof.Claim.AtomicsIssue ∧ Sys2Proof.Claim.MemoryChecksInOrder

/-- Private loads and stores (R85, R86, R306, R309): a misaligned offset is MISALIGN and one outside the declared bytes ACCESS; a load
is pending, and a store is seen by its thread at once, at the addresses that R85 gives its bytes, and counted in GST. -/
def Sys2Proof.Claim.PrivateLoadsAndStores : Prop :=
  ∀ (s : State) (c : Cx) (i : Instr) (wf sx : Bool) (z : Nat) (d v : BitVec 7) (im : BitVec 5),
    let off := c.laneOff v im z
    let on := lanes c.combined
    let regs := vref d.toNat (groupRegs z)
    let limit : Int := ceilDiv c.grid.priv 4 * 4
    let bad := on.filter (fun l => decide (off l % z ≠ 0))
    let out := on.filter (fun l => decide (off l < 0 ∨ limit < off l + z))
    let low := fun (l : List Nat) => toBits (off (l.headD 0)) 64
    let traps := c.combined ≠ 0 →
      (bad ≠ [] → exec i s = .next (s.trap c .misalign (maskOf bad) (low bad))) ∧
      (bad = [] → out ≠ [] → exec i s = .next (s.trap c .access (maskOf out) (low out)))
    let place := fun (l k : Nat) =>
      let o := (off l).toNat + k
      c.group.priv + o / 4 * 4 * (c.group.warps.length * c.grid.w) + 4 * (c.warp.idx * c.grid.w + l) + o % 4
    (privateLoad i = some (wf, z, sx, d, v, im) →
      Ready s c (perLane (wf && c.vok v.toNat 1 && c.vok d.toNat (groupRegs z)) (accMem loadOrd naMod8) c [vref v.toNat 1] regs) →
      let accs := on.map (fun l => (⟨l, (off l).toNat, 0, [], [], none, 0, none⟩ : LaneAcc))
      let op := OpKind.load accs z sx d.toNat c.order c.scope 1 ⟨0, c.imm 5 im.toNat * z, bit c.mod8 0⟩
      let f := fun (x : Warp) => (c.counted .gld x).markAll true regs
      (c.combined = 0 → exec i s = .next (s.after c id)) ∧
      (c.combined ≠ 0 → c.room .gld 1 = false → exec i s = .next s) ∧
      (c.room .gld 1 = true → traps) ∧
      (c.combined ≠ 0 → c.room .gld 1 = true → bad = [] → out = [] →
        exec i s = .next (if c.order = 1 then (s.pend c regs (some (.gld, 1)) op).holdsAt c s.uid f
          else (s.pend c regs (some (.gld, 1)) op).after c f))) ∧
    (privateStore i = some (wf, z, d, v, im) →
      Ready s c { perLane (wf && c.vok v.toNat 1 && c.vok d.toNat (groupRegs z)) (accMem storeOrd naMod8) c [vref v.toNat 1, regs] []
        with poison := c.poisonLanes [vref v.toNat 1] } →
      (c.combined = 0 → exec i s = .next (s.after c id)) ∧
      (c.combined ≠ 0 → c.room .gst 1 = false → exec i s = .next s) ∧
      (c.room .gst 1 = true → traps) ∧
      (c.combined ≠ 0 → c.room .gst 1 = true → bad = [] → out = [] →
        s.privBehind c.w z (on.map (fun l => (l, off l))) = false → (c.order = 2 → s.released c.w c.die c.scope = true) →
        ∃ t, exec i s = .next t ∧ t.mem = s.mem ∧ t.posted = s.posted ∧
          t.warps = (s.after c (c.counted .gst)).warps ∧
          t.ops = (s.pend c [] (some (.gst, 1)) .privStore).ops ∧
          (∀ l ∈ on, ∀ k < z, (∀ m ∈ on, ∀ j < z, place m j = place l k → m = l ∧ j = k) →
            tfind t.privMem (place l k) = some ((c.groupBytes d.toNat z l).getD k 0)) ∧
          (∀ a, (∀ l ∈ on, ∀ k < z, place l k ≠ a) → tfind t.privMem a = tfind s.privMem a)))

/-! ### Pending operations end -/

namespace Sys2Proof.Machine

/-- The operation n is pending, no other has its number, and on its path, if it counts on one, it is the oldest and no younger one has
ended before it (R91). -/
structure EndsAlone (s : State) (n : Nat) (o : Op) : Prop where
  op : s.op n = some o
  only : ∀ x ∈ s.ops, x.id = n → x = o
  order : ∀ p k, o.path = some (p, k) → s.oldestOn o.warp p = some n ∧
    ∀ x ∈ s.ops, x.id ≠ n → x.warp = o.warp → (∃ j, x.path = some (p, j)) → x.kind ≠ .done

/-- The state after an operation of a resident warp x ends alone: the warp changed by f, the operation's registers full but for those that
another operation or a replay has still to fill, a split that holds for it past its instruction, its counter lowered, the operation gone
with what it has asked of the host, and its frame reader no longer counted (R90 to R93, R200, R308, R447). -/
def State.finished (s : State) (o : Op) (x : Warp) (f : Warp → Warp) : State :=
  let full := o.full.filter (fun r => !x.owed.contains r && !s.ops.any (fun k => k.id != o.id && k.warp == o.warp && k.full.contains r))
  let y := ((f x).markAll false full).release o.id
  State.readerOut { s with
    asks := s.asks.filter (fun a => a.who != o.id)
    warps := tput s.warps o.warp (match o.path with
      | some (p, k) => y.setCount p (y.count p - k)
      | none => y)
    ops := s.ops.filter (fun k => k.id != o.id) } o.die o.par

/-- No die's injector is armed (R445), and no HBM4E channel is in self-refresh (R477). -/
def State.quiet (s : State) : Prop := (∀ d, bit (s.die d).injctl.toNat 0 = false) ∧ ∀ k ∈ s.chans, k.2.refresh = false

/-- Register k of a group loaded with z bytes (R305): the low bytes, extended, or word k of the bytes. -/
def loadedWord (z : Nat) (sx : Bool) (l : List Byte) (k : Nat) : Word :=
  if z ≤ 4 then
    if sx ∧ 2 ^ (8 * z - 1) ≤ ofBytes l then BitVec.ofInt 32 ((ofBytes l : Int) - 2 ^ (8 * z)) else BitVec.ofNat 32 (ofBytes l)
  else BitVec.ofNat 32 (ofBytes ((l.drop (4 * k)).take 4))

/-- The writes of a loaded lane's registers from vd, the poison of each given (R102, R305). -/
def loadedRegs (vd lane z : Nat) (sx : Bool) (l : List Byte) (bad : Nat → Bool) : List RegWrite :=
  (List.range (groupRegs z)).map (fun k => RegWrite.v (vd + k) lane (loadedWord z sx l k) (bad k))

end Sys2Proof.Machine

/-- MULTICYCLE_RESULT (R93, R147): the result is written, its registers are full, its flags are ORed into FSTAT. -/
def Sys2Proof.Claim.ResultsArrive : Prop :=
  ∀ (s : State) (n : Nat) (o : Op) (x : Warp) (w : List RegWrite) (f : BitVec 5),
    EndsAlone s n o → tfind s.warps o.warp = some x → (o.kind = .result w f ∨ o.kind = .cb w f ∨ (f = 0 ∧ ∃ l z vd u iss, o.kind = .ldl w l z vd u iss)) →
      exec (.multicycleResult n) s =
        .next (s.finished o x (fun y => { (y.writeAll (s.widthOf o.warp) w) with fstat := y.fstat ||| f }))

/-- LOAD_COMPLETE (R90, R96, R305, R309, R112): each lane's registers get the bytes that the die sees at the lane's address, poisoned
where a word of them is; an acquire first applies to the die every write it may. A poisoned word of a page with PMODE 2 reads as
zeros instead. With an older access of the lane to the bytes still to come, or no memory there, the load waits. -/
def Sys2Proof.Claim.LoadsComplete : Prop :=
  ∀ (s : State) (n : Nat) (o : Op) (x : Warp) (accs : List LaneAcc) (z : Nat) (sx : Bool) (vd order scope : Nat) (iss : Reissue),
    EndsAlone s n o → tfind s.warps o.warp = some x → o.kind = .load accs z sx vd order scope 0 iss → s.quiet →
    (z = 1 ∨ z = 2 ∨ z = 4 ∨ z = 8 ∨ z = 16) → (∀ a ∈ accs, a.win = none ∧ (a.pmode = 2 → s.poisoned a.pa z = false) ∧ s.inPriv a.pa z = false) →
      let waits := accs.any (fun a => !s.installed a.pa || s.before o.warp n (some a.lane) a.pa z)
      (waits = true → exec (.loadComplete n) s = .next s) ∧
      (waits = false →
        let s1 := if order = 1 ∧ 5 ≤ scope then s.applyAll o.die else s
        exec (.loadComplete n) s = .next (s1.finished o x (fun y => y.writeAll (s.widthOf o.warp) (accs.flatMap (fun a =>
          loadedRegs vd a.lane z sx (s1.view o.die a.pa z) (fun k => s.poisoned (a.pa + 4 * k) (min z 4)))))))

/-- Results and loads complete (R90, R91, R93, R305): a pending result ends, and a pending load ends once its lanes have no older access of
the thread to wait for and reach memory that is there; the load of private memory waits for nothing. Nothing of the warp but what the
operation writes, its counters and its splits' waiting changes. -/
def Sys2Proof.Claim.ResultsAndLoadsEnd : Prop :=
  ∀ (s : State) (n : Nat) (o : Op) (x : Warp), s.op n = some o → tfind s.warps o.warp = some x →
    let ends := fun (i : Instr) => ∃ t y, exec i s = .next t ∧ (∀ p, t.op n = some p → p.kind = .done) ∧ t.groups = s.groups ∧
      tfind t.warps o.warp = some y ∧ y.life = x.life ∧ y.nb = x.nb ∧ y.openSet = x.openSet
    ((∃ w f, o.kind = .result w f ∨ o.kind = .cb w f) → ends (.multicycleResult n)) ∧
    (∀ accs z sx vd order scope iss, o.kind = .load accs z sx vd order scope 0 iss →
      (∀ a ∈ accs, a.win = none → s.installed a.pa = true ∧ s.before o.warp n (some a.lane) a.pa z = false) → ends (.loadComplete n)) ∧
    (∀ accs z sx vd order scope iss, o.kind = .load accs z sx vd order scope 1 iss → ends (.loadComplete n))

/-- Multi-cycle results and loads arrive.
The model's choice, where the manual leaves it open: that the lanes of one load, store or atomic are performed together, in a later
step (log entry 24), what an acquire applies and what a release waits for (log entry 25), that an access waits for an older one of its
warp which R108 orders before it (log entry 28) and which page's PMODE counts (log entry 37). -/
def Obligations.ResultsAndLoadsArrive : Prop :=
  Sys2Proof.Claim.ResultsArrive ∧ Sys2Proof.Claim.LoadsComplete ∧ Sys2Proof.Claim.ResultsAndLoadsEnd

/-- STORE_PERFORMED (R90, R104, R105, R108): the die's posted writes up to this one reach home memory in the order they were made; each
byte gets the last of them that writes it, other bytes stay, and GST falls. -/
def Sys2Proof.Claim.StoresPerform : Prop :=
  ∀ (s : State) (n : Nat) (o : Op) (x : Warp) (w : Nat) (accs : List LaneAcc) (z : Nat) (sys : Bool),
    EndsAlone s n o → tfind s.warps o.warp = some x → o.kind = .store w accs z sys → w ≠ 0 →
    (∀ p ∈ s.posted, tsorted p.bytes = true) → (∀ a ∈ accs, a.win = none ∧ s.installed a.pa = true) →
    (∀ p ∈ s.ops, p.kind.winLanes = []) →
    let mine := s.posted.filter (fun p => p.die == o.die && decide (p.id ≤ w))
    ∃ t, exec (.storePerformed n) s = .next t ∧
      t.warps = (s.finished o x id).warps ∧ t.ops = (s.finished o x id).ops ∧
      t.posted = s.posted.filter (fun p => !mine.any (fun q => q.id == p.id)) ∧
      (∀ a, s.installed a = true →
        memByte t.mem a = mine.foldl (fun b p => (tfind p.bytes a).getD b) (memByte s.mem a)) ∧
      (∀ a, s.installed a = false → memByte t.mem a = memByte s.mem a)

/-- The private store and the write-back of CWB end (R86, R319): GST falls, and memory does not change; after a write-back the die's L2
holds no dirty line of the range, and what lies in host memory is on its way there. -/
def Sys2Proof.Claim.PrivateStoresAndWriteBacksEnd : Prop :=
  ∀ (s : State) (n : Nat) (o : Op) (x : Warp) (va len : Nat), EndsAlone s n o → tfind s.warps o.warp = some x →
    (o.kind = .privStore → exec (.storePerformed n) s = .next (s.finished o x id)) ∧
    (o.kind = .cwb va len →
      let gone := fun (e : Nat × Nat × Byte) => e.2.1.testBit o.die &&
        (List.range 128).any (fun k => s.rangeHas o.die o.ctx va len (e.1 / 128 * 128 + k))
      exec (.storePerformed n) s = .next (({ s with
        dirty := s.dirty.filter (fun e => !gone e)
        sent := s.sent ++ s.mwrs ((s.dirty.filter gone).map (fun e => e.1)) } : State).finished o x id))

/-- Private loads and stores, and the ends of posted operations.
The model's choice, where the manual leaves it open: what private memory holds and where its blocks lie (log entry 6). -/
def Obligations.PrivateAccesses : Prop :=
  Sys2Proof.Claim.PrivateLoadsAndStores ∧ Sys2Proof.Claim.PrivateStoresAndWriteBacksEnd

/-- What an atomic writes (R312, R313): old is the location's value, x the data (for CAS the comparand, and y the new value). -/
def Sys2Proof.Claim.AtomicOperations : Prop :=
  ∀ (z old : Nat) (data : List Byte), (z = 4 ∨ z = 8 ∨ z = 16) → old < 2 ^ (8 * z) →
    let x := ofBytes (data.take z)
    let y := ofBytes ((data.drop z).take z)
    let signed := fun (v : Nat) => (BitVec.ofNat 32 v).toInt
    atomNew .add z old data = (some ((old + x) % 2 ^ (8 * z)), 0) ∧
    atomNew .and z old data = (some (old &&& x), 0) ∧
    atomNew .or z old data = (some (old ||| x), 0) ∧
    atomNew .xor z old data = (some (old ^^^ x), 0) ∧
    atomNew .exch z old data = (some x, 0) ∧
    atomNew .minU z old data = (some (min x old), 0) ∧
    atomNew .maxU z old data = (some (max x old), 0) ∧
    (z = 4 → atomNew .min z old data = (some (if signed x < signed old then x else old), 0)) ∧
    (z = 4 → atomNew .max z old data = (some (if signed old < signed x then x else old), 0)) ∧
    (z = 4 → atomNew .fadd z old data = (some (f32add old x).1, (f32add old x).2)) ∧
    (old = x → atomNew .cas z old data = (some y, 0)) ∧
    (old ≠ x → atomNew .cas z old data = (none, 0))

/-- ATOMIC_PERFORMED (R102, R109, R112, R307, R314): after the die's earlier stores, the lanes act on home memory one after another in
ascending order; each lane returns the value that it found, FSTAT gets the flags, and no other byte changes. An acquire takes effect with
it: of the write log and of what each die has applied and seen, the next state holds what the die's applying every performed write leaves
(AcquiresApply says what that is). What the lanes' reads meet first, an injector that waits for a read (R445), is met before them. -/
def Sys2Proof.Claim.AtomicsPerform : Prop :=
  ∀ (s : State) (n : Nat) (o : Op) (x : Warp) (fn : AtomFn) (accs : List LaneAcc) (z : Nat) (ret : Option Nat) (order scope : Nat),
    EndsAlone s n o → tfind s.warps o.warp = some x → o.kind = .atom fn accs z ret order scope →
    (z = 4 ∨ z = 8 ∨ z = 16) → (∀ p ∈ s.posted, tsorted p.bytes = true) →
    (∀ a ∈ accs, s.before o.warp n (some a.lane) a.pa z = false ∧ s.inPriv a.pa z = false ∧
      ∀ k < z, s.installed (a.pa + k) = true) → (∀ p ∈ s.ops, p.kind.winLanes = []) →
    let met := accs.foldl (fun s a => s.injectMem a.pa z true) s
    let s0 := met.flushTo o.die s.uid
    let cell := fun (m : List Host.Cell) (a : Nat) => (tfind m a).getD (memByte s0.mem a)
    let one := fun (acc : List Host.Cell × List (Nat × Nat × Bool) × BitVec 5) (a : LaneAcc) =>
      let old := ofBytes ((List.range z).map (fun k => cell acc.1 (a.pa + k)))
      let r := atomNew fn z old a.data
      ((match r.1 with
        | some v => (List.range z).foldl (fun m k => tput m (a.pa + k) (BitVec.ofNat 8 (v / 256 ^ k))) acc.1
        | none => acc.1), acc.2.1 ++ [(a.lane, old, s0.poisoned a.pa z)], acc.2.2 ||| r.2)
    let done := accs.foldl one ([], [], 0)
    let poison := accs.map (fun a => (a.pa, z, s0.poisoned a.pa z && !(fn == .exch && z == 8)))
    let wrote := if done.1 = [] then s0 else s0.writeNow o.die done.1 poison
    let seen := if (order = 1 ∨ order = 3) ∧ 5 ≤ scope then wrote.applyAll o.die else wrote
    ∃ t, exec (.atomicPerformed n) s = .next t ∧
      (∀ a, memByte t.mem a = cell done.1 a) ∧
      t.ops = s.ops.filter (fun k => k.id != n) ∧
      t.warps = (s.finished o x (fun y =>
        { (y.writeAll (s.widthOf o.warp) (match ret with
            | some vd => done.2.1.flatMap (fun p => loadedRegs vd p.1 z false (toBytes p.2.1 z) (fun _ => p.2.2))
            | none => [])) with
          fstat := y.fstat ||| done.2.2 })).warps ∧
      t.wlog = seen.wlog ∧ (∀ d, (t.die d).clock = (seen.die d).clock ∧ (t.die d).seen = (seen.die d).seen)

/-- An atomic completes (R109, R307): with every lane at memory that is there and no older access of its thread to the bytes to come first
(for .FADD, with its turn come on its path, R314), it is performed, whatever else is pending, and ends. -/
def Sys2Proof.Claim.AtomicsComplete : Prop :=
  ∀ (s : State) (n : Nat) (o : Op) (x : Warp) (fn : AtomFn) (accs : List LaneAcc) (z : Nat) (ret : Option Nat) (order scope : Nat),
    s.op n = some o → tfind s.warps o.warp = some x → o.kind = .atom fn accs z ret order scope →
    (∀ a ∈ accs, s.installed a.pa = true ∧ s.before o.warp n (some a.lane) a.pa z = false) → (fn = .fadd → s.inOrder o = true) →
    ∃ t, exec (.atomicPerformed n) s = .next t ∧ ∀ p, t.op n = some p → p.kind = .done

namespace Sys2Proof.Machine

/-- The log, newest first, is such that die d may apply its writes from the oldest on (R105): each write that it has not applied yet comes
next of its originator's after those of the log that are older, and records no write that is not older in the log. -/
def State.inTurn (s : State) (d : Nat) : Prop :=
  let late := fun (l : List Write) (e : Nat) => (l.filter (fun x => x.die == e && !x.applied.contains d)).length
  (s.wlog.map (fun w => w.id)).Nodup ∧
  ∀ newer w older, s.wlog = newer ++ w :: older → w.applied.contains d = false →
    let clock := Sys2Proof.Machine.clockOf
    clock w.stamp w.die = clock (s.die d).clock w.die + late older w.die + 1 ∧ w.die < 4 ∧
    ∀ e < 4, e ≠ w.die → clock w.stamp e ≤ clock (s.die d).clock e + late older e

end Sys2Proof.Machine

/-- What an acquire of scope 5 or 6 does on a die (R112, R114): it applies every performed write, and its order agrees with home order from
then on, so that it sees home memory where it has nothing posted of its own. That it agrees from the acquire on, and not before, is the
model's choice (log entry 123), and so is that the acquire applies all that is performed (log entry 25). -/
def Sys2Proof.Claim.AcquiresApply : Prop :=
  ∀ (s : State) (d : Nat), d < 4 → s.dies.length = 4 → (s.die d).clock.length = 4 → s.inTurn d →
    (∀ w ∈ (s.applyAll d).wlog, w.applied.contains d = true) ∧ ((s.applyAll d).die d).seen = [] ∧
    (∀ a, (s.applyAll d).viewByte d a = (postedByte s.posted d a).getD (memByte s.mem a)) ∧
    (s.applyAll d).mem = s.mem ∧ (s.applyAll d).posted = s.posted ∧ (s.applyAll d).warps = s.warps ∧ (s.applyAll d).ops = s.ops

/-- What atomics compute, what performing one changes, and what an acquire leaves.
The model's choice, where the manual leaves it open: that the lanes of one load, store or atomic are performed together, in a later
step (log entry 24), what an acquire applies and what a release waits for (log entry 25) and that a read-modify-write leaves a word
poisoned (log entry 39). -/
def Obligations.AtomicsReadModifyWrite : Prop :=
  Sys2Proof.Claim.AtomicOperations ∧ Sys2Proof.Claim.AtomicsPerform ∧ Sys2Proof.Claim.AtomicsComplete ∧ Sys2Proof.Claim.AcquiresApply

/-- WRITE_APPLY (R105 to R107): a die applies a performed write once it has applied its originator's earlier writes and the writes that
its stamp records; otherwise nothing happens. Home memory stays, and so does what every die sees of bytes that the write does not
hold. Of its own bytes the die sees the write's, and the other dies what they saw: each die has an order of its own until it acquires.
Once the log is empty every die sees home memory. That a die keeps its own order until then is the model's choice (log entry 123). -/
def Sys2Proof.Claim.WritesApply : Prop :=
  ∀ (s : State) (d n : Nat),
    (∀ w, s.wlog.find? (fun w => w.id == n) = some w → (w.applied.contains d = true ∨ s.mayApply w d = false) →
      exec (.writeApply d n) s = .next s) ∧
    (∀ newer w older, s.wlog = newer ++ w :: older → w.id = n → (∀ x ∈ newer ++ older, x.id ≠ n) → w.applied.contains d = false →
      s.mayApply w d = true → d < 4 → s.dies.length = 4 →
      ∃ t, exec (.writeApply d n) s = .next t ∧ t.mem = s.mem ∧ t.posted = s.posted ∧ t.warps = s.warps ∧ t.ops = s.ops ∧
        (∀ e a, e < 4 → tfind w.bytes a = none → t.viewByte e a = s.viewByte e a) ∧
        (∀ a b, tfind w.bytes a = some b →
          (∀ e, e < 4 → e ≠ d → t.viewByte e a = s.viewByte e a) ∧
          (postedByte s.posted d a = none → t.viewByte d a = b)) ∧
        (t.wlog = [] → ∀ e a, e < 4 → postedByte s.posted e a = none → t.viewByte e a = memByte s.mem a))

/-- Stores are performed and applied.
The model's choice, where the manual leaves it open: that the lanes of one load, store or atomic are performed together, in a later
step (log entry 24) and in which order a die sees writes of one location (log entry 123). -/
def Obligations.StoresPerformAndApply : Prop :=
  Sys2Proof.Claim.StoresPerform ∧ Sys2Proof.Claim.WritesApply

/-! ### Local buffers, tile copies, tensed accesses -/

namespace Sys2Proof.Machine

/-- No batch of the workgroup reads or accumulates its buffers, and no ATTN keeps its progress there. -/
def State.noBatch (s : State) (g : Group) : Prop :=
  ∀ w ∈ g.warps, ∀ x, tfind s.warps w = some x → x.openSet = [] ∧ x.batches = [] ∧ x.part = none ∧ x.attnZ = []

/-- Bytes that a local form moves: .W, .D, .Q, .H (R311). -/
def localBytes (z : BitVec 2) : Nat := if z = 0 then 4 else if z = 1 then 8 else if z = 2 then 16 else 2

end Sys2Proof.Machine

/-- LDL and STL (R81, R82, R304, R311): the checks in their order; in the own workgroup a load's result is the buffer's bytes, and a
store writes the buffer at once, the highest lane last; no other byte of a buffer and no memory changes. To another workgroup of
the cluster LRM is raised and the access is pending. -/
def Sys2Proof.Claim.LocalLoadsAndStores : Prop :=
  ∀ (s : State) (c : Cx) (u z : BitVec 2) (d v : BitVec 7) (im : BitVec 5),
    let n := localBytes z
    let regs := vref d.toNat (groupRegs n)
    let on := lanes c.combined
    let addr := fun (l : Nat) => toBits (c.laneOff v im n l) 32
    let o := fun (l : Nat) => addr l % 2 ^ 18
    let remote := fun (l : Nat) => (addr l).testBit 28
    let size := c.grid.bufSize u.toNat
    let iss : Reissue := ⟨0, c.imm 5 im.toNat * n, false⟩
    let bad := on.filter (fun l => decide (addr l % n ≠ 0))
    let form := on.filter (fun l => decide (addr l / 2 ^ 18 % 4 ≠ 0) || decide (addr l / 2 ^ 29 ≠ 0) ||
      (remote l && (decide (u ≠ 0) || decide (c.grid.cluster ≤ addr l / 2 ^ 20 % 2 ^ 8))))
    let past := on.filter (fun l => decide (size < o l + n))
    let issueL := perLane (u != 3 && group z d && c.vok v.toNat 1 && c.vok d.toNat (groupRegs n)) accLocal c [vref v.toNat 1] regs
    let issueS := { perLane ((u == 0 || u == 2) && group z d && c.vok v.toNat 1 && c.vok d.toNat (groupRegs n)) accLocal c
      [vref v.toNat 1, regs] [] with poison := c.poisonLanes [vref v.toNat 1] }
    let traps := fun (i : Instr) => c.combined ≠ 0 →
      (bad ≠ [] → exec i s = .next (s.trap c .misalign (maskOf bad) (addr (bad.headD 0)))) ∧
      (bad = [] → form ≠ [] → exec i s = .next (s.trap c .access (maskOf form) (addr (form.headD 0)))) ∧
      (bad = [] → form = [] → past ≠ [] → exec i s = .next (s.trap c .access (maskOf past) (addr (past.headD 0))))
    let fine := c.combined ≠ 0 ∧ bad = [] ∧ form = [] ∧ past = []
    let pois := fun (l : Nat) => (List.range (groupRegs n)).filter (fun k => c.warp.vPois (d.toNat + k) l)
    (Ready s c issueL →
      (c.combined = 0 → exec (.ldl u z d v im) s = .next (s.after c id)) ∧ traps (.ldl u z d v im) ∧
      (fine → (∀ l ∈ on, remote l = false) → tfind s.groups c.gid = some c.group → s.noBatch c.group →
        exec (.ldl u z d v im) s = .next ((s.pend c regs none (.ldl (on.flatMap (fun l =>
          loadedRegs d.toNat l n false (c.group.bytes u.toNat (o l) n) (fun k => c.group.poisonIn u.toNat (o l + 4 * k) (min n 4))))
            (on.map (fun l => (l, addr l))) n d.toNat u.toNat iss)).after c (fun x => x.markAll true regs))) ∧
      (fine → on.all remote = true → (∀ l ∈ on, s.localTarget c (addr l) ≠ c.gid) →
        (c.room .lrm 1 = false → exec (.ldl u z d v im) s = .next s) ∧
        (c.room .lrm 1 = true → exec (.ldl u z d v im) s =
          .next ((s.pend c regs (some (.lrm, 1)) (.remote false (on.map (fun l =>
            (⟨l, addr l, s.localTarget c (addr l), [], [], none, 0, none⟩ : LaneAcc))) n d.toNat iss)).after c
              (fun x => (c.counted .lrm x).markAll true regs))))) ∧
    (Ready s c issueS →
      (c.combined = 0 → exec (.stl u z d v im) s = .next (s.after c id)) ∧ traps (.stl u z d v im) ∧
      (fine → (∀ l ∈ on, remote l = false) → tfind s.groups c.gid = some c.group → s.noBatch c.group →
        ∃ t g, exec (.stl u z d v im) s = .next t ∧ (∀ j, tfind t.warps j = tfind (s.after c id).warps j) ∧ t.mem = s.mem ∧ t.ops = s.ops ∧
          tfind t.groups c.gid = some g ∧ (∀ k, k ≠ c.gid → tfind t.groups k = tfind s.groups k) ∧
          (∀ l ∈ on, ∀ k < n, (∀ m ∈ on, l < m → o l + k < o m ∨ o m + n ≤ o l + k) →
            tget 0 (g.buf u.toNat) (o l + k) = (c.groupBytes d.toNat n l).getD k 0) ∧
          (∀ a, (∀ l ∈ on, a < o l ∨ o l + n ≤ a) → tget 0 (g.buf u.toNat) a = tget 0 (c.group.buf u.toNat) a) ∧
          (∀ b, b < 3 → b ≠ u.toNat → g.buf b = c.group.buf b)) ∧
      (fine → on.all remote = true → (∀ l ∈ on, s.localTarget c (addr l) ≠ c.gid) →
        (c.room .lrm 1 = false → exec (.stl u z d v im) s = .next s) ∧
        (c.room .lrm 1 = true → exec (.stl u z d v im) s =
          .next ((s.pend c [] (some (.lrm, 1)) (.remote true (on.map (fun l =>
            (⟨l, addr l, s.localTarget c (addr l), c.groupBytes d.toNat n l, pois l, none, 0, none⟩ : LaneAcc))) n 0 iss)).after c
              (c.counted .lrm)))))

/-- REMOTE_LOCAL_COMPLETE (R311): performed in issue order; a load's registers get the target workgroup's A-buffer bytes, a store of
one lane changes just its bytes there. -/
def Sys2Proof.Claim.RemoteAccessesComplete : Prop :=
  ∀ (s : State) (n : Nat) (o : Op) (x : Warp) (accs : List LaneAcc) (z vd : Nat) (iss : Reissue), EndsAlone s n o → tfind s.warps o.warp = some x →
    (o.kind = .remote false accs z vd iss → (z = 2 ∨ z = 4 ∨ z = 8 ∨ z = 16) → (∀ a ∈ accs, (tfind s.groups a.pa).isSome = true) →
      exec (.remoteLocalComplete n) s = .next (s.finished o x (fun y => y.writeAll (s.widthOf o.warp) (accs.flatMap (fun a =>
        match tfind s.groups a.pa with
        | some g => loadedRegs vd a.lane z false (g.bytes 0 (a.va % 2 ^ 18) z) (fun k => g.poisonIn 0 (a.va % 2 ^ 18 + 4 * k) (min z 4))
        | none => []))))) ∧
    (∀ a g, o.kind = .remote true [a] z vd iss → tfind s.groups a.pa = some g → s.noBatch g →
      ∃ t g', exec (.remoteLocalComplete n) s = .next t ∧ (∀ j, tfind t.warps j = tfind (s.finished o x id).warps j) ∧ t.ops = (s.finished o x id).ops ∧
        t.mem = s.mem ∧ tfind t.groups a.pa = some g' ∧ (∀ k, k ≠ a.pa → tfind t.groups k = tfind s.groups k) ∧
        (∀ k < a.data.length, tget 0 g'.abuf (a.va % 2 ^ 18 + k) = a.data.getD k 0) ∧
        (∀ b, b < a.va % 2 ^ 18 ∨ a.va % 2 ^ 18 + a.data.length ≤ b → tget 0 g'.abuf b = tget 0 g.abuf b) ∧ g'.wbuf = g.wbuf ∧ g'.cbuf = g.cbuf)

/-- LDL and STL in the own workgroup and to another one.
The model's choice, where the manual leaves it open: an access to the own rank and to C bytes of a batch (log entry 41). -/
def Obligations.LocalAndRemoteAccesses : Prop :=
  Sys2Proof.Claim.LocalLoadsAndStores ∧ Sys2Proof.Claim.RemoteAccessesComplete

/-- The three TCOPY forms (R323 to R325): with no active lane nothing happens; an invalid translation register or descriptor is ACCESS,
a row off a 16-byte boundary MISALIGN, a copy past its buffer ACCESS; with too little room in TCP the split waits. Else, with
no other tile copy of the warp pending, TCP is raised by the row count and each row is pending: its 16-byte pieces in order, or, for
an inactive lane's row, nothing to do; such rows before the first other one have landed at once. In every case without a trap or a wait
the instruction completes. -/
def Sys2Proof.Claim.TileCopiesIssue : Prop :=
  ∀ (s : State) (c : Cx) (d : BitVec 7) (t : BitVec 3) (v : BitVec 7) (im : BitVec 5) (f : TileForm) (i : Instr)
    (pa pm : Nat → Nat → Nat) (asn : Nat → Nat → Option Nat) (ac : Nat → Nat → Bool),
    ((f, i) ∈ [(.plain, .tcopy d t im), (.gath, .tcopyGath d t v im), (.scat, .tcopyScat d t v im)]) →
    let tr := c.warp.treg t.toNat
    let vo := match f with | .plain => 0 | _ => v.toNat
    let x := fun (k : Nat) => (c.warp.sreg (d.toNat + k)).toNat
    let aoff := x 0 % 2 ^ 18
    let wb := (x 0).testBit 18
    let rows := x 1 % 2 ^ 8
    let rb := x 2 % 2 ^ 14
    let stride := (c.warp.sreg (d.toNat + 3)).toInt
    let off := fun (r : Nat) => c.imm 5 im.toNat * 4 +
      (match f with | .plain => (r : Int) | _ => ((c.warp.vreg vo r).toNat : Int)) * stride
    let badDesc := if aoff % 16 ≠ 0 ∨ x 0 / 2 ^ 19 ≠ 0 ∨ (wb = true ∧ f = .scat) then some (x 0)
      else if x 1 / 2 ^ 8 ≠ 0 ∨ rows = 0 ∨ (f ≠ .plain ∧ c.grid.w < rows) then some (x 1)
      else if x 2 / 2 ^ 14 ≠ 0 ∨ rb % 16 ≠ 0 ∨ rb < 16 ∨ 8192 < rb then some (x 2)
      else if stride % 16 ≠ 0 then some (x 3) else none
    let on := (List.range rows).filter (fun r => f == .plain || c.combined.getLsbD r)
    let bad := on.filter (fun r => decide (vaAt tr.base (off r) % 16 ≠ 0))
    let size := c.grid.bufSize (if wb then 1 else 0)
    let lead := ((List.range rows).takeWhile (fun r => !on.contains r)).length
    let kind := fun (r : Nat) => if on.contains r then
        OpKind.row r wb (aoff + r * rb) ((List.range (rb / 16)).map (fun (k : Nat) =>
          (⟨r, vaAt tr.base (off r + 16 * k), pa r k, [], [], none, pm r k, asn r k⟩ : LaneAcc))) (f == .scat)
      else OpKind.done
    Ready s c (perLane (mult 4 d && (f == .plain || c.vok vo 1)) (accMem (fun o sc => o == 0 && sc == 0) naMod8) c
        ([sgroup d.toNat 4, [.t t.toNat]] ++ (if f = .plain then [] else [vref vo 1])) []) →
      (c.combined = 0 → exec i s = .next (s.after c id)) ∧
      (c.combined ≠ 0 →
        (tr.valid = false → exec i s = .next (s.trap c .access c.combined 0)) ∧
        (tr.valid = true → ∀ y, badDesc = some y → exec i s = .next (s.trap c .access c.combined y)) ∧
        (tr.valid = true → badDesc = none →
          (bad ≠ [] → exec i s = .next (s.trap c .misalign c.combined (vaAt tr.base (off (bad.headD 0))))) ∧
          (bad = [] → size < aoff + rows * rb → exec i s = .next (s.trap c .access c.combined (x 0))) ∧
          (bad = [] → aoff + rows * rb ≤ size → c.warp.replay = none → 255 < c.warp.tcp + rows → exec i s = .next s) ∧
          (bad = [] → aoff + rows * rb ≤ size → c.warp.replay = none → c.warp.tcp + rows ≤ 255 →
            (∀ r ∈ on, s.rowPieces c tr (if f = .scat then .store else .load) rb r (off r) = (List.range (rb / 16)).map (fun (k : Nat) =>
              Reach.ok ⟨r, vaAt tr.base (off r + 16 * k), pa r k, [], [], none, pm r k, asn r k⟩ (ac r k))) →
            (∃ u, exec i s = .next u ∧ u.mem = s.mem ∧ u.groups = s.groups ∧
              (tfind u.warps c.w).map (fun y => (y.split c.sp).pc) = some (loopEnd c.split.loops c.split.pc).2) ∧
            ((∀ o ∈ s.ops, o.warp = c.w → (∀ k, o.path ≠ some (.tcp, k)) ∧ ∀ r b n sc, o.kind ≠ .row r b n [] sc) →
              ∃ u, exec i s = .next u ∧
                u.warps = (s.after c (fun y => { y with tcp := y.tcp + rows - lead, landed := (0, 0, 0, 0) })).warps ∧
                u.ops = s.ops ++ ((List.range rows).drop lead).map (fun r =>
                  (⟨s.uid + r, c.w, c.sp, c.die, c.grid.ctx, c.split.first, [], some (.tcp, 1), kind r, 2, c.ctx.asid⟩ : Op))))))

/-- The three TCOPY forms and the rows that they make complete (R323, R324): with lanes, a valid t register, a descriptor whose fields are in
range, aligned rows that lie in the buffer, room in TCP and rows in reach, each form goes on with its rows counted in TCP; a row ends
that reaches memory that is there with no older access before it. -/
def Sys2Proof.Claim.TileCopiesComplete : Prop :=
  (∀ (s : State) (c : Cx) (d : BitVec 7) (t : BitVec 3) (v : BitVec 7) (im : BitVec 5),
    let tr := c.warp.treg t.toNat
    let x := fun (k : Nat) => (c.warp.sreg (d.toNat + k)).toNat
    let rows := x 1
    let rb := x 2
    let stride := (c.warp.sreg (d.toNat + 3)).toInt
    let at' := fun (r : Nat) => c.imm 5 im.toNat * 4 + (r : Int) * stride
    let by' := fun (r : Nat) => c.imm 5 im.toNat * 4 + ((c.warp.vreg v.toNat r).toNat : Int) * stride
    let good := c.combined ≠ 0 ∧ tr.valid = true ∧ x 0 < 2 ^ 18 ∧ x 0 % 16 = 0 ∧ 0 < rows ∧ rows ≤ 255 ∧ rb % 16 = 0 ∧ 16 ≤ rb ∧ rb ≤ 8192 ∧
      stride % 16 = 0 ∧ x 0 + rows * rb ≤ c.grid.bufSize 0 ∧ c.warp.tcp + rows ≤ 255 ∧ c.warp.replay = none
    let reach := fun (need : Need) (off : Nat → Int) (r : Nat) => vaAt tr.base (off r) % 16 = 0 ∧
      ∃ (pa pm : Nat → Nat) (asn : Nat → Option Nat) (ac : Nat → Bool), s.rowPieces c tr need rb r (off r) = (List.range (rb / 16)).map (fun (k : Nat) =>
        Reach.ok ⟨r, vaAt tr.base (off r + 16 * k), pa k, [], [], none, pm k, asn k⟩ (ac k))
    let issues := fun (vo : List (List RegRef)) => Ready s c (perLane true (accMem (fun o sc => o == 0 && sc == 0) naMod8) c
      ([sgroup d.toNat 4, [.t t.toNat]] ++ vo) [])
    let goes := fun (i : Instr) => ∃ u y, exec i s = .next u ∧ u.mem = s.mem ∧ u.groups = s.groups ∧ tfind u.warps c.w = some y ∧
      (y.split c.sp).pc = (loopEnd c.split.loops c.split.pc).2
    mult 4 d = true → good →
      (issues [] → (∀ r < rows, reach .load at' r) → goes (.tcopy d t im)) ∧
      (issues [vref v.toNat 1] → c.vok v.toNat 1 = true → rows ≤ c.grid.w → (∀ r < rows, c.combined.getLsbD r = true → reach .load by' r) →
        goes (.tcopyGath d t v im)) ∧
      (issues [vref v.toNat 1] → c.vok v.toNat 1 = true → rows ≤ c.grid.w → (∀ r < rows, c.combined.getLsbD r = true → reach .store by' r) →
        goes (.tcopyScat d t v im))) ∧
  (∀ (s : State) (n : Nat) (o : Op) (x : Warp) (g : Group) (r off : Nat) (wb scat : Bool) (segs : List LaneAcc),
    s.op n = some o → tfind s.warps o.warp = some x → tfind s.groups x.group = some g → o.kind = .row r wb off segs scat → segs ≠ [] →
    (∀ a ∈ segs, a.win = none ∧ s.installed a.pa = true ∧ s.beforeRow o.warp n a.pa = false ∧ s.before o.warp n none a.pa 16 = false) →
    s.inOrder o = true →
    ∃ t, exec (.tcopyRowLanded n) s = .next t ∧ ∀ p, t.op n = some p → p.kind = .done)

/-- A row of a TCOPY lands (R103, R324): a row of plain memory is copied into the buffer as the die sees it, with its poison, and a
scattered row is written to memory in row order; TCP falls. -/
def Sys2Proof.Claim.TileRowsLand : Prop :=
  ∀ (s : State) (n : Nat) (o : Op) (x : Warp) (g : Group) (r off : Nat) (wb : Bool) (segs : List LaneAcc),
    EndsAlone s n o → tfind s.warps o.warp = some x → tfind s.groups x.group = some g → s.quiet → segs ≠ [] →
    (∀ a ∈ segs, a.win = none ∧ (a.pmode = 2 → s.poisoned a.pa 16 = false) ∧ s.inPriv a.pa 16 = false ∧
      ∀ k < 16, s.installed (a.pa + k) = true) →
    (o.kind = .row r wb off segs false → s.noBatch g → (∀ a ∈ segs, s.beforeRow o.warp n a.pa = false) →
      ∃ t g', exec (.tcopyRowLanded n) s = .next t ∧ (∀ j, tfind t.warps j = tfind (s.finished o x id).warps j) ∧ t.ops = (s.finished o x id).ops ∧
        t.mem = s.mem ∧ tfind t.groups x.group = some g' ∧ (∀ k, k ≠ x.group → tfind t.groups k = tfind s.groups k) ∧
        (∀ j a, segs[j]? = some a → ∀ k < 16,
          tget 0 (g'.buf (if wb then 1 else 0)) (off + 16 * j + k) = s.viewByte o.die (a.pa + k)) ∧
        (∀ b, b < off ∨ off + 16 * segs.length ≤ b →
          tget 0 (g'.buf (if wb then 1 else 0)) b = tget 0 (g.buf (if wb then 1 else 0)) b)) ∧
    (o.kind = .row r wb off segs true → (∀ a ∈ segs, s.before o.warp n none a.pa 16 = false) → (∀ p ∈ s.ops, p.kind.winLanes = []) →
      (∀ (i j : Nat) (a b : LaneAcc), segs[i]? = some a → segs[j]? = some b → i ≠ j → a.pa + 16 ≤ b.pa ∨ b.pa + 16 ≤ a.pa) →
      ∃ t, exec (.tcopyRowLanded n) s = .next t ∧ (∀ j, tfind t.warps j = tfind (s.finished o x id).warps j) ∧ t.ops = (s.finished o x id).ops ∧
        t.groups = s.groups ∧
        (∀ j a, segs[j]? = some a → ∀ k < 16, memByte t.mem (a.pa + k) = tget 0 g.abuf (off + 16 * j + k)) ∧
        (∀ b, (∀ a ∈ segs, b < a.pa ∨ a.pa + 16 ≤ b) → memByte t.mem b = memByte (s.flushTo o.die s.uid).mem b))

/-- The three TCOPY forms issue and their rows land.
The model's choice, where the manual leaves it open: the checks of a tile descriptor and the order in which rows land (log entry 40). -/
def Obligations.TileCopies : Prop :=
  Sys2Proof.Claim.TileCopiesIssue ∧ Sys2Proof.Claim.TileCopiesComplete ∧ Sys2Proof.Claim.TileRowsLand

/-- LDT and STT (R128, R129, R306, R315, R316): outside LOCKED they raise TIMEUNL, and beyond the horizon TIMEHZ; else TMD is raised and
the access is pending with its time. A store is not visible, and a load not performed, before its home takes it. -/
def Sys2Proof.Claim.TensedAccessesIssue : Prop :=
  ∀ (s : State) (c : Cx) (i : Instr) (wf store : Bool) (z : Nat) (d : BitVec 7) (t : BitVec 3) (v : BitVec 7) (im : BitVec 5)
    (pa pm : Nat → Nat) (asn : Nat → Option Nat) (ac : Nat → Bool),
    ((wf, store, z, i) ∈ [(true, false, 4, .ldtW d t v im), (even d, false, 8, .ldtD d t v im), (mult 4 d, false, 16, .ldtQ d t v im),
      (true, true, 4, .sttW d t v im), (even d, true, 8, .sttD d t v im), (mult 4 d, true, 16, .sttQ d t v im)]) →
    let tr := c.warp.treg t.toNat
    let off := c.laneOff v im z
    let regs := vref d.toNat (groupRegs z)
    let on := lanes c.combined
    let pair := qref (2 * (c.mod8 % 64))
    let time := (c.warp.qreg (2 * (c.mod8 % 64))).toNat
    let acc := accMem (fun o sc => sc == 0 && (o == 0 || o == (if store then 2 else 1)))
      (fun m => bits m 7 1 == 0 && (store || bits m 6 1 == 0))
    let i0 := perLane (wf && c.vok v.toNat 1 && c.vok d.toNat (groupRegs z)) acc c
      ([[.t t.toNat], vref v.toNat 1] ++ (if store then [regs] else []) ++ [pair]) (if store then [] else regs)
    let bad := fun (l : Nat) => if store then (List.range (groupRegs z)).filter (fun k => c.warp.vPois (d.toNat + k) l) else []
    let accs := on.map (fun l =>
      (⟨l, vaAt tr.base (off l), pa l, if store then c.groupBytes d.toNat z l else [], bad l, none, pm l, asn l⟩ : LaneAcc))
    let locked := (s.die c.die).tstate = .locked ∧ ∀ l ∈ on, (s.die (s.homeDie (pa l))).tstate = .locked
    Ready s c { i0 with poison := c.poisonLanes [vref v.toNat 1, pair] } →
      (c.combined = 0 → exec i s = .next (s.after c id)) ∧
      (c.combined ≠ 0 → c.room .tmd 1 = false → exec i s = .next s) ∧
      (c.room .tmd 1 = true → PlainLanes s c tr (if store then .store else .load) z off pa pm asn ac → (∀ l ∈ on, s.homeDie (pa l) < 4) →
        (¬ locked → exec i s = .next (s.trap c .timeunl c.combined 0)) ∧
        (locked → (s.die c.die).time + 2 ^ 24 < time → exec i s = .next (s.trap c .timehz c.combined 0)) ∧
        (locked → time ≤ (s.die c.die).time + 2 ^ 24 → (store = false → ∀ l ∈ on, pm l = 1 → s.poisoned (pa l) z = false) →
          (store = false →
            let op := OpKind.ldt accs z d.toNat time (c.order == 1) [] [] ⟨tr.base, c.imm 5 im.toNat * z, false⟩
            let f := fun (y : Warp) => (c.counted .tmd y).markAll true regs
            exec i s = .next (if c.order = 1 ∨ on.any (fun l => s.outbound (pa l)) = true
              then (s.pend c regs (some (.tmd, 1)) op).holdsAt c s.uid f else (s.pend c regs (some (.tmd, 1)) op).after c f)) ∧
          (store = true →
            (s.behind c.w accs z = true → exec i s = .next s) ∧
            (s.behind c.w accs z = false → exec i s =
              .next ((s.pend c [] (some (.tmd, 1)) (.stt accs z time (c.order == 2) (c.mod8.testBit 6) [] [] [] 0 false)).after c
                (c.counted .tmd))))))

/-! ### Fences, caches, translation registers, semaphores, migration -/

/-- FENCE and cache control (R112, R123, R318, R319): a fence waits until what it orders is performed, then a system-scope release writes
the die's dirty lines back and an acquire at scope 5 or 6 applies every write to the die, unless one is held by a lost link; CWB is pending
and counted in GST, CINV.I drops the core's instruction words of the range and CINV.D its data lines, and PREF changes nothing. -/
def Sys2Proof.Claim.FencesAndCacheControl : Prop :=
  ∀ (s : State) (c : Cx) (k bs a b : BitVec 7),
    let release := k = 2 ∨ k = 3
    let acquire := k = 1 ∨ k = 3
    let held := s.ops.any (fun o => o.warp == c.w && o.kind.holdsRelease) = true ∨ (release ∧ 5 ≤ bs.toNat ∧ s.drained c.die = false) ∨
      (acquire ∧ 5 ≤ bs.toNat ∧ s.acquireHeld c.die = true)
    let va := (c.warp.qreg a.toNat).toNat % 2 ^ 57
    let len := (c.warp.sreg b.toNat).toNat
    let s1 := if release ∧ bs.toNat = 6 then s.writeBackSeen c.die else s
    let keep := (tget [] s.icache c.warp.core).filter (fun e => len == 0 || !(s.rangeHas c.die c.grid.ctx va len (4 * e.1)))
    let lines := (tget [] s.l1 c.warp.core).filter (fun e => len == 0 ||
      !(List.range 128).any (fun k => s.rangeHas c.die c.grid.ctx va len (128 * e + k)))
    (Ready s c (once (k != 0 && decide (k.toNat ≤ 3) && decide (bs.toNat ≤ 6)) accNoMod c [] []) →
      (held → exec (.fence k bs) s = .next s) ∧
      (¬ held → exec (.fence k bs) s = .next ((if acquire ∧ 5 ≤ bs.toNat then s1.applyAll c.die else s1).after c id))) ∧
    (Ready s c (once (even a) accNoMod c [qref a.toNat, sref b.toNat] []) →
      (len = 0 → exec (.cwb a b) s = .next (s.after c id)) ∧
      (len ≠ 0 → c.room .gst 1 = false → exec (.cwb a b) s = .next s) ∧
      (len ≠ 0 → c.room .gst 1 = true →
        exec (.cwb a b) s = .next ((s.pend c [] (some (.gst, 1)) (.cwb va len)).after c (c.counted .gst))) ∧
      exec (.cinvI a b) s = .next (({ s with icache := tset [] s.icache c.warp.core keep } : State).after c id) ∧
      exec (.cinvD a b) s = .next (({ s with l1 := tset [] s.l1 c.warp.core lines } : State).after c id) ∧ exec (.prefL2 a b) s = .next (s.after c id) ∧
      exec (.prefL1 a b) s = .next (s.after c id))

/-- XLATE and XDROP (R87, R88, R320): the register gets the page's frame from the address on, its bytes up to the page's end or the
cap, nothing in the BF16 window, and the page's permissions; a page that is absent or moving parks the warp. XDROP clears VALID only. -/
def Sys2Proof.Claim.TranslationRegisters : Prop :=
  ∀ (s : State) (c : Cx) (t : BitVec 3) (a b : BitVec 7),
    let va := (c.warp.qreg a.toNat).toNat % 2 ^ 57
    let cap := (c.warp.sreg b.toNat).toNat
    let page := [va / 65536 * 65536]
    (Ready s c (once (even a) accNoMod c [qref a.toNat, sref b.toNat] [.t t.toNat]) →
      (∀ f, s.leaf c.seat c.grid.ctx va = .error f →
        exec (.xlate t a b) s = .next (s.park c f.1 4 f.2 c.split.mask page va none)) ∧
      (∀ x, s.leaf c.seat c.grid.ctx va = .ok x →
        let room := x.base + (if x.size = 0 then 2 ^ 16 else if x.size = 1 then 2 ^ 21 else 2 ^ 30) - va
        let limit := if x.pte.testBit 10 then 0 else if cap ≠ 0 ∧ cap < room then cap else room
        (x.pte.testBit 7 = true →
          exec (.xlate t a b) s = .next (s.park c .tierMove 4 false c.split.mask page va none)) ∧
        (x.pte.testBit 7 = false →
          exec (.xlate t a b) s = .next (s.afterSlow c [.t t.toNat] [.t t.toNat
            { base := va, size := x.size, valid := true, stale := false, pa := x.pa, limit := limit, asid := c.ctx.asid,
              rd := x.pte.testBit 2, wr := x.pte.testBit 3, ac := x.pte.testBit 5, far := x.pte.testBit 6 }] 0)))) ∧
    (Ready s c (once true accNoMod c [] [.t t.toNat]) →
      exec (.xdrop t) s = .next (s.after c (fun w =>
        { w with t := tset TReg.invalid w.t t.toNat { c.warp.treg t.toNat with valid := false } })))

/-- Fences, cache control, XLATE and XDROP.
The model's choice, where the manual leaves it open: what an acquire applies and what a release waits for (log entry 25) and the
permission of XLATE and MIGRATE and the copy that SEMW reads (log entry 44). -/
def Obligations.FencesAndTranslationRegisters : Prop :=
  Sys2Proof.Claim.FencesAndCacheControl ∧ Sys2Proof.Claim.TranslationRegisters

/-- SEMS and SEMW (R321): SEMS is a pending addition at the home, released at device scope and counted in GST; SEMW goes on once the
semaphore at its home is at least the threshold, as a device-scope acquire, and waits until then, as it does for an access of its own warp
to the semaphore (R108), a held channel (R485) and a lost link (R466). -/
def Sys2Proof.Claim.Semaphores : Prop :=
  ∀ (s : State) (c : Cx) (a b : BitVec 7) (w sp : Nat),
    let va := (c.warp.qreg a.toNat).toNat % 2 ^ 57
    let add := (c.warp.sreg b.toNat).toNat
    let limit := (c.warp.qreg b.toNat).toNat
    let value := fun (pa : Nat) => ofBytes ((List.range 8).map (fun i => memByte s.mem (pa + i)))
    (Ready s c (once (even a) accNoMod c [qref a.toNat, sref b.toNat] []) →
      (c.room .gst 1 = false → exec (.sems a b) s = .next s) ∧
      (c.room .gst 1 = true →
        (va % 8 ≠ 0 → exec (.sems a b) s = .next (s.trap c .misalign c.split.mask va)) ∧
        (va % 8 = 0 → ∀ f, s.translate c.seat c.grid.ctx va .atomic = .error f →
          exec (.sems a b) s = .next ((s.raise c .gst 1).park c f.1 2 f.2 c.split.mask [va] va (some (.gst, 1)))) ∧
        (va % 8 = 0 → ∀ x, s.translate c.seat c.grid.ctx va .atomic = .ok x → x.window ≠ none →
          exec (.sems a b) s = .next (s.trap c .access c.split.mask va)) ∧
        (va % 8 = 0 → ∀ x, s.translate c.seat c.grid.ctx va .atomic = .ok x → x.window = none →
          (s.released c.w c.die 5 = false → exec (.sems a b) s = .next s) ∧
          (s.released c.w c.die 5 = true →
            exec (.sems a b) s = .next ((s.pend c [] (some (.gst, 1)) (.atom .add
              [⟨(lanes c.split.mask).headD 0, va, x.pa, toBytes add 8, [], none, 0, none⟩] 8 none 2 5)).after c (c.counted .gst)))))) ∧
    (Ready s c (once (even a && even b) accNoMod c [qref a.toNat, qref b.toNat] []) →
      (va % 8 ≠ 0 → exec (.semw a b) s = .next (s.trap c .misalign c.split.mask va)) ∧
      (va % 8 = 0 → ∀ x, s.translate c.seat c.grid.ctx va .load = .ok x → x.window = none → s.quiet → s.inPriv x.pa 8 = false →
        let clear := s.before c.w s.uid none x.pa 8 = false ∧ s.unserved c.die x.pa 8 = false ∧ s.acquireHeld c.die = false
        (limit ≤ value x.pa ∧ clear → exec (.semw a b) s = .next ((s.applyAll c.die).after c id)) ∧
        (¬ (limit ≤ value x.pa ∧ clear) → exec (.semw a b) s = .next (s.hold c (.sem va limit))))) ∧
    (∀ k, s.waiting w sp = some k → ∀ th, k.split.wait = .sem va th → ∀ x, s.translate k.seat k.grid.ctx va .load = .ok x →
      s.quiet → s.inPriv x.pa 8 = false →
      let clear := s.before k.w s.uid none x.pa 8 = false ∧ s.unserved k.die x.pa 8 = false ∧ s.acquireHeld k.die = false
      (¬ (th ≤ value x.pa ∧ clear) → exec (.semwSatisfied w sp) s = .next s) ∧
      (th ≤ value x.pa ∧ clear → exec (.semwSatisfied w sp) s = .next ((s.applyAll k.die).onWarp k (fun y => y.passAt sp))))

/-- MIGRATE and MIGRATE_SHIP (R63 to R65, R322): only a lone warp of a grid that allows it, with one split that runs and nothing
deferred, may migrate; at home it goes on, else it waits and is shipped once its registers are full and GLD, LRM, TCP and TMD are 0, over
a link that is up: to the first free landing position of the die, its handles gone and its translation registers stale. -/
def Sys2Proof.Claim.WarpMigration : Prop :=
  ∀ (s : State) (c : Cx) (a : BitVec 7),
    let va := (c.warp.qreg a.toNat).toNat % 2 ^ 57
    let alone := c.grid.migr = true ∧ c.group.warps.length = 1 ∧ entriesWith c.warp.splits (fun p => p.st == .run) = [c.sp] ∧
      entriesWith c.warp.splits (fun p => p.defSt != .empty) = []
    (Ready s c (once (even a) accNoMod c [qref a.toNat] []) →
      (¬ alone → exec (.migrate a) s = .next (s.trap c .illegal c.split.mask 0)) ∧
      (alone → ∀ x, s.xlatePath c.seat c.grid.ctx va = .ok x →
        (s.homeDie x.pa = c.die → exec (.migrate a) s = .next (s.after c id)) ∧
        (s.homeDie x.pa ≠ c.die → exec (.migrate a) s =
          .next (s.hold c (.migrate (s.homeDie x.pa)))))) ∧
    (∀ w d i k, s.waiting w 0 = some k → k.split.wait = .migrate d → s.reaches k.die d = true →
      k.warp.vE = 0 → k.warp.sE = 0 → k.warp.kE = 0 → k.warp.tE = 0 → k.warp.hE = 0 →
      k.warp.gld = 0 → k.warp.lrm = 0 → k.warp.tcp = 0 → k.warp.tmd = 0 →
      i < 32 → (s.landed d).contains (d * 384 + i) = false → (∀ j < i, (s.landed d).contains (d * 384 + j) = true) →
      ∃ t y g, exec (.migrateShip w) s = .next t ∧ t.mem = s.mem ∧ tfind t.warps w = some y ∧ tfind t.groups k.gid = some g ∧
        y.core = d * 384 + i ∧ y.slot = 0 ∧ y.landing = true ∧ y.h = [] ∧ g.core = d * 384 + i ∧
        y.t = k.warp.t.map (fun e => (e.1, { e.2 with stale := e.2.valid || e.2.stale })) ∧
        y.v = k.warp.v ∧ y.s = k.warp.s ∧ y.k = k.warp.k ∧ y.fstat = k.warp.fstat ∧ y.gst = k.warp.gst ∧
        y.split 0 = { k.split with
          pc := (loopEnd k.split.loops k.split.pc).2
          loops := (loopEnd k.split.loops k.split.pc).1
          hints := []
          stamp := s.slotCyc (d * 384 + i) 0
          since := s.slotCyc (d * 384 + i) 0
          stall := 0
          wait := .ready })

/-- Semaphores and warp migration.
The model's choice, where the manual leaves it open: which cores the landing positions belong to (log entry 21), what an acquire
applies and what a release waits for (log entry 25) and the permission of XLATE and MIGRATE and the copy that SEMW reads (log entry
44). -/
def Obligations.SemaphoresAndMigration : Prop :=
  Sys2Proof.Claim.Semaphores ∧ Sys2Proof.Claim.WarpMigration

/-! ### Handles and the matrix unit -/

namespace Sys2Proof.Machine

/-- The pieces lie in memory of the module outside the window and the private blocks, which die d reaches, and no injector waits. -/
def State.plainPieces (s : State) (d : Nat) (l : List Piece) : Prop :=
  s.quiet ∧ s.piecesHeld d l = false ∧ ∀ q ∈ l, q.win = none ∧ s.hostPort q.pa = none ∧ s.inPriv q.pa q.len = false

end Sys2Proof.Machine

/-- SEAL and HFREE (R337 to R339): an address off a 64-byte line is MISALIGN; SEAL copies the record that it reads and, with every field
in order, gives a VALID handle and status 0, else an INVALID one and 1 + the byte of the first failing field. A kind that does not
exist fails at byte 0. HFREE empties the register.
The model's choice, where the manual leaves it open: how much SEAL reads of a record of unknown kind (log entry 50). -/
def Obligations.HandlesAreSealedAndFreed : Prop :=
  ∀ (s : State) (c : Cx) (h q n : BitVec 4) (pieces more : List Piece) (l : List Byte),
    let va := (c.warp.qreg q.toNat).toNat % 2 ^ 57
    let kind := (s.view c.die ((pieces.headD ⟨0, 0, 0, none⟩).pa) 4).headD 0 % 16
    let size := if kind = 1 then 64 else if kind = 2 then 320 else if kind = 3 then 64 else if kind = 4 then 128 else 4
    let fields := if kind = 1 then matFields l else if kind = 2 then sufFields l else if kind = 3 then attnFields l
      else if kind = 4 then conFields l else [(0, false)]
    let st := match fields.find? (fun f => !f.2) with | some f => 1 + f.1 | none => 0
    (Ready s c (once (q.toNat % 2 == 0) accNoMod c [qref q.toNat] [.h h.toNat, .s n.toNat]) →
      (va % 64 ≠ 0 → exec (.seal h q n) s = .next (s.trap c .misalign c.split.mask va)) ∧
      (va % 64 = 0 → s.pieces c.die c.grid.ctx .load va 4 = .ok pieces → pieces.length = 1 → s.plainPieces c.die pieces →
        s.pieces c.die c.grid.ctx .load va size = .ok more → s.plainPieces c.die more →
        s.ownAhead c.w pieces = false → s.ownAhead c.w more = false → (∀ p ∈ more, s.piecePoison p = none) →
        l = more.flatMap (fun p => s.view c.die p.pa p.len) →
        exec (.seal h q n) s = .next (s.afterSlow c [.h h.toNat, .s n.toNat]
          [.h h.toNat (if st = 0 then ⟨.valid, l⟩ else ⟨.invalid, []⟩), .s n.toNat (BitVec.ofNat 32 st) false] 0))) ∧
    (Ready s c (once true accNoMod c [] [.h h.toNat]) →
      exec (.hfree h) s = .next (s.after c (fun w => { w with h := tset Handle.none w.h h.toNat ⟨.empty, []⟩ })))

/-- MMA, MLOOP and MRDY (R342 to R346): a handle that is not VALID or not a matrix record is HANDLE; a format whose path is off is
ILLEGAL, and a tile past its buffer ACCESS. MMA adds its record to the open set with the A rows that it captured or the latch
holds; MLOOP adds one operation of as many steps as its count, none for 0; MRDY of a warp narrower than 64 waits until the joint
MMA takes its rows. With 16 operations not yet started the split waits, and code that a divided call reached leaves the operation's rows
undefined (R344, R399). -/
def Sys2Proof.Claim.MatrixOperationsJoinTheOpenSet : Prop :=
  ∀ (s : State) (c : Cx) (h v n : BitVec 4) (k r : BitVec 1),
    let va := 8 * v.toNat
    let x := c.warp.hreg h.toNat
    let good := x.st = .valid ∧ leAt x.bytes 0 1 % 16 = 1
    let m := MatRec.read x.bytes
    let on := s.pathOn c.warp.core m.afmt = true ∧ s.pathOn c.warp.core m.bfmt = true
    let past := fun (j : Nat) => ((m.step j).tiles.find? (fun t => decide (c.grid.bufSize t.1 < t.2.1 + t.2.2))).map (fun t => t.2.1)
    let steps := (c.warp.sreg n.toNat).toNat
    let full := 16 ≤ ((c.warp.openSet ++ c.warp.batches.flatMap (fun b => b.ops)).filter (fun o => o.ran == 0)).length
    let loose : Mask := if c.split.div = 0 then 0 else BitVec.allOnes 64
    let adds := fun (o : MatOp) (f : Warp → Warp) => s.after c (fun w => f { w with openSet := w.openSet ++ [o] })
    let rows := (List.range 64).map (fun l => if c.split.mask.getLsbD l then
      some (⟨(List.range 16).flatMap (fun j => toBytes (c.warp.vreg (va + j) l).toNat 4),
        (List.range 16).foldl (fun b j => bvPut b j (c.warp.vPois (va + j) l)) 0⟩ : ARow) else none)
    let scales := if m.afmt = 1 then (List.replicate 256 0, 0) else (c.group.bytes 0 m.asoff 256,
      maskOf ((List.range 64).filter (fun l => c.group.poisonIn 0 (m.asoff + 4 * l) 4)))
    (full → Ready s c (mmaIssue h.toNat va c) → exec (.mma h v k r) s = .next s) ∧
    (¬ full → Ready s c (mmaIssue h.toNat va c) →
      (¬ good → exec (.mma h v k r) s = .next (s.trap c .handle c.split.mask h.toNat)) ∧
      (good → c.mmaIllegal m va (r == 1) = true ∨ ¬ on → exec (.mma h v k r) s = .next (s.trap c .illegal c.split.mask 0)) ∧
      (good → c.mmaIllegal m va (r == 1) = false → on →
        (∀ o, past 0 = some o → exec (.mma h v k r) s = .next (s.trap c .access c.split.mask o)) ∧
        (past 0 = none →
          (∀ t, c.warp.latch = some t → exec (.mma h v k r) s = .next (adds
            ⟨x.bytes, some t.rows, some (t.ascal, t.ascalP), 1, k == 1, none, 0, 0, [], 0, loose, []⟩
            (fun w => { w with latch := if r = 1 then some t else none }))) ∧
          (c.warp.latch = none → m.asrc = true →
            exec (.mma h v k r) s = .next (adds ⟨x.bytes, none, none, 1, k == 1, none, 0, 0, [], 0, loose, []⟩ id)) ∧
          (c.warp.latch = none → m.asrc = false → c.grid.w = 64 →
            exec (.mma h v k r) s = .next (adds
              ⟨x.bytes, some rows, if r = 1 then some scales else none, 1, k == 1, some (va, c.split.mask), 0, 0, [], 0, loose, []⟩
              (fun w => { w with
                bound := (List.range 16).foldl (fun b j => bvPut b (va + j) true) w.bound
                latch := if r = 1 then some ⟨m.afmt, rows, scales.1, scales.2⟩ else none }))) ∧
          (c.warp.latch = none → m.asrc = false → s.jointRows c va = none →
            exec (.mma h v k r) s = .next (s.hold c (.joint h.toNat va (r.toNat + 2 * k.toNat))))))) ∧
    (full → Ready s c (once true accNoMod c [[.h h.toNat], sref n.toNat] []) → exec (.mloop h n k) s = .next s) ∧
    (¬ full → Ready s c (once true accNoMod c [[.h h.toNat], sref n.toNat] []) →
      (¬ good → exec (.mloop h n k) s = .next (s.trap c .handle c.split.mask h.toNat)) ∧
      (good → m.asrc = false → exec (.mloop h n k) s = .next (s.trap c .handle c.split.mask h.toNat)) ∧
      (good → m.asrc = true → on →
        (steps = 0 → exec (.mloop h n k) s = .next (s.after c id)) ∧
        (4095 < steps → exec (.mloop h n k) s = .next (s.trap c .access c.split.mask steps)) ∧
        (0 < steps → steps ≤ 4095 →
          (∀ o, past (steps - 1) = some o → exec (.mloop h n k) s = .next (s.trap c .access c.split.mask o)) ∧
          (past (steps - 1) = none →
            exec (.mloop h n k) s = .next (adds ⟨x.bytes, none, none, steps, k == 1, none, 0, 0, [], 0, loose, []⟩ id))))) ∧
    (Ready s c { once (va % 16 == 0 && c.vok va 16) accNoMod c [vref va 16] [] with poison := 0 } →
      (c.grid.w = 64 → exec (.mrdy v) s = .next (s.trap c .illegal c.split.mask 0)) ∧
      (c.grid.w ≠ 64 → ∀ u f, c.jointWarps.head? = some u → tfind s.warps u = some f →
        (f.life = .exited → exec (.mrdy v) s = .next (s.after c id)) ∧
        (f.life ≠ .exited → exec (.mrdy v) s = .next ((s.onWarp c (fun w =>
          { w with mrdys := w.mrdys ++ [⟨c.sp, va, c.split.div != 0⟩] })).hold c .mrdy))))

/-- JOINT_ISSUE_PAIRING (R342, R344, R345): the waiting MMA of the first member adds its operation, with the rows that every member supplies,
once all are there and fewer than 16 operations of the warp have not started, and the other members' oldest MRDY go on. A record that has
changed meanwhile is checked again: where a check fails the MMA issues anew. -/
def Sys2Proof.Claim.JointIssuePairs : Prop :=
  ∀ (s : State) (w h va t : Nat) (c : Cx) (x : Handle) (rows : List (Option ARow)),
    s.waiting w 0 = some c → c.split.wait = .joint h va t → c.warp.hreg h = x → x.st = .valid → leAt x.bytes 0 1 % 16 = 1 →
    c.warp.bound = 0 → c.warp.loose = [] → c.split.div = 0 → (c.jointWarps.drop 1).contains w = false →
      let m := MatRec.read x.bytes
      let bad := c.readsRegs m = false ∨ c.mmaIllegal m va (t.testBit 0) = true ∨ s.pathOn c.warp.core m.afmt = false ∨
        s.pathOn c.warp.core m.bfmt = false ∨ ∃ y ∈ (m.step 0).tiles, c.grid.bufSize y.1 < y.2.1 + y.2.2
      let full := 16 ≤ ((c.warp.openSet ++ c.warp.batches.flatMap (fun b => b.ops)).filter (fun o => o.ran == 0)).length
      let latch := if t.testBit 0 then some (c.takeScales m) else none
      (bad → exec (.jointIssuePairing w) s = .next (s.unhold c)) ∧
      (¬ bad → full → exec (.jointIssuePairing w) s = .next s) ∧
      (¬ bad → ¬ full → s.jointRows c va = none → exec (.jointIssuePairing w) s = .next s) ∧
      (¬ bad → ¬ full → s.jointRows c va = some rows →
        ∃ u y, exec (.jointIssuePairing w) s = .next u ∧ u.mem = s.mem ∧ tfind u.warps w = some y ∧
          y.openSet = c.warp.openSet ++ [⟨x.bytes, some rows, latch, 1, t.testBit 1, some (va, c.split.mask), 0, 0, [], 0, s.looseRows c, []⟩] ∧
          y.latch = latch.map (fun e => ⟨m.afmt, rows, e.1, e.2⟩) ∧ (y.split 0).wait = .ready ∧
          (y.split 0).pc = (loopEnd c.split.loops c.split.pc).2)

/-- MMA, MLOOP, MRDY and joint issue.
The model's choice, where the manual leaves it open: that a read of a bound register is free (log entry 23), when a joint operation
takes its members' rows (log entry 45), when an operation reads A and its scales (log entry 47), that the operations not started of a
warp share 16 places (log entry 49) and which calls are divided, which the split counts in div (log entry 138). -/
def Obligations.MatrixOperationsJoinAndPair : Prop :=
  Sys2Proof.Claim.MatrixOperationsJoinTheOpenSet ∧ Sys2Proof.Claim.JointIssuePairs

/-- MFENCE, MWAIT (R347 to R349): MFENCE closes the open set as batch NB, writes NB and counts it up modulo 256, and waits while eight
batches are not complete; MWAIT on NB itself is ILLEGAL, and on a batch that is not complete it waits with its register empty. -/
def Sys2Proof.Claim.BatchesCloseAndAreAwaited : Prop :=
  ∀ (s : State) (c : Cx) (d : BitVec 4) (n : BitVec 8),
    let open' := (c.warp.batches.filter (fun b => !b.done)).length
    let back := (c.warp.nb - n).toNat
    let last := c.warp.batches[c.warp.batches.length - back]?
    Ready s c (once true accNoMod c [] [.s d.toNat]) →
      (8 ≤ open' → exec (.mfence d) s = .next s) ∧
      (open' < 8 → ∃ t y, exec (.mfence d) s = .next t ∧ t.mem = s.mem ∧ tfind t.warps c.w = some y ∧
        y.openSet = [] ∧ y.nb = c.warp.nb + 1 ∧ y.sE.getLsbD d.toNat = true ∧ y.s = c.warp.s ∧
        (∃ b, y.batches = c.warp.batches ++ [b] ∧ b.num = c.warp.nb ∧ b.ops = c.warp.openSet ∧
          b.done = (c.warp.part.map (fun p => p.done)).getD false) ∧
        t.ops = s.ops ++ [⟨s.uid, c.w, c.sp, c.die, c.grid.ctx, c.split.first, [.s d.toNat], none,
          .result [.s d.toNat (BitVec.ofNat 32 c.warp.nb.toNat) false] 0, 2, c.ctx.asid⟩]) ∧
      (back = 0 → exec (.mwait d n) s = .next (s.trap c .illegal c.split.mask 0)) ∧
      (∀ b, 0 < back → back ≤ 8 → back ≤ c.warp.batches.length → last = some b → b.done = false →
        exec (.mwait d n) s = .next ((s.onWarp c (fun w => w.mark true (.s d.toNat))).hold c (.mwait d.toNat n.toNat))) ∧
      (∀ b, 0 < back → back ≤ 8 → back ≤ c.warp.batches.length → last = some b → b.done = true →
        let named := (c.warp.batches.take (c.warp.batches.length + 1 - back)).filter (fun x => !x.named)
        (∀ x ∈ named, x.poison = none) →
        ∃ t y, exec (.mwait d n) s = .next t ∧ t.mem = s.mem ∧ tfind t.warps c.w = some y ∧
          y.s = tset 0 c.warp.s d.toNat (if b.chkmis then 1 else 0) ∧ y.fstat = c.warp.fstat ||| named.foldl (fun f x => (x.past.flatMap (fun o => o.flags)).foldl (fun g e => g ||| e) (f ||| x.flags)) 0 ∧
          (y.split c.sp).pc = (loopEnd c.split.loops c.split.pc).2)

/-- MFENCE, MWAIT and BATCH_COMPLETE complete (R347 to R349): MFENCE where fewer than eight batches are open; MWAIT on a batch that is
complete, or that lies more than eight places back, or was never closed, with status 0 there, and no poison gathered; and the oldest
batch not complete, whatever operations it holds, is complete after BATCH_COMPLETE. -/
def Sys2Proof.Claim.BatchInstructionsComplete : Prop :=
  (∀ (s : State) (c : Cx) (d : BitVec 4) (n : BitVec 8),
    let back := (c.warp.nb - n).toNat
    let old := c.warp.batches[c.warp.batches.length - back]?
    let here := fun (y : Warp) => (y.split c.sp).pc = (loopEnd c.split.loops c.split.pc).2
    Ready s c (once true accNoMod c [] [.s d.toNat]) →
      ((c.warp.batches.filter (fun b => !b.done)).length < 8 → ∃ t y, exec (.mfence d) s = .next t ∧ tfind t.warps c.w = some y ∧ here y ∧
        y.openSet = [] ∧ y.nb = c.warp.nb + 1 ∧ y.batches.length = c.warp.batches.length + 1) ∧
      (0 < back → (8 < back ∨ c.warp.batches.length < back ∨ ∃ b, old = some b ∧ b.done = true) → (∀ b ∈ c.warp.batches, b.poison = none) →
        ∃ t y, exec (.mwait d n) s = .next t ∧ t.mem = s.mem ∧ tfind t.warps c.w = some y ∧ here y ∧
          (8 < back ∨ c.warp.batches.length < back → y.s = tset 0 c.warp.s d.toNat 0) ∧
          (back ≤ 8 → back ≤ c.warp.batches.length → ∀ b, old = some b → y.s = tset 0 c.warp.s d.toNat (if b.chkmis then 1 else 0)))) ∧
  (∀ (s : State) (w i : Nat) (c : Cx), s.cxOf w 0 = some c → c.warp.batches.findIdx? (fun x => !x.done) = some i →
    (∀ p ∈ c.warp.splits, ∀ sd n, p.wait ≠ .mwait sd n) →
    ∃ t y e, exec (.batchComplete w) s = .next t ∧ t.mem = s.mem ∧ tfind t.warps w = some y ∧ y.batches[i]? = some e ∧ e.done = true ∧
      e.ops = [] ∧ (∀ j, j ≠ i → y.batches[j]? = c.warp.batches[j]?) ∧ y.s = c.warp.s ∧ y.v = c.warp.v)

/-- BATCH_COMPLETE (R154, R342, R347): the oldest batch that is not complete runs its operations in order on the C buffer; with a single
operation of one step that spoils nothing, each C element of a row with an A line becomes the old value plus each group's sum in
turn, the rows without stay, and the flags are gathered. -/
def Sys2Proof.Claim.BatchesComplete : Prop :=
  ∀ (s : State) (w i : Nat) (c : Cx) (b : Batch) (o : MatOp),
    s.cxOf w 0 = some c → c.warp.batches.findIdx? (fun x => !x.done) = some i → c.warp.batches[i]? = some b → b.ops = [o] → o.steps = 1 → o.ran = 0 →
    o.undefRows = 0 → o.undefCols = 0 → o.undefWords = [] → o.loose = 0 → (∀ p ∈ c.warp.splits, ∀ sd n, p.wait ≠ .mwait sd n) →
    let m := MatRec.read o.bytes
    let g := c.group
    let skip := fun (n k : Nat) => (m.bitmap g).testBit (4 * n + k)
    let old := fun (r n : Nat) => ofBytes (g.bytes 2 (m.coff + 256 * r + 4 * n) 4)
    let new := fun (r n : Nat) => match o.row g m r with
      | none => old r n
      | some a => (((List.range a.elems.length).filter (fun k => !skip n k)).foldl (fun acc k =>
          (accGroup acc (groupSum ((a.elems.getD k []).zip ((MatOp.col g c.ctx.cbEntry m n).elems.getD k [])))).1) (old r n))
    ∃ t y g', exec (.batchComplete w) s = .next t ∧ t.mem = s.mem ∧ tfind t.warps w = some y ∧ tfind t.groups c.gid = some g' ∧
      (∀ r n, r < 64 → n < 64 → ofBytes (g'.bytes 2 (m.coff + 256 * r + 4 * n) 4) = new r n % 2 ^ 32) ∧
      (∀ a, a < m.coff ∨ m.coff + 16384 ≤ a → tget 0 g'.cbuf a = tget 0 g.cbuf a) ∧ g'.abuf = g.abuf ∧ g'.wbuf = g.wbuf ∧
      (∀ j, j ≠ i → y.batches[j]? = c.warp.batches[j]?) ∧ (∃ e, y.batches[i]? = some e ∧ e.done = true ∧ e.num = b.num ∧ e.ops = []) ∧
      y.s = c.warp.s ∧ y.v = c.warp.v ∧ y.fstat = c.warp.fstat

/-- MFENCE, MWAIT and the completion of a batch; and what a group value is over the integers (R154).
The model's choice, where the manual leaves it open: which poisoned word of a batch is found first (log entry 46), which batches MWAIT
names (log entry 48) and that the operations not started of a warp share 16 places (log entry 49). -/
def Obligations.BatchesCloseAndComplete : Prop :=
  Sys2Proof.Claim.BatchesCloseAndAreAwaited ∧ Sys2Proof.Claim.BatchInstructionsComplete ∧ Sys2Proof.Claim.BatchesComplete ∧
  Sys2Proof.Claim.GroupSumsAreExact

/-! ### Engine instructions -/

namespace Sys2Proof.Machine

/-- The sentence record at va can be read by the instruction, which is no replay: each byte is in plain memory that is not poisoned, no
access of the warp comes first, and it is valid; l is what the instruction takes of it, which keeps an earlier reading's fields but ARRAY
(R170, R171, R336). -/
structure SentReady (s : State) (c : Cx) (va : Nat) (old l : List Byte) : Prop where
  fresh : c.warp.replay = none
  pieces : ∃ p, s.pieces c.die c.grid.ctx .load va 128 = .ok p ∧ s.plainPieces c.die p ∧ (∀ q ∈ p, s.piecePoison q = none) ∧
    s.ownAhead c.w p = false ∧
    (let now := p.flatMap (fun q => s.view c.die q.pa q.len)
     l = if old = [] then now else now.take 16 ++ old.drop 16)
  valid : sentValid l = true

/-- An engine instruction is at work for its split (R200, R335): GST raised, its registers empty, no reading kept for a replay, its split
held, its frame reader counted under the parity of the die's epoch. -/
def State.working (s : State) (c : Cx) (full : List RegRef) (func : Nat) (args : List Nat) (reader : Bool) : State :=
  let p := (s.die c.die).re % 2
  let s1 := if reader then s.setDie c.die (fun x => if p = 0 then { x with c0 := x.c0 + 1 } else { x with c1 := x.c1 + 1 }) else s
  (s1.pend c full (some (.gst, 1)) (.work func args (if reader then p else 2))).holdsAt c s.uid
    (fun x => { (c.counted .gst x).markAll true full with kept := [] })

end Sys2Proof.Machine

/-- SUFX (R351 to R353): a wrong handle is HANDLE and a tile past the C buffer ACCESS; with a poisoned C word it raises POISON at the
word; else, with every row in plain memory that it may store to, the 64 rows that R352 forms of the tile are one posted write,
counted in GST until performed; with an older access of the warp to their bytes still to come they wait.
The model's choice, where the manual leaves it open: when a suffix computes and what a tile past its buffer raises (log entry 51). -/
def Obligations.SuffixRowsAreIssued : Prop :=
  (∀ (s : State) (c : Cx) (h : BitVec 4) (pieces : Nat → List Piece) (scales : Nat → List Piece),
    let x := c.warp.hreg h.toNat
    let good := x.st = .valid ∧ leAt x.bytes 0 1 % 16 = 2
    let r := SufRec.read x.bytes
    let tile := c.group.tile r.coff
    let rows := (List.range 64).map (fun i => r.row x.bytes (((tile.map (fun e => e.1 % 2 ^ 32)).drop (64 * i)).take 64))
    let puts := (List.range 64).flatMap (fun i =>
      let y := rows.getD i ([], [], 0)
      [((pieces i, y.1, []) : Put), (scales i, y.2.1, [])])
    let post := s.enginePost c.die puts
    Ready s c (once true accNoMod c [[.h h.toNat]] []) → c.warp.replay = none → s.cPending c.gid r.coff 16384 = false →
      (¬ good → exec (.sufx h) s = .next (s.trap c .handle c.split.mask h.toNat)) ∧
      (good → c.grid.bufSize 2 < r.coff + 16384 → exec (.sufx h) s = .next (s.trap c .access c.split.mask r.coff)) ∧
      (good → r.coff + 16384 ≤ c.grid.bufSize 2 →
        (c.room .gst 1 = false → exec (.sufx h) s = .next s) ∧
        (c.room .gst 1 = true →
          (∀ i, tile.findIdx? (fun e => e.2) = some i →
            exec (.sufx h) s = .next (s.trap c .poison c.split.mask (r.coff + 4 * i))) ∧
          (tile.findIdx? (fun e => e.2) = none →
            (∀ i < 64, s.pieces c.die c.grid.ctx .store (r.out + i * r.stride) (rowSize r.ofmt) = .ok (pieces i) ∧
              (if 2 ≤ r.ofmt ∧ r.ofmt ≤ 5 then s.pieces c.die c.grid.ctx .store (r.oscale + 2 * i) 2 = .ok (scales i)
                else scales i = [])) →
            (puts.any (fun p => s.putsAhead c.w s.uid p.1) = true → exec (.sufx h) s = .next s) ∧
            (puts.any (fun p => s.putsAhead c.w s.uid p.1) = false → exec (.sufx h) s = .next ((post.1.pend c [] (some (.gst, 1))
              (.engine post.2.1 post.2.2 (rows.foldl (fun f y => f ||| y.2.2) 0))).after c
                (fun w => { c.counted .gst w with sufx := none }))))))) ∧
  Sys2Proof.Claim.SuffixElements

/-- ATTN and SELPG issue (R181, R185, R190, R200, R354 to R356): the checks of R355 in their order, then the work begins as a frame
reader. A first ATTN commits where it starts to its progress block; one that had begun goes on from there. -/
def Sys2Proof.Claim.AttentionIssues : Prop :=
  ∀ (s : State) (c : Cx) (h n d : BitVec 4) (l : List Byte) (list out : List Piece),
    let x := c.warp.hreg h.toNat
    let good := x.st = .valid ∧ leAt x.bytes 0 1 % 16 = 3
    let r := AttnRec.read x.bytes
    let q := SentRec.read l
    let len := (c.warp.sreg n.toNat).toNat
    let s1 := s.applyAll c.die
    let fail := fun (i : Nat) => Host.Outcome.next (s1.trap c .access c.split.mask i)
    let begun := match tfind c.warp.attnZ c.sp with
      | some e => if e.pc = c.split.pc then some e else none
      | none => none
    let checks := fun (i : Instr) (old : List Byte) (rest : Prop) =>
      (c.room .gst 1 = false → exec i s = .next s) ∧
      (c.room .gst 1 = true → ¬ good → exec i s = .next (s.trap c .handle c.split.mask h.toNat)) ∧
      (c.room .gst 1 = true → good → SentReady s c r.recd old l →
        (q.lm1 < r.layer ∨ q.h ≤ r.head → exec i s = fail r.recd) ∧ (r.layer ≤ q.lm1 → r.head < q.h → rest))
    (Ready s c (once true accNoMod c [[.h h.toNat], sref n.toNat] []) → checks (.attn h n) ((begun.map (fun e => e.recd)).getD [])
      ((len = 0 ∨ 256 < len → exec (.attn h n) s = fail len) ∧
       (0 < len → len ≤ 256 →
        (c.grid.bufSize 0 < r.qoff + 2 * q.d * q.g → exec (.attn h n) s = fail r.qoff) ∧
        (r.qoff + 2 * q.d * q.g ≤ c.grid.bufSize 0 →
          (c.grid.bufSize 2 < r.caoff + (64 + q.g * (8 + 4 * q.d)) → exec (.attn h n) s = fail r.caoff) ∧
          (r.caoff + (64 + q.g * (8 + 4 * q.d)) ≤ c.grid.bufSize 2 →
            s1.pieces c.die c.grid.ctx .load r.list (2 * len) = .ok list → s1.ownAhead c.w list = false →
            s1.pieces c.die c.grid.ctx .store r.out (4 * q.g * q.d) = .ok out →
            s1.plainPieces c.die list → (∀ e ∈ list, s1.piecePoison e = none) →
            let pages := listOf (list.flatMap (fun e => s1.view c.die e.pa e.len)) len
            let args := nats x.bytes ++ nats l ++ pages
            let s2 := s1.bufWrite c.gid 2 r.caoff (AttnSt.start q r).bytes false
            let first : AttnAt := ⟨c.split.pc, r.caoff, 64 + q.g * (8 + 4 * q.d), l, []⟩
            (∀ a, c.group.firstPoison 0 r.qoff (2 * q.d * q.g) = some a →
              exec (.attn h n) s = .next (s1.trap c .poison c.split.mask a)) ∧
            (c.group.firstPoison 0 r.qoff (2 * q.d * q.g) = none →
              (∀ i, listOffence pages = some i → exec (.attn h n) s = fail i) ∧
              (listOffence pages = none →
                (begun ≠ none → exec (.attn h n) s = .next (s1.working c [] 0 args true)) ∧
                (begun = none → exec (.attn h n) s = .next (s2.working { c with warp :=
                  { (tfind s2.warps c.w).getD c.warp with attnZ := tput c.warp.attnZ c.sp first } } [] 0 args true))))))))) ∧
    (Ready s c (once true accNoMod c [[.h h.toNat]] [.s d.toNat]) → checks (.selpg h d) []
      ((c.grid.bufSize 0 < r.qoff + 2 * q.d * q.g → exec (.selpg h d) s = fail r.qoff) ∧
       (r.qoff + 2 * q.d * q.g ≤ c.grid.bufSize 0 →
        (r.qmask = 0 ∨ 2 ^ q.g ≤ r.qmask → exec (.selpg h d) s = fail r.qmask) ∧
        (0 < r.qmask → r.qmask < 2 ^ q.g →
          exec (.selpg h d) s = .next (s1.working c [.s d.toNat] 1 (d.toNat :: nats x.bytes ++ nats l) true)))))

/-- CTRC and EXPD issue (R207, R208, R361 to R363): CTRC's checks, after which the store that clears its map's valid byte is issued and
the work begins, though a size be poisoned; EXPD reads the map once, refuses a stale or invalid one, and begins with the row list that
it read. -/
def Sys2Proof.Claim.ContractionIssues : Prop :=
  ∀ (s : State) (c : Cx) (h bs q r : BitVec 4) (t : BitVec 9) (l : List Byte) (ps outs : List (List Piece)) (p : Piece) (m o : List Piece),
    let x := c.warp.hreg h.toNat
    let good := x.st = .valid ∧ leAt x.bytes 0 1 % 16 = 4
    let k := ConRec.read x.bytes
    let s1 := s.applyAll c.die
    let sizes := listOf ((ps.getD 2 []).flatMap (fun e => s1.view c.die e.pa e.len)) k.nin
    let least := (conSet sizes false).length + (conSet sizes true).length - k.rmax
    (Ready s c (once true accNoMod c [[.h h.toNat]] (sref bs.toNat)) →
      (c.room .gst 1 = false → exec (.ctrc h bs) s = .next s) ∧
      (c.room .gst 1 = true → ¬ good → exec (.ctrc h bs) s = .next (s.trap c .handle c.split.mask h.toNat)) ∧
      (c.room .gst 1 = true → good → SentReady s c k.recd [] l →
        s1.piecesAll c.die c.grid.ctx [(k.ink, 2 * k.nin * k.h * k.d, .load, 0), (k.inv, 2 * k.nin * k.h * k.d, .load, 0),
          (k.ins, 2 * k.nin, .load, 0), (k.map, 32 + 2 * k.nin, .store, 6)] = .ok ps →
        ps.any (fun e => s1.ownAhead c.w e) = false →
        s1.plainPieces c.die (ps.getD 2 []) →
        s1.piecesAll c.die c.grid.ctx [(k.outk, 2 * least * k.h * k.d, .store, 6), (k.outv, 2 * least * k.h * k.d, .store, 6),
          (k.outs, 2 * least, .store, 6)] = .ok outs →
        let small := (∀ e ∈ ps.getD 2 [], s1.piecePoison e = none) ∧ (conSet sizes false).length < k.rmax
        (small → exec (.ctrc h bs) s = .next (s1.trap c .access c.split.mask k.rmax)) ∧
        (¬ small → s1.pieces c.die c.grid.ctx .store (k.map + 16) 1 = .ok [p] →
          (s1.putsAhead c.w s.uid [p] = true → exec (.ctrc h bs) s = .next s) ∧
          (s1.putsAhead c.w s.uid [p] = false →
            exec (.ctrc h bs) s = .next ((s1.issuePuts c [([p], [0], [])]).working c (sref bs.toNat) 2
              (bs.toNat :: nats x.bytes ++ nats l) false))))) ∧
    (let src := (c.warp.qreg q.toNat).toNat % 2 ^ 57
     let dst := (c.warp.qreg r.toNat).toNat % 2 ^ 57
     let map := m.flatMap (fun e => s1.view c.die e.pa e.len)
     let nin := leAt map 12 2
     let out := listOf (o.flatMap (fun e => s1.view c.die e.pa e.len)) nin
     Ready s c (once (q.toNat % 2 == 0 && r.toNat % 2 == 0) accNoMod c [[.h h.toNat], qref q.toNat, qref r.toNat] []) →
      (c.room .gst 1 = false → exec (.expd h q r t) s = .next s) ∧
      (c.room .gst 1 = true → good → c.warp.replay = none → src % 16 ≠ 0 →
        exec (.expd h q r t) s = .next (s.trap c .misalign c.split.mask src)) ∧
      (c.room .gst 1 = true → good → src % 16 = 0 → dst % 16 = 0 → SentReady s c k.recd [] l →
        s1.pieces c.die c.grid.ctx .load k.map 32 = .ok m → s1.plainPieces c.die m → (∀ e ∈ m, s1.piecePoison e = none) →
        s1.ownAhead c.w m = false →
        ((leAt map 16 1).testBit 0 = false ∨ leAt map 8 4 ≠ (SentRec.read l).gen ∨ leAt map 0 8 % 2 ^ 57 ≠ k.recd →
          exec (.expd h q r t) s = .next (s1.trap c .mapstale c.split.mask k.map)) ∧
        ((leAt map 16 1).testBit 0 = true → leAt map 8 4 = (SentRec.read l).gen → leAt map 0 8 % 2 ^ 57 = k.recd →
          mapValid map = true → s1.pieces c.die c.grid.ctx .load (k.map + 32) (2 * nin) = .ok o →
          s1.plainPieces c.die o → (∀ e ∈ o, s1.piecePoison e = none) → s1.ownAhead c.w o = false →
          (∀ e ∈ out, e < leAt map 14 2 ∨ e = 0xFFFF) →
          exec (.expd h q r t) s = .next (s1.working c [] 3 (16 * (t.toNat + 1) :: src :: dst :: nats l ++ out) false))))

/-- ATTN, SELPG and CTRC.
The model's choice, where the manual leaves it open: ATTN's progress block (log entry 22), what a misaligned record of an engine
instruction raises (log entry 42) and that ATTN goes on page by page (log entry 53). -/
def Obligations.AttentionAndContractionIssue : Prop :=
  Sys2Proof.Claim.AttentionIssues ∧ Sys2Proof.Claim.ContractionIssues

/-- ENGINE_INSTRUCTION_DONE of an EXPD (R208, R335, R363): with its source and destination rows in plain memory, apart from one another
and not poisoned, the destination rows are posted as one write: row t is the source row that the list names, or zeros where it
names none; the split goes on past the instruction. -/
def Sys2Proof.Claim.ExpansionCopiesRows : Prop :=
  ∀ (s : State) (w n rowb src dst par : Nat) (sent out : List Nat) (c : Cx) (o : Op) (row : Nat → Piece) (into : Nat → Piece),
    s.waiting w 0 = some c → c.split.wait = .op n → EndsAlone s n o → o.warp = w → o.die = c.die → o.full = [] →
    o.kind = .work 3 (rowb :: src :: dst :: sent ++ out) par → sent.length = 128 → par = 2 → 0 < rowb → rowb % 16 = 0 → out ≠ [] →
    (∀ t < out.length, s.pieces c.die c.grid.ctx .store (dst + t * rowb) rowb = .ok [into t] ∧ (into t).win = none ∧ (into t).len = rowb ∧
      s.putsAhead w n [into t] = false) →
    (∀ (t e : Nat), out[t]? = some e → e ≠ 0xFFFF →
      s.pieces c.die c.grid.ctx .load (src + e * rowb) rowb = .ok [row e] ∧ (row e).len = rowb ∧ s.plainPieces c.die [row e] ∧
      s.poisoned (row e).pa rowb = false ∧ s.ownOlder w n [row e] = false ∧
      ∀ k < out.length, (row e).pa + rowb ≤ (into k).pa ∨ (into k).pa + rowb ≤ (row e).pa) →
    (∀ t k, t < out.length → k < out.length → t ≠ k → (into t).pa + rowb ≤ (into k).pa ∨ (into k).pa + rowb ≤ (into t).pa) →
    ∃ u y, exec (.engineInstructionDone w 0) s = .next u ∧ u.mem = s.mem ∧ tfind u.warps w = some y ∧
      (∀ (t e : Nat), out[t]? = some e → ∀ k < rowb, u.viewByte c.die ((into t).pa + k) =
        if e = 0xFFFF then 0 else s.viewByte c.die ((row e).pa + k)) ∧
      (∀ a, (∀ t < out.length, a < (into t).pa ∨ (into t).pa + rowb ≤ a) → u.viewByte c.die a = s.viewByte c.die a) ∧
      (y.split 0).pc = (loopEnd c.split.loops c.split.pc).2 ∧ (y.split 0).wait = .ready ∧ y.v = c.warp.v ∧ y.s = c.warp.s ∧
      u.ops = s.ops.map (fun x => if x.id = n then { x with kind := .engine s.uid [] 0 } else x)

/-- What CTRC makes of a chunk (R203 to R206): no token is lost, for the sizes that go out sum to those that came in; at most RMAX
tokens merge; each row of the map names a surviving token, or 0xFFFF where the size was 0; there are as many rows out as sizes. -/
def Sys2Proof.Claim.ContractionKeepsTheTokens : Prop :=
  ∀ (h d rmax : Nat) (sizes : List Nat) (k v : Nat → Nat), (∀ x ∈ sizes, x ≤ 65535) →
    let r := contract h d rmax sizes k v
    let live := (sizes.filter (fun x => x != 0)).length
    r.sizes.foldl (fun n x => n + x) 0 = sizes.foldl (fun n x => n + x) 0 ∧
    (∀ x ∈ r.sizes, 0 < x ∧ x ≤ 65535) ∧
    live ≤ r.sizes.length + rmax ∧ r.sizes.length ≤ live ∧
    r.out.length = sizes.length ∧ r.keys.length = r.sizes.length * (h * d) ∧ r.vals.length = r.sizes.length * (h * d) ∧
    (∀ t, t < sizes.length → (sizes.getD t 0 = 0 → r.out.getD t 0 = 0xFFFF) ∧
      (sizes.getD t 0 ≠ 0 → r.out.getD t 0 < r.sizes.length))

/-- MASSR, TIER and their results (R173, R176 to R178, R357, R359): an address off a 128-byte line is MISALIGN; else the request to the
slot of the record is pending, GLD raised and the split held. At the slot's home MASSR returns the word that R357 forms, and with
.CLR clears the mass; TIER returns why no move starts. -/
def Sys2Proof.Claim.SlotRequests : Prop :=
  (∀ (s : State) (c : Cx) (q bs r d : BitVec 4) (a n : BitVec 1) (l : List Byte) (pa : Nat) (base : Nat × Nat),
    let va := (c.warp.qreg q.toNat).toNat % 2 ^ 57
    let i := (c.warp.sreg bs.toNat).toNat
    let s1 := s.applyAll c.die
    let asks := fun (j : Instr) (full : List RegRef) (k : OpKind) =>
      (c.room .gld 1 = false → exec j s = .next s) ∧
      (c.room .gld 1 = true → c.warp.replay = none → va % 128 ≠ 0 → exec j s = .next (s.trap c .misalign c.split.mask va)) ∧
      (c.room .gld 1 = true → va % 128 = 0 → SentReady s c va [] l →
        (∀ x, slotPlace (SentRec.read l) i = .error (.access x) → exec j s = .next (s1.trap c .access c.split.mask x)) ∧
        (slotPlace (SentRec.read l) i = .ok base → slotAddr c.ctx base.1 i = .ok pa →
          exec j s = .next ((s1.pend c full (some (.gld, 1)) k).holdsAt c s.uid
            (fun x => { (c.counted .gld x).markAll true full with kept := [] }))))
    (Ready s c (once (q.toNat % 2 == 0 && r.toNat % 2 == 0) accNoMod c [qref q.toNat, sref bs.toNat] (qref r.toNat)) →
      asks (.massr q bs r a) (qref r.toNat) (.slotReq false va l i r.toNat (a == 1))) ∧
    (Ready s c (once (q.toNat % 2 == 0) accNoMod c [qref q.toNat, sref bs.toNat] (sref d.toNat)) →
      asks (.tier q bs d n) (sref d.toNat) (.slotReq true va l i d.toNat (n == 1)))) ∧
  (∀ (s : State) (n : Nat) (o : Op) (x : Warp) (recd i dst : Nat) (sent l : List Byte) (b m : Nat),
    EndsAlone s n o → tfind s.warps o.warp = some x → (∀ k ∈ s.ops, k.warp = o.warp → k.id < n → k.kind.isWork = false) →
    s.homeSlot o.die o.ctx recd (SentRec.read sent) i = .ok (b, m, l) → slotValid l = true →
    let w := Slot.read l
    let r := SentRec.read sent
    let word := w.mass + w.stage * 2 ^ 32 + (if w.tier then 2 ^ 34 else 0) + (if w.present then 2 ^ 35 else 0) +
      (if w.moving then 2 ^ 36 else 0) + (if w.declining then 2 ^ 37 else 0) + (if w.pinned then 2 ^ 38 else 0) +
      (if w.nonfinite then 2 ^ 39 else 0) + w.age * 2 ^ 40 + w.selcnt * 2 ^ 48
    let st := fun (near : Bool) => if w.present = false ∨ w.moving = true ∨ w.declining = true then 1 else if w.pinned = true then 2
      else if i < r.sinks ∨ i + 1 = r.pages then 3 else if w.tier ≠ near then 4 else 0
    (o.kind = .slotReq false recd sent i dst false →
      exec (.loadComplete n) s = .next ((s.applyAll o.die).finished o x (fun y =>
        (y.putS dst (BitVec.ofNat 32 word) false).putS (dst + 1) (BitVec.ofNat 32 (word / 2 ^ 32)) false))) ∧
    (∀ near, o.kind = .slotReq true recd sent i dst near → st near ≠ 0 →
      exec (.loadComplete n) s = .next ((s.setDie o.die (fun e => { e with tierdrop := (e.tierdrop + 1) % 2 ^ 64 })).finished o x
        (fun y => y.putS dst (BitVec.ofNat 32 (st near)) false))))

/-- DCLN and SWEEP_REQUEST (R193, R358): the request is pending at every die; a die whose record list holds the record takes it; one that
no die's list held is dropped and counted. -/
def Sys2Proof.Claim.DeclensionRequests : Prop :=
  (∀ (s : State) (c : Cx) (q bs : BitVec 4) (e : BitVec 1),
    let va := (c.warp.qreg q.toNat).toNat % 2 ^ 57
    let sv := (c.warp.qreg bs.toNat).toNat % 2 ^ 57
    Ready s c (once (q.toNat % 2 == 0 && (if e == 1 then bs.toNat % 2 == 0 else bs == 0)) accNoMod c
        (qref q.toNat :: (if e == 1 then [qref bs.toNat] else [])) []) →
      (va % 128 ≠ 0 → exec (.dcln q bs e) s = .next (s.trap c .misalign c.split.mask va)) ∧
      (va % 128 = 0 → e = 1 → sv % 8 ≠ 0 → exec (.dcln q bs e) s = .next (s.trap c .misalign c.split.mask sv)) ∧
      (va % 128 = 0 → (e = 1 → sv % 8 = 0) →
        exec (.dcln q bs e) s = .next ((s.pend c [] none (.dcln va (if e = 1 then some sv else none) [0, 1, 2, 3] false)).after c id))) ∧
  (∀ (s : State) (n die recd : Nat) (o : Op) (x : Warp) (sem : Option Nat) (left : List Nat) (found : Bool),
    EndsAlone s n o → tfind s.warps o.warp = some x → o.path = none → o.full = [] → o.kind = .dcln recd sem left found →
    left.contains die = true → (∀ p ∈ x.splits, p.wait ≠ .op n) →
    (∀ e ∈ s.recordList die o.ctx, e.2 ≠ some recd) →
      (left.filter (fun k => k != die) ≠ [] → exec (.sweepRequest n die) s = .next (s.setOp n
        (.dcln recd sem (left.filter (fun k => k != die)) found))) ∧
      (left.filter (fun k => k != die) = [] → found = true ∨ sem = none → ∃ t, exec (.sweepRequest n die) s = .next t ∧
        t.ops = s.ops.filter (fun k => k.id != n) ∧ t.mem = s.mem ∧ (∀ j, tfind t.warps j = tfind s.warps j) ∧
        t.dies = (if found = true then s.dies else (s.setDie o.die (fun e => { e with dclndrop := (e.dclndrop + 1) % 2 ^ 64 })).dies))) ∧
  (∀ (s : State) (n die recd base : Nat) (o : Op) (sem : Option Nat) (left : List Nat), s.op n = some o →
    o.kind = .dcln recd sem left false → left.contains die = true → die < 4 → s.dies.length = 4 →
    (s.recordList die o.ctx).find? (fun e => e.2 == some recd) = some (base, some recd) →
    left.filter (fun k => k != die) ≠ [] →
    ∃ t, exec (.sweepRequest n die) s = .next t ∧ t.mem = s.mem ∧ t.warps = s.warps ∧
      t.ops = (s.setOp n (.dcln recd sem (left.filter (fun k => k != die)) true)).ops ∧
      ∃ w ∈ (t.die die).sweeps, w.recd = recd ∧ w.ctx = o.ctx)

/-- MASSR, TIER and DCLN ask the home for slots and sweeps.
The model's choice, where the manual leaves it open: what a misaligned record of an engine instruction raises (log entry 42) and when
MASSR and TIER are performed (log entry 61). -/
def Obligations.SlotAndDeclensionRequests : Prop :=
  Sys2Proof.Claim.SlotRequests ∧ Sys2Proof.Claim.DeclensionRequests

/-- SQGROW and its steps (R174, R360): with the record, the new array and the semaphore in order, the record's ARRAY names both arrays
with FWD set and the copy is pending; each step copies a slot's summary, moves its word to the new array, leaves a forwarding
word and raises BOUND; the last clears FWD, and the semaphore rises once the instructions under way then have ended. -/
def Sys2Proof.Claim.SequencesGrow : Prop :=
  (∀ (s : State) (c : Cx) (a b e : BitVec 4) (l : List Byte) (x y : Trans),
    let va := (c.warp.qreg a.toNat).toNat % 2 ^ 57
    let off := (c.warp.qreg b.toNat).toNat % 2 ^ 57
    let sem := (c.warp.qreg e.toNat).toNat % 2 ^ 57
    let q := SentRec.read l
    let s1 := s.applyAll c.die
    let h := SentRec.read (s1.home x.pa 128)
    Ready s c (once (a.toNat % 2 == 0 && b.toNat % 2 == 0 && e.toNat % 2 == 0) accNoMod c [qref a.toNat, qref b.toNat, qref e.toNat] []) →
      (va % 128 ≠ 0 → exec (.sqgrow a b e) s = .next (s.trap c .misalign c.split.mask va)) ∧
      (va % 128 = 0 → SentReady s c va [] l →
        (off % 4096 ≠ 0 ∨ 4096 * c.ctx.anearsz < off + 2 ^ (q.n + 1) * (16 + q.sumSize) →
          exec (.sqgrow a b e) s = .next (s1.trap c .access c.split.mask off)) ∧
        (off % 4096 = 0 → off + 2 ^ (q.n + 1) * (16 + q.sumSize) ≤ 4096 * c.ctx.anearsz →
          (sem % 8 ≠ 0 → exec (.sqgrow a b e) s = .next (s1.trap c .misalign c.split.mask sem)) ∧
          (sem % 8 = 0 → q.fwd = true ∨ q.n = 16 → exec (.sqgrow a b e) s = .next (s1.trap c .illegal c.split.mask 0)) ∧
          (sem % 8 = 0 → q.fwd = false → q.n ≠ 16 →
            s1.translate c.die c.grid.ctx va .atomic = .ok x → x.window = none →
            s1.translate c.die c.grid.ctx sem .atomic = .ok y → y.window = none →
            h.fwd = false → h.n ≠ 16 → h.slots + 2 ^ h.n * (16 + q.sumSize) ≤ 4096 * c.ctx.anearsz →
            ∃ t u, exec (.sqgrow a b e) s = .next t ∧
              u = s1.writeAt c.die x.pa (arrayBytes off (h.n + 1) h.slots h.n true 0) ∧ t.mem = u.mem ∧
              t.ops = (u.pend c [] none (.sqgrow x.pa 0 y.pa none)).ops ∧
              t.warps = (s.after c (fun w => { w with kept := [] })).warps)))) ∧
  (∀ (s : State) (n recd i sem : Nat) (o : Op) (x : Warp) (p q a b : Nat) (l : List Nat),
    EndsAlone s n o → tfind s.warps o.warp = some x →
    let r := SentRec.read (s.home recd 128)
    let c := s.ctx o.ctx
    let w := s.home a 16
    let done := arrayBytes r.slots r.n r.oldSlots r.oldN false r.bound
    (o.kind = .sqgrow recd i sem none → r.fwd = true → i < 2 ^ r.oldN →
      c.nearBytes (summaryOff r r.oldSlots r.oldN i) r.sumSize = some p → c.nearBytes (summaryOff r r.slots r.n i) r.sumSize = some q →
      slotAddr c r.oldSlots i = .ok a → slotAddr c r.slots i = .ok b →
      exec (.sqgrowSlotCopy n) s = .next ((((((s.copyRange o.die p q r.sumSize).writeAt o.die b
        (setForwarded w false)).writeAt o.die a (setForwarded w true)).writeAt o.die recd
          (arrayBytes r.slots r.n r.oldSlots r.oldN true (i + 1))).setOp n (.sqgrow recd (i + 1) sem none)))) ∧
    (o.kind = .sqgrow recd i sem none → r.fwd = true → 2 ^ r.oldN ≤ i →
      exec (.sqgrowComplete n) s = .next ((s.writeAt o.die recd done).setOp n (.sqgrow recd i sem (some (s.writeAt o.die recd done).underWay)))) ∧
    (o.kind = .sqgrow recd i sem (some l) →
      (l.any (fun k => s.underWay.contains k) = true → exec (.sqgrowComplete n) s = .next s) ∧
      (l.any (fun k => s.underWay.contains k) = false →
        exec (.sqgrowComplete n) s = .next ((s.writeAt o.die sem (toBytes (s.semValue sem + 1) 8)).finished o x id))))

namespace Sys2Proof.Machine

/-- Split 0 of warp w, as c describes it, holds for the engine instruction o at work, whose number is n (R335). -/
structure AtWork (s : State) (w n : Nat) (c : Cx) (o : Op) : Prop where
  waits : s.waiting w 0 = some c
  holds : c.split.wait = .op n
  alone : EndsAlone s n o
  here : o.warp = w ∧ o.die = c.die

end Sys2Proof.Machine

/-- The end of an engine instruction (R26, R93, R121, R200, R335): its write is posted, and its die sees it at once and no other byte
changed; its register is written and full, its split goes on past the instruction, its counter is still to fall when the write
is performed, and its frame reader is no longer counted. -/
def Sys2Proof.Claim.EngineInstructionEnds : Prop :=
  ∀ (s : State) (w n k par : Nat) (args : List Nat) (c : Cx) (o : Op) (regs : List RegWrite) (p : Piece) (b : List Byte) (f : Flags),
    AtWork s w n c o → o.kind = .work k args par → p.win = none → p.len = b.length → b ≠ [] →
    let u := s.engDone o regs [([p], b, [])] f
    u.mem = s.mem ∧ (∀ (i : Nat) (x : Byte), b[i]? = some x → u.viewByte c.die (p.pa + i) = x) ∧
    (∀ a, a < p.pa ∨ p.pa + p.len ≤ a → u.viewByte c.die a = s.viewByte c.die a) ∧
    u.ops = s.ops.map (fun x => if x.id = n then { x with full := [], kind := .engine s.uid [] f } else x) ∧
    tfind u.warps w = some (((c.warp.writeAll c.grid.w regs).markAll false o.full).release n) ∧
    (c.die < 4 → s.dies.length = 4 → (u.die c.die).c0 = (s.die c.die).c0 - (if par = 0 then 1 else 0) ∧
      (u.die c.die).c1 = (s.die c.die).c1 - (if par = 1 then 1 else 0))

/-- ENGINE_INSTRUCTION_DONE of an ATTN (R185 to R190): at the page that NEXT names it reads the slot after an acquire, raises ACCESS with
the slot's index where no page is present, and else commits each head's state taken through the page's counted tokens in order,
with NEXT one further. Past the last page it adds each page's mass, leaves each head's m, l and o in its progress block, and
stores o ÷ l, or +0 where no token was counted. -/
def Sys2Proof.Claim.AttentionGoesOn : Prop :=
  ∀ (s : State) (w n par : Nat) (a l : List Byte) (list : List Nat) (c : Cx) (o : Op),
    let r := AttnRec.read a
    let q := SentRec.read l
    let s1 := s.applyAll c.die
    let st := AttnSt.read (c.group.bytes 2 r.caoff (progSize q)) q.g q.d ((c.begun.map (fun e => e.z)).getD [])
    AtWork s w n c o → o.kind = .work 0 (nats a ++ nats l ++ list) par → a.length = 64 → l.length = 128 →
    c.group.firstPoison 2 r.caoff (progSize q) = none →
    (∀ i, list[st.pos]? = some i → c.group.firstPoison 0 r.qoff (2 * q.d * q.g) = none →
      (∀ e, s1.engSlot c.die c.grid.ctx q i = .error e → exec (.engineInstructionDone w 0) s = .next (s1.engStop o c l e)) ∧
      (∀ found, s1.engSlot c.die c.grid.ctx q i = .ok found →
        let x := found.2.2
        (x.present = false → exec (.engineInstructionDone w 0) s = .next ((s1.unhold c).trap c .access c.split.mask i)) ∧
        (∀ f, x.present = true → slotFrame c.ctx q x = .ok f → s1.poisonWord f (4096 * frameGranules q.elems x.stage) = none →
          let tokens := countedTokens (fun y => s1.viewByte c.die y) q r st.len i f x.stage
          let z := fun (j : Nat) (t : Nat × List (List Machine.Num) × List Machine.Num) => attnScore (queryOf c.group q r.qoff j) t.2.1 st.c t.1
          ∃ t, exec (.engineInstructionDone w 0) s = .next (s1.commit c r.caoff l t) ∧
            t.pos = st.pos + 1 ∧ t.len = st.len ∧ t.c = st.c ∧ t.any = (st.any || !tokens.isEmpty) ∧
            (∀ j < q.g, t.heads[j]? = (st.heads[j]?).map (fun h => tokens.foldl (fun h u => (h.token (z j u) u.2.2).1) h)) ∧
            t.z = st.z ++ [(List.range q.g).map (fun j => tokens.map (fun u => BitVec.ofNat 32 (z j u).1))] ∧
            (tokens = [] → t.flags = st.flags)))) ∧
    (list.length ≤ st.pos → ∀ ps, s1.pieces c.die c.grid.ctx .store r.out (4 * q.g * q.d) = .ok ps →
      (s1.putsAhead w n ps = true → exec (.engineInstructionDone w 0) s = .next s1) ∧
      (s1.putsAhead w n ps = false →
        let s2 := s1.addMasses c.die c.grid.ctx r.recd q (list.zip st.masses)
        let y := st.heads.flatMap (fun h => h.o.map (fun e => if st.any = true then f32div e h.l else (0, 0)))
        let s3 := ((s2.freeBytes 64).1.bufWrite c.gid 2 r.caoff ((s2.freeBytes 64).2 ++ st.rows) false).onWarp c (fun w =>
          { w with attnZ := terase w.attnZ c.sp })
        exec (.engineInstructionDone w 0) s = .next (s3.engDone o [] [(ps, y.flatMap (fun e => toBytes e.1 4), [])]
          (y.foldl (fun f e => f ||| e.2) st.flags))))

/-- ENGINE_INSTRUCTION_DONE of a SELPG (R181 to R184, R356): of the present pages below P, those among the first SINKS and the last are
chosen, and of the others as many of the best ranked as KSEL leaves room for; LIST gets the chosen indices in ascending order, SD
their number, and SELCNT of each chosen page of the far tier is raised. -/
def Sys2Proof.Claim.SelectionEnds : Prop :=
  ∀ (s : State) (w n d par : Nat) (a l : List Byte) (c : Cx) (o : Op) (cand : List (Nat × Nat × Nat × Bool)) (sc : List (Nat × FV)),
    let r := AttnRec.read a
    let q := SentRec.read l
    let s1 := s.applyAll c.die
    let forced := fun (x : Nat × Nat × Nat × Bool) => decide (x.1 < q.sinks) || decide (x.1 + 1 = q.pages)
    let heads := (r.heads q).map (fun i => (queryOf c.group q r.qoff i).flatten)
    let others := cand.filter (fun x => !forced x)
    AtWork s w n c o → o.kind = .work 1 (d :: nats a ++ nats l) par → a.length = 64 → l.length = 128 →
    (∀ i ∈ r.heads q, c.group.firstPoison 0 (r.qoff + 2 * q.d * i) (2 * q.d) = none) →
    s1.candidates c.die c.grid.ctx q (List.range q.pages) = .ok cand →
    s1.scores c.die c.grid.ctx q r heads (if (cand.filter forced).length < r.ksel then others else []) = .ok sc →
    ∃ (chosen : List (Nat × Nat × Nat × Bool)) (f : Flags),
      chosen.Pairwise (fun x y => x.1 < y.1) ∧ (∀ x ∈ chosen, x ∈ cand) ∧ (∀ x ∈ cand, forced x = true → x ∈ chosen) ∧
      chosen.length = max (cand.filter forced).length (min r.ksel cand.length) ∧
      (∀ x ∈ others, ∀ y ∈ others, x ∈ chosen → y ∉ chosen → ∀ u ∈ sc, ∀ v ∈ sc, u.1 = x.1 → v.1 = y.1 →
        rankBefore (u.1, u.2.1) (v.1, v.2.1) = true) ∧
      ∀ ps, s1.pieces c.die c.grid.ctx .store r.list (2 * chosen.length) = .ok ps → s1.putsAhead w n ps = false →
        let s2 := (chosen.filter (fun x => x.2.2.2)).foldl (fun s x =>
          s.slotAtomic c.die c.grid.ctx r.recd q x.1 (fun w => some { w with selcnt := min 65535 (w.selcnt + 1) })) s1
        exec (.engineInstructionDone w 0) s = .next (s2.engDone o [.s d (BitVec.ofNat 32 chosen.length) false]
          [(ps, chosen.flatMap (fun x => toBytes x.1 2), [])] f)

/-- ENGINE_INSTRUCTION_DONE of a CTRC (R203 to R207, R362): with its inputs in plain memory, not poisoned and apart from what it writes, it
issues the surviving tokens' keys, values and sizes and the map with VALID still 0; VALID becomes 1 only when every access that a
device-scope release orders is performed, and SD then gets the number of tokens. -/
def Sys2Proof.Claim.ContractionRuns : Prop :=
  (∀ (s : State) (w n sd : Nat) (x l : List Byte) (c : Cx) (o : Op) (pk pv pz pm qk qv qz : List Piece),
    let r := ConRec.read x
    let read := fun (ps : List Piece) => ps.flatMap (fun p => s.view c.die p.pa p.len)
    let halves := fun (l : List Nat) => l.flatMap (fun y => toBytes y 2)
    let z := contract r.h r.d r.rmax (listOf (read pz) r.nin) (fun i => leAt (read pk) (2 * i) 2) (fun i => leAt (read pv) (2 * i) 2)
    let m := z.sizes.length
    let map := toBytes r.recd 8 ++ toBytes (SentRec.read l).gen 4 ++ toBytes r.nin 2 ++ toBytes m 2 ++ List.replicate 16 0 ++ halves z.out
    AtWork s w n c o → o.kind = .work 2 (sd :: nats x ++ nats l) 2 → x.length = 128 →
    s.piecesAll c.die c.grid.ctx [(r.ink, 2 * r.nin * r.h * r.d, .load, 0), (r.inv, 2 * r.nin * r.h * r.d, .load, 0),
      (r.ins, 2 * r.nin, .load, 0), (r.map, 32 + 2 * r.nin, .store, 6)] = .ok [pk, pv, pz, pm] →
    s.plainPieces c.die (pk ++ pv ++ pz) → (∀ p ∈ pk ++ pv ++ pz, s.piecePoison p = none) →
    s.piecesAll c.die c.grid.ctx [(r.outk, 2 * m * r.h * r.d, .store, 6), (r.outv, 2 * m * r.h * r.d, .store, 6),
      (r.outs, 2 * m, .store, 6)] = .ok [qk, qv, qz] →
    (∀ ps ∈ [pk, pv, pz], s.ownOlder w n ps = false) → (∀ ps ∈ [qk, qv, qz, pm], s.putsAhead w n ps = false) →
    (∀ p ∈ pk ++ pv ++ pz, ∀ y ∈ qk ++ qv ++ qz ++ pm, p.pa + p.len ≤ y.pa ∨ y.pa + y.len ≤ p.pa) →
    exec (.engineInstructionDone w 0) s = .next ((s.issuePuts c [(qk, halves z.keys, []), (qv, halves z.vals, []), (qz, halves z.sizes, []),
      (pm, map, [])]).setOp n (.work 5 ([sd, m, z.flags.toNat, r.map, 1] ++ nats l) 2))) ∧
  (∀ (s : State) (w n sd m f map v : Nat) (l : List Byte) (c : Cx) (o : Op),
    AtWork s w n c o → o.kind = .work 5 ([sd, m, f, map, v] ++ nats l) 2 →
    (s.released w c.die 5 = false → exec (.engineInstructionDone w 0) s = .next s) ∧
    (s.released w c.die 5 = true → ∀ ps, s.pieces c.die c.grid.ctx .store (map + 16) 1 = .ok ps →
      exec (.engineInstructionDone w 0) s = .next (s.engDone o [.s sd (BitVec.ofNat 32 m) false] [(ps, [BitVec.ofNat 8 v], [])]
        (BitVec.ofNat 5 f)))) ∧
  (∀ (s : State) (c : Cx) (puts : List (Piece × List Byte)),
    (∀ x ∈ puts, x.1.win = none ∧ x.1.len = x.2.length) → (∃ x ∈ puts, x.2 ≠ []) →
    puts.Pairwise (fun x y => x.1.pa + x.1.len ≤ y.1.pa ∨ y.1.pa + y.1.len ≤ x.1.pa) →
    let u := s.issuePuts c (puts.map (fun x => ([x.1], x.2, [])))
    u.mem = s.mem ∧ (∀ x ∈ puts, ∀ (i : Nat) (b : Byte), x.2[i]? = some b → u.viewByte c.die (x.1.pa + i) = b) ∧
    (∀ a, (∀ x ∈ puts, a < x.1.pa ∨ x.1.pa + x.1.len ≤ a) → u.viewByte c.die a = s.viewByte c.die a) ∧
    ∃ e, u.ops = s.ops ++ [e] ∧ e.id = s.uid + 1 ∧ e.warp = c.w ∧ e.path = none ∧ e.full = [] ∧ e.kind = .engine s.uid [] 0)

/-- The engine instructions at work (ATTN, SELPG, CTRC, EXPD), the tokens of a contraction, and SQGROW.
The model's choice, where the manual leaves it open: ATTN's progress block (log entry 22), that ATTN goes on page by page (log entry
53), the pace of SQGROW's copies and what its semaphore waits for (log entry 60), ties and the order of sums in CTRC (log entry 65), a
map whose counts are out of range (log entry 143) and the order of SQGROW's checks (log entry 154). -/
def Obligations.RowsExpandAndSequencesGrow : Prop :=
  Sys2Proof.Claim.EngineInstructionEnds ∧ Sys2Proof.Claim.AttentionGoesOn ∧ Sys2Proof.Claim.SelectionEnds ∧
  Sys2Proof.Claim.ContractionRuns ∧ Sys2Proof.Claim.ExpansionCopiesRows ∧ Sys2Proof.Claim.ContractionKeepsTheTokens ∧
  Sys2Proof.Claim.SequencesGrow

/-! ### System instructions: invalidation, registers, traps, pre-emption, the fault queue -/

namespace Sys2Proof.Machine

/-- The issue data of a privileged instruction that acts once (R410). -/
def privOnce (enc : Bool) (c : Cx) (srcs : List (List RegRef)) (dsts : List RegRef) : Issue :=
  { once enc Accept.none c srcs dsts with priv := true }

/-- A slot that the PREEMPT instructions may name (R437). -/
def State.otherSlot (s : State) (c : Cx) (n : Nat) : Prop := n < 4096 ∧ (s.ctx n).valid = true ∧ n ≠ c.grid.ctx

end Sys2Proof.Machine

/-- TLBINV, its performance on a die, and TLBACK (R89, R430, R431): reserved control bits are ACCESS; with what it orders performed, the
invalidation is pending at every die. Each die then drops the cached translations that it matches and marks its translation
registers STALE; TLBACK goes on once every invalidation of the warp, and what used the dropped translations, has ended. -/
def Sys2Proof.Claim.TranslationsAreInvalidated : Prop :=
  (∀ (s : State) (c : Cx) (d a b : BitVec 7),
    let ctl := (c.warp.sreg d.toNat).toNat
    let asid := if ctl.testBit 16 then none else some (ctl % 65536)
    let range := if ctl.testBit 17 then none else some ((c.warp.qreg a.toNat).toNat % 2 ^ 57, (c.warp.qreg b.toNat).toNat)
    (Ready s c (privOnce (even a && even b) c [sref d.toNat, qref a.toNat, qref b.toNat] []) →
      (ctl / 2 ^ 18 ≠ 0 → exec (.tlbinv d a b) s = .next (s.trap c .access c.split.mask ctl)) ∧
      (ctl < 2 ^ 18 → s.released c.w c.die 5 = false → exec (.tlbinv d a b) s = .next s) ∧
      (ctl < 2 ^ 18 → s.released c.w c.die 5 = true → exec (.tlbinv d a b) s =
        .next ((s.pend c [] none (.tlbinv asid range [0, 1, 2, 3])).after c (fun w => { w with tlbinvs := w.tlbinvs ++ [s.uid] })))) ∧
    (let acked := c.warp.tlbinvs.all (fun n => match s.op n with | some o => o.kind == .done | none => true)
     Ready s c (privOnce true c [] []) →
      (acked = true → exec .tlback s = .next (s.after c (fun w => { w with tlbinvs := [] }))) ∧
      (acked = false → exec .tlback s = .next (s.hold c .tlback)))) ∧
  (∀ (s : State) (w sp : Nat) (c : Cx), s.waiting w sp = some c → c.split.wait = .tlback →
    (s.acked c.warp = false → exec (.tlbackComplete w sp) s = .next s) ∧
    (s.acked c.warp = true → exec (.tlbackComplete w sp) s = .next (s.onWarp c (fun y => { y.passAt sp with tlbinvs := [] })))) ∧
  (∀ (s : State) (n die : Nat) (o : Op) (asid : Option Nat) (range : Option (Nat × Nat)) (left : List Nat),
    s.op n = some o → o.kind = .tlbinv asid range left → die < 4 → s.dies.length = 4 →
    (left.contains die = false → exec (.tlbinvPerform n die) s = .next s) ∧
    (left.contains die = true →
      ∃ t, exec (.tlbinvPerform n die) s = .next t ∧ t.mem = s.mem ∧
        (t.die die).tlb = (s.die die).tlb.filter (fun e => !invHits asid range e.asid e.va (pageBytes e.size)) ∧
        (∀ e, e ≠ die → (t.die e).tlb = (s.die e).tlb) ∧
        (∀ w x y, tfind s.warps w = some x → tfind t.warps w = some y → ∀ r,
          y.treg r = (if x.core / 384 = die then (x.treg r).inval asid range else x.treg r) ∧
          y.s = x.s ∧ y.v = x.v ∧ y.k = x.k ∧ (left.filter (fun k => k != die) ≠ [] → y.splits = x.splits))))

/-- TLBINV, TLBINV_PERFORM, TLBACK and TLBACK_COMPLETE complete (R430, R431): TLBINV in a privileged warp with no reserved control bit, what it
orders being performed; its performance on a die that it has still to reach; and TLBACK, at once or after it has waited, when
everything that it waits for has ended. -/
def Sys2Proof.Claim.InvalidationsComplete : Prop :=
  (∀ (s : State) (c : Cx) (d a b : BitVec 7), even a = true → even b = true →
    Ready s c (privOnce true c [sref d.toNat, qref a.toNat, qref b.toNat] []) → (c.warp.sreg d.toNat).toNat < 2 ^ 18 →
    s.released c.w c.die 5 = true →
    ∃ t y o, exec (.tlbinv d a b) s = .next t ∧ tfind t.warps c.w = some y ∧ (y.split c.sp).pc = (loopEnd c.split.loops c.split.pc).2 ∧
      y.tlbinvs = c.warp.tlbinvs ++ [s.uid] ∧ t.ops = s.ops ++ [o] ∧ o.id = s.uid ∧ ∃ asid range, o.kind = .tlbinv asid range [0, 1, 2, 3]) ∧
  (∀ (s : State) (n die : Nat) (o : Op) (asid : Option Nat) (range : Option (Nat × Nat)) (left : List Nat),
    s.op n = some o → o.kind = .tlbinv asid range left → die < 4 → s.dies.length = 4 → die ∈ left →
    ∃ t, exec (.tlbinvPerform n die) s = .next t ∧ t.mem = s.mem ∧
      (t.die die).tlb = (s.die die).tlb.filter (fun e => !invHits asid range e.asid e.va (pageBytes e.size)) ∧
      ∀ p, t.op n = some p → p.kind = .done ∨ p.kind = .tlbinv asid range (left.filter (fun k => k != die))) ∧
  (∀ (s : State) (c : Cx), (∀ n ∈ c.warp.tlbinvs, s.op n = none) →
    (Ready s c (privOnce true c [] []) → ∃ t y, exec .tlback s = .next t ∧ tfind t.warps c.w = some y ∧ y.tlbinvs = [] ∧
      (y.split c.sp).pc = (loopEnd c.split.loops c.split.pc).2) ∧
    (∀ w sp, s.waiting w sp = some c → c.split.wait = .tlback → ∃ t y, exec (.tlbackComplete w sp) s = .next t ∧
      tfind t.warps c.w = some y ∧ y.tlbinvs = [] ∧ (y.split c.sp).pc = (loopEnd c.split.loops c.split.pc).2 ∧ (y.split c.sp).wait = .ready))

/-- TLBINV and TLBACK.
The model's choice, where the manual leaves it open: what an acquire applies and what a release waits for (log entry 25) and which uses
TLBACK waits for (log entry 96). -/
def Obligations.TranslationsAreInvalidated : Prop :=
  Sys2Proof.Claim.TranslationsAreInvalidated ∧ Sys2Proof.Claim.InvalidationsComplete

/-- Register addresses and SRR, SRW (R414 to R416): an address with a reserved bit set, or fields that its block does not take, is
ACCESS; SRR writes the register's value to the pair, and SRW, after a device-scope release, does what a write of the register
does. -/
def Sys2Proof.Claim.SystemRegisterAccess : Prop :=
  ∀ (s : State) (c : Cx) (d a b : BitVec 7),
    let n := (c.warp.qreg a.toNat).toNat
    let v := c.warp.qreg b.toNat
    let at' := regAddr n (some c.die)
    (Ready s c (privOnce (even d && even a) c [qref a.toNat] (qref d.toNat)) →
      (at'.bind (fun r => s.readReg r (some c.warp)) = none → exec (.srr d a) s = .next (s.trap c .access c.split.mask n)) ∧
      (∀ x, at'.bind (fun r => s.readReg r (some c.warp)) = some x → exec (.srr d a) s = .next (s.afterSlow c (qref d.toNat)
        [.s d.toNat (x.truncate 32) false, .s (d.toNat + 1) ((x >>> 32).truncate 32) false] 0))) ∧
    (Ready s c (privOnce (even a && even b) c [qref a.toNat, qref b.toNat] []) →
      (at' = none → exec (.srw a b) s = .next (s.trap c .access c.split.mask n)) ∧
      (∀ r, at' = some r →
        (s.writeReg r v (some c.w) = .refused → exec (.srw a b) s = .next (s.trap c .access c.split.mask n)) ∧
        (s.writeReg r v (some c.w) = .wait → exec (.srw a b) s = .next s) ∧
        (∀ t, s.writeReg r v (some c.w) = .done t →
          (s.released c.w c.die 5 = false → exec (.srw a b) s = .next s) ∧
          (s.released c.w c.die 5 = true → exec (.srw a b) s = .next (t.advance c))) ∧
        (∀ t k kind, s.writeReg r v (some c.w) = .chan t k kind →
          (s.released c.w c.die 5 = false → exec (.srw a b) s = .next s) ∧
          (s.released c.w c.die 5 = true → exec (.srw a b) s =
            .next (((t.begin c [] none (.phy k)).1.startChan k kind v (some t.uid)).holdFor c t.uid))))) ∧
    (∀ (x : Nat) (here : Nat), x < 2 ^ 64 → x / 2 ^ 35 ≠ 0 → regAddr x (some here) = none) ∧
    (∀ (i k : Nat), i < 4096 → k < 4096 → regAddr (i + 2 ^ 12 + k * 2 ^ 23) (some c.die) = some ⟨1, i, 0, k⟩) ∧
    (∀ (i die : Nat), i < 4096 → die < 4 → regAddr (i + die * 2 ^ 20) (some c.die) = some ⟨0, i, die, 0⟩) ∧
    (∀ (i : Nat), i < 4096 → c.die < 4 → regAddr (i + 2 ^ 22) (some c.die) = some ⟨0, i, c.die, 0⟩)

/-- What a write of a context slot's register keeps (R7, R418, R419): the bits of the field, read back afterwards; no other register of
the slot, no other slot, no warp and no memory changes. -/
def Sys2Proof.Claim.ContextRegistersReadBack : Prop :=
  ∀ (s : State) (n i m : Nat) (v : DWord) (w : Option Nat) (x : Option Warp),
    let field := fun (hi lo : Nat) => v.toNat / 2 ^ lo % 2 ^ (hi + 1 - lo) * 2 ^ lo
    let kept : Option Nat := match i with
      | 1 => some (field 51 12) | 2 => some (field 51 12) | 3 => some (field 31 0) | 4 => some (field 51 12) | 5 => some (field 31 0)
      | 6 => some (field 51 6) | 7 => some (field 51 13) | 9 => some (field 51 4) | 10 => some (field 51 4) | 11 => some (field 31 0)
      | 12 => some (field 47 0) | 13 => some (field 56 4) | 14 => some (field 23 0) | 15 => some (field 56 4) | 16 => some (field 23 0)
      | 17 => some (field 56 4) | 18 => some (field 23 0) | 19 => some (field 56 4) | 20 => some (field 23 0)
      | _ => none
    ∀ k, kept = some k →
      ∃ t, s.writeReg ⟨1, i, 0, n⟩ v w = .done t ∧ t.readReg ⟨1, i, 0, n⟩ x = some (BitVec.ofNat 64 k) ∧
        (∀ j, j ≠ i → t.readReg ⟨1, j, 0, n⟩ x = s.readReg ⟨1, j, 0, n⟩ x) ∧
        (m ≠ n → ∀ j, t.readReg ⟨1, j, 0, m⟩ x = s.readReg ⟨1, j, 0, m⟩ x) ∧ t.mem = s.mem ∧ t.warps = s.warps ∧ t.dies = s.dies

/-- SRR and SRW, and what a context register keeps.
The model's choice, where the manual leaves it open: the bits that a register keeps (log entry 101). -/
def Obligations.SystemRegistersReadAndWrite : Prop :=
  Sys2Proof.Claim.SystemRegisterAccess ∧ Sys2Proof.Claim.ContextRegistersReadBack

/-- TRET (R435): an address of 2^52 or more is ACCESS; an entry whose STATE is not 1 gives 1; an entry that names no halted workgroup is
freed; a record whose PC is no multiple of 4 gives 3 and resumes nothing; else every warp goes on from its record and the entry is
free. -/
def Sys2Proof.Claim.TrapReturns : Prop :=
  ∀ (s : State) (c : Cx) (d a : BitVec 7) (gid : Nat) (g : Group),
    let v := (c.warp.qreg a.toNat).toNat
    let s1 := s.applyAll c.die
    let head := s1.view c.die v 4096
    let state := (head.headD 0).toNat % 4
    let gives := fun (t : State) (k : Word) => t.after c (fun w => w.putS d.toNat k false)
    let word := fun (x : Warp) (o : Nat) => ofBytes ((head.drop (64 + 32 * x.idx + o)).take 8)
    let go := (s1.groupWarps g).filter (fun x => !(word x 0).testBit 21)
    Ready s c (privOnce (even a) c [qref a.toNat] (sref d.toNat)) →
      (2 ^ 52 ≤ v → exec (.tret d a) s = .next (s.trap c .access c.split.mask v)) ∧
      (v < 2 ^ 52 → state ≠ 1 → exec (.tret d a) s = .next (gives s1 1)) ∧
      (v < 2 ^ 52 → state = 1 → s1.deliveredTo v = none →
        exec (.tret d a) s = .next (gives (s1.writeAt c.die v (toBytes 0 4)) 0)) ∧
      (v < 2 ^ 52 → state = 1 → s1.deliveredTo v = some (gid, g) →
        (go.any (fun x => decide (word x 8 % 4 ≠ 0)) = true → exec (.tret d a) s = .next (gives s1 3)) ∧
        (go.any (fun x => decide (word x 8 % 4 ≠ 0)) = false → tfind s.groups gid = some g → g.warps.Nodup → c.w ∉ g.warps →
          ∃ t h, exec (.tret d a) s = .next t ∧ tfind t.groups gid = some h ∧ h.st = .running ∧
            (∀ w ∈ g.warps, ∀ x, tfind s.warps w = some x → x.life ≠ .exited → (word x 0).testBit 21 = false →
              (∀ p ∈ x.splits, ∀ k, p.wait ≠ .bar k) →
              ∃ y, tfind t.warps w = some y ∧ y.life = .running ∧ y.skid = 0 ∧ y.s = x.s ∧ y.v = x.v ∧ y.k = x.k ∧
                (word x 0 / 2 ^ 22 % 4 < x.splits.length →
                  (y.split (word x 0 / 2 ^ 22 % 4)).pc = word x 8 % 2 ^ 57)) ∧
            (∃ y, tfind t.warps c.w = some y ∧ y.s = tset 0 c.warp.s d.toNat 0)))

/-- PREEMPT.REQ, .CLR and .WAIT (R437): a slot that is invalid, or the warp's own, is ACCESS. REQ raises REQ and HOLD, the deadline
counting from the slot clocks when REQ was raised; CLR clears both; WAIT raises them once, as it issues, and goes on with the count of
workgroups saved meanwhile once none of the slot is resident. -/
def Sys2Proof.Claim.PreemptionRequests : Prop :=
  ∀ (s : State) (c : Cx) (d a : BitVec 7),
    let n := (c.warp.sreg a.toNat).toNat
    let asked := s.setCtx n (fun x => { x with req := true, hold := true, reqAt := if x.req then x.reqAt else s.cyc })
    let key := 4 * c.w + c.sp
    let start := (tfind (s.ctx n).waiting key).getD (s.ctx n).savedCount
    let once := if (tfind (s.ctx n).waiting key).isSome then s else asked
    (Ready s c (privOnce true c [sref a.toNat] []) →
      (¬ s.otherSlot c n → exec (.preemptReq a) s = .next (s.trap c .access c.split.mask n) ∧
        exec (.preemptClr a) s = .next (s.trap c .access c.split.mask n)) ∧
      (s.otherSlot c n → exec (.preemptReq a) s = .next (asked.after c id) ∧
        exec (.preemptClr a) s = .next ((s.setCtx n (fun x => { x with req := false, hold := false })).after c id))) ∧
    (Ready s c (privOnce true c [sref a.toNat] (sref d.toNat)) →
      (¬ s.otherSlot c n → exec (.preemptWait d a) s = .next (s.trap c .access c.split.mask n)) ∧
      (s.otherSlot c n → s.slotResident n = true →
        exec (.preemptWait d a) s = .next (once.setCtx n (fun x => { x with waiting := tput x.waiting key start }))) ∧
      (s.otherSlot c n → s.slotResident n = false →
        exec (.preemptWait d a) s = .next ((once.setCtx n (fun x => { x with waiting := terase x.waiting key })).after c
          (fun w => w.putS d.toNat (BitVec.ofNat 32 ((s.ctx n).savedCount - start)) false))))

/-- TRET and the preemption requests.
The model's choice, where the manual leaves it open: SEQ, the pc of records with code 0 and a TRET of an unused entry (log entry 72),
the clock of a deadline and what a repeated request does (log entry 74) and that PREEMPT.WAIT is tried again until it is done (log
entry 75). -/
def Obligations.TrapReturnsAndPreemption : Prop :=
  Sys2Proof.Claim.TrapReturns ∧ Sys2Proof.Claim.PreemptionRequests

/-- FLTQ.POP, FLTQ.TPOP, CLAIM_RESUME (R427): the oldest record that no warp has claimed is claimed and its 32 words written, or the
oldest notice taken and its four words written; with none there the split waits, and goes on with it once there is one. -/
def Sys2Proof.Claim.FaultRecordsAreClaimed : Prop :=
  (∀ (s : State) (c : Cx) (d : BitVec 7) (r : FaultRec) (l : List Byte) (more : List (List Byte)),
    (Ready s c (privOnce (d.toNat % 32 == 0) c [] (sgroup d.toNat 32)) →
      ((s.die c.die).faults.all (fun r => r.claimed.isSome) = true →
        exec (.fltqPop d) s = .next (s.hold c (.claim false d.toNat))) ∧
      ((s.die c.die).faults.find? (fun r => r.claimed.isNone) = some r →
        exec (.fltqPop d) s = .next ((s.setDie c.die (fun x => { x with faults := x.faults.map (fun q =>
          if q.token = r.token then { q with claimed := some c.w } else q) })).after c (fun w =>
            w.writeAll c.grid.w ((List.range 32).map (fun i => RegWrite.s (d.toNat + i) (r.words.getD i 0) false)))))) ∧
    (Ready s c (privOnce (d.toNat % 4 == 0) c [] (sgroup d.toNat 4)) →
      ((s.die c.die).notices = [] →
        exec (.fltqTpop d) s = .next (s.hold c (.claim true d.toNat))) ∧
      ((s.die c.die).notices = l :: more → (s.die c.die).heldNotices = [] →
        exec (.fltqTpop d) s = .next ((s.setDie c.die (fun x => { x with notices := more })).after c (fun w =>
          w.writeAll c.grid.w ((List.range 4).map (fun i =>
            RegWrite.s (d.toNat + i) (BitVec.ofNat 32 (ofBytes ((l.drop (4 * i)).take 4))) false))))))) ∧
  (∀ (s : State) (w sp sd : Nat) (c : Cx) (r : FaultRec), s.waiting w sp = some c → c.split.wait = .claim false sd →
    ((s.die c.die).faults.all (fun r => r.claimed.isSome) = true → exec (.claimResume w sp) s = .next s) ∧
    ((s.die c.die).faults.find? (fun r => r.claimed.isNone) = some r →
      exec (.claimResume w sp) s = .next ((s.setDie c.die (fun x => { x with faults := x.faults.map (fun q =>
        if q.token = r.token then { q with claimed := some w } else q) })).onWarp c (fun y =>
          (y.writeAll c.grid.w ((List.range 32).map (fun i => RegWrite.s (sd + i) (r.words.getD i 0) false))).passAt sp))))

/-- FLTQ.RPL, FLTQ.ACC and FAULT_REPLAY (R66, R67, R427, R429): a token that no claimed record has gives 1; else the record leaves the
queue, 0 is written and its agent is told: a parked warp replays its instruction for the lanes that are left, or takes ACCESS; one whose fetch had faulted replays only what it was replaying then. -/
def Sys2Proof.Claim.FaultsAreResolved : Prop :=
  (∀ (s : State) (c : Cx) (d a : BitVec 7) (r : FaultRec) (x : Warp) (f : ParkedFault),
    let token := (c.warp.sreg a.toNat).toNat
    let found := (s.die c.die).faults.find? (fun r => r.token == token && r.claimed.isSome)
    let gone := s.setDie c.die (fun y => { y with faults := y.faults.filter (fun q => q.token != token) })
    let told := fun (ok : Bool) => gone.setWarp r.agent.2 (fun y => { y with fault := some { f with resolved := some ok } })
    Ready s c (privOnce true c [sref a.toNat] (sref d.toNat)) →
      (found = none → exec (.fltqRpl d a) s = .next (s.after c (fun w => w.putS d.toNat 1 false)) ∧
        exec (.fltqAcc d a) s = .next (s.after c (fun w => w.putS d.toNat 1 false))) ∧
      (found = some r → r.agent.1 = 0 → r.agent.2 ≠ c.w → tfind s.warps r.agent.2 = some x → x.fault = some f →
        (s.released c.w c.die 5 = false → exec (.fltqRpl d a) s = .next s) ∧
        (s.released c.w c.die 5 = true →
          exec (.fltqRpl d a) s = .next ((told true).after c (fun w => w.putS d.toNat 0 false))) ∧
        ((∀ q ∈ (s.die c.die).faults, q.token = token → q = r) →
          exec (.fltqAcc d a) s = .next (((told false).takeResolved r.agent.2).now c [.s d.toNat 0 false])))) ∧
  (∀ (s : State) (w : Nat) (c : Cx) (f : ParkedFault), s.cxOf w 0 = some c → c.warp.fault = some f → c.warp.life = .running →
    c.group.st = .running → f.op = none →
    (f.resolved = none → exec (.faultReplay w) s = .next s) ∧
    (f.resolved = some true → exec (.faultReplay w) s =
      .next (s.onWarp c (fun x => { x with
        fault := none
        replay := if f.kind = 3 then f.again.map (fun r => (f.split, r)) else some (f.split, f.lanes, f.raised) }))) ∧
    (f.resolved = some false → f.kind ≠ 5 → f.raised = none → f.again = none → c.warp.owed = [] → exec (.faultReplay w) s =
      .next ((s.onWarp c (fun x => { x with fault := none, landed := (0, 0, 0, 0) })).trapAt
        { c with sp := f.split, split := c.warp.split f.split } .access f.pc f.lanes f.addr)))

/-- Fault records are claimed, resolved and replayed.
The model's choice, where the manual leaves it open: what a poisoned word and a fetch that faults keep (log entry 69) and when a token
is checked and when .ACC takes effect (log entry 70). -/
def Obligations.FaultsAreClaimedAndResolved : Prop :=
  Sys2Proof.Claim.FaultRecordsAreClaimed ∧ Sys2Proof.Claim.FaultsAreResolved

/-- PAGE_WALK, FAULT_HELD_RELEASE and the ring registers (R423, R427, R428): a walk of the slot's tables puts the leaf that it finds in
the die's TLB, and one that faults changes no translation; a held record enters the queue, and the ring's next entry that no unresolved record has, once there is space; a
write of a ring's size is ignored while the ring holds entries, and otherwise starts it.
The model's choice, where the manual leaves it open: what the TLBs keep and what fills them (log entry 18). -/
def Obligations.WalksAndRings : Prop :=
  (∀ (s : State) (d ctx va e level : Nat), d < 4 → s.dies.length = 4 → s.quiet → (s.ctx ctx).valid = true → (s.ctx ctx).ptroot ≠ 0 →
    let s1 := s.applyAll d
    let n := pageBytes level
    let base := va % 2 ^ 57 / n * n
    (∀ f, walkFrom s1 4 (s.ctx ctx).ptroot (va % 2 ^ 57) = .error f → exec (.pageWalk d ctx va) s = .next s1) ∧
    (walkFrom s1 4 (s.ctx ctx).ptroot (va % 2 ^ 57) = .ok (e, level) →
      let held := (s1.die d).tlb.filter (fun t => t.core == none && !(t.asid == (s.ctx ctx).asid && t.va == base && t.size == level)) ++
        [⟨(s.ctx ctx).asid, base, level, BitVec.ofNat 64 e, none⟩]
      exec (.pageWalk d ctx va) s = .next (s1.setDie d (fun x => { x with
        tlb := x.tlb.filter (fun t => t.core != none) ++ held.drop (held.length - 6144) })))) ∧
  (∀ (s : State) (d : Nat) (r : FaultRec) (more : List FaultRec) (v : BitVec 64), d < 4 → s.dies.length = 4 →
    let x := s.die d
    let on := 4 ≤ x.fqlog2 ∧ x.fqlog2 ≤ 12
    let size := 2 ^ x.fqlog2
    let e := (((List.range size).map (fun i => (x.fqtail + i) % size)).find? (fun k => x.faults.all (fun q => q.entry != k))).getD
      (x.fqtail % size)
    (x.heldFaults = [] → exec (.faultHeldRelease d) s = .next s) ∧
    (x.heldFaults = r :: more → ¬ (on ∧ x.faults.length < 2 ^ x.fqlog2) → exec (.faultHeldRelease d) s = .next s) ∧
    (x.heldFaults = r :: more → on → x.faults.length < 2 ^ x.fqlog2 →
      exec (.faultHeldRelease d) s = .next ((s.setDie d (fun y =>
        { y with faults := y.faults ++ [{ r with entry := e }], heldFaults := more, fqtail := e + 1 })).writeAt d
          (x.fqbase + 128 * e) (wordBytes r.words))) ∧
    (x.faults ≠ [] → exec (.faultQueueEnable d v) s = .next s) ∧
    (x.faults = [] → x.heldFaults = [] → exec (.faultQueueEnable d v) s =
      .next (s.setDie d (fun y => { y with fqlog2 := v.toNat % 16, fqtail := 0 }))) ∧
    (x.notices ≠ [] → exec (.trapRingEnable d v) s = .next s) ∧
    (x.notices = [] → x.heldNotices = [] → exec (.trapRingEnable d v) s =
      .next (s.setDie d (fun y => { y with tqlog2 := v.toNat % 16, tqtail := 0 }))))

/-- What happens to warps as time passes (R42, R69, R70, R75, R77): a split that has stood ready 4,028 slot cycles, none of them of an HSTL's
stall (R396), is promoted; a sibling of a
trapped warp stops within 64 cycles with its record; a warp that has not yielded stops at its deadline, unless it masks traps; one
that masks them 65,536 cycles longer is reported. -/
def Sys2Proof.Claim.PromotionSkidAndDeadlines : Prop :=
  (∀ (s : State) (w sp : Nat) (c : Cx), s.waiting w sp = some c → sp < 4 →
    let from' := max c.split.since c.split.stall
    (c.split.wait ≠ .ready ∨ s.slotCyc c.warp.core c.warp.slot < from' + 4028 → exec (.splitPromotion w sp) s = .next s) ∧
    (c.split.wait = .ready → from' + 4028 ≤ s.slotCyc c.warp.core c.warp.slot →
      exec (.splitPromotion w sp) s = .next (s.onWarp c (fun x => x.setSplit sp (fun p => { p with promoted := true }))))) ∧
  (∀ (s : State) (w cyc : Nat) (c : Cx), s.cxOf w 0 = some c →
    let now := s.slotCyc c.warp.core c.warp.slot
    let gone := now - c.warp.haltAt.getD now
    (c.group.st ≠ .halting ∨ c.warp.life ≠ .running ∨ 64 < cyc ∨ gone ≠ cyc → exec (.skidStop w cyc) s = .next s) ∧
    (c.group.st = .halting → c.warp.life = .running → cyc ≤ 64 → gone = cyc →
      ∃ t y r, exec (.skidStop w cyc) s = .next t ∧ t.mem = s.mem ∧ tfind t.warps w = some y ∧ y.life = .stopped r ∧
        r.code = .none ∧ r.skid = c.warp.skid ∧ r.cyc = cyc ∧ r.primary = false ∧ r.split = c.warp.last ∧
        y.v = c.warp.v ∧ y.s = c.warp.s ∧ y.k = c.warp.k)) ∧
  (∀ (s : State) (w : Nat) (c : Cx), s.cxOf w 0 = some c → c.group.st = .running → c.warp.life = .running → s.saveAsked c = true →
    let due := c.deadline ≤ s.slotCyc c.warp.core c.warp.slot
    (¬ due ∨ c.warp.tm = true → exec (.forcedSave w) s = .next s) ∧
    (due → c.warp.tm = false → ∃ t y r, exec (.forcedSave w) s = .next t ∧ t.mem = s.mem ∧ tfind t.warps w = some y ∧
      y.life = .stopped r ∧ r.code = .preempt ∧ y.v = c.warp.v ∧ y.s = c.warp.s ∧ y.k = c.warp.k)) ∧
  (∀ (s : State) (gid w : Nat) (g : Group) (gr : Grid) (c : Cx), tfind s.groups gid = some g → tfind s.grids g.grid = some gr →
    g.warps = [w] → s.cxOf w 0 = some c → g.told = 0 → c.warp.life = .running → s.saveAsked c = true →
    let late := c.deadline + 65536 ≤ s.slotCyc c.warp.core c.warp.slot
    (¬ late ∨ c.warp.tm = false → exec (.watchdog gid) s = .next s) ∧
    (late → c.warp.tm = true → exec (.watchdog gid) s =
      .next ((s.machineCheck (g.core / 384) 0 gr.ctx).setGroup gid (fun x => { x with told := 1 }))))

/-- TRAP_DELIVERY (R72, R433, R434): with no trap area, or its next entry not free, the records stay on the core and a machine check says
so; else the entry gets STATE 1, the header and each warp's record, the next entry moves on, and the workgroup is delivered.
The model's choice, where the manual leaves it open: SEQ, the pc of records with code 0 and a TRET of an unused entry (log entry 72)
and how often a delayed delivery is reported (log entry 73). -/
def Obligations.TrapsAreDelivered : Prop :=
  ∀ (s : State) (gid : Nat) (g : Group) (gr : Grid), tfind s.groups gid = some g → tfind s.grids g.grid = some gr → g.st = .halted →
    g.told = 0 →
    let d := g.core / 384
    let c := s.ctx gr.ctx
    let a := c.trapbase + 8192 * c.trapnext
    (c.trapn = 0 → exec (.trapDelivery gid) s =
      .next ((s.machineCheck d 4 gr.ctx).setGroup gid (fun x => { x with told := 16 }))) ∧
    (c.trapn ≠ 0 → (memByte s.mem a).toNat % 4 ≠ 0 → exec (.trapDelivery gid) s =
      .next ((s.machineCheck d 3 gr.ctx).setGroup gid (fun x => { x with told := 8 }))) ∧
    (c.trapn ≠ 0 → (memByte s.mem a).toNat % 4 = 0 → (s.die d).tqlog2 = 0 → d < 4 → s.dies.length = 4 →
      (∀ k < 4096, s.installed (a + k) = true) → (s.groupWarps g).length ≤ 64 →
      (∀ p ∈ s.posted, p.id < s.uid) → gr.w < 256 →
      ∃ t h, exec (.trapDelivery gid) s = .next t ∧ tfind t.groups gid = some h ∧ h.st = .delivered a ∧
        (t.ctx gr.ctx).trapnext = (c.trapnext + 1) % c.trapn ∧ (t.die d).seq = ((s.die d).seq + 1) % 2 ^ 32 ∧
        ofBytes (t.home a 4) = 1 ∧ ofBytes (t.home (a + 4) 2) = gr.ctx % 2 ^ 16 ∧ ofBytes (t.home (a + 6) 2) = c.asid % 2 ^ 16 ∧
        ofBytes (t.home (a + 26) 1) = gr.w ∧ ofBytes (t.home (a + 32) 8) = g.grid % 2 ^ 64 ∧
        (∀ i x, (s.groupWarps g)[i]? = some x → t.home (a + 64 + 32 * i) 32 = x.trapRecord))

/-! ### Launching, saving and restoring -/

namespace Sys2Proof.Machine

/-- One more entry of the die's launch queue in use, and a child more of the workgroup's where there is a grid to launch (R59, R266). -/
def State.awaits (s : State) (c : Cx) (child : Option Grid) : State :=
  let s1 := s.setDie c.die (fun x => { x with dlq := x.dlq + 1 })
  match child with
  | some _ => s1.setGroup c.gid (fun y => { y with children := y.children + 1 })
  | none => s1

end Sys2Proof.Machine

/-- LAUNCH and LAUNCH_QUEUE_ENTRY (R57, R58, R266): warp 0 only, a grid of depth 10 raises DEPTH, the record is 64-byte aligned. With what
it orders performed and space in the die's queue it takes an entry, and its workgroup has a child more to await (R59); with none its
split waits. The entry ends with the status 0, 1
(never fits) or 2 (invalid), and a valid child grid, one deeper, is then on the pending list of the die under the next identifier.
The model's choice, where the manual leaves it open: when a grid never fits (log entry 85) and when a launch record is read (log entry
86). -/
def Obligations.LaunchesQueueGrids : Prop :=
  (∀ (s : State) (c : Cx) (d a : BitVec 7),
    let va := (c.warp.qreg a.toNat).toNat % 2 ^ 57
    let m := c.split.mask
    Ready s c (once (even a) Accept.none c [qref a.toNat] (sref d.toNat)) →
      (c.warp.idx ≠ 0 → exec (.launch d a) s = .next (s.trap c .illegal m 0)) ∧
      (c.warp.idx = 0 → c.grid.depth = 10 → exec (.launch d a) s = .next (s.trap c .depth m 0)) ∧
      (c.warp.idx = 0 → c.grid.depth ≠ 10 → va % 64 ≠ 0 → exec (.launch d a) s = .next (s.trap c .misalign m va)) ∧
      (c.warp.idx = 0 → c.grid.depth ≠ 10 → va % 64 = 0 → ∀ s1 g, s.launchRead c va = .ok (s1, g) →
        let child := s1.launchStatus c g
        (s.released c.w c.die 5 = false → exec (.launch d a) s = .next s) ∧
        (s.released c.w c.die 5 = true → 4096 ≤ (s.die c.die).dlq → exec (.launch d a) s =
          .next (s.hold c (.launch d.toNat va))) ∧
        (s.released c.w c.die 5 = true → (s.die c.die).dlq < 4096 → exec (.launch d a) s =
          .next (((s1.awaits c child.2).pend c (sref d.toNat) none (.launch child.1 child.2 d.toNat)).after c (fun w => w.markAll true (sref d.toNat)))))) ∧
  (∀ (s : State) (c : Cx) (g : Grid),
    let h := { g with
      die := if g.anyDie then c.die else g.die
      anyDie := false
      depth := c.grid.depth + 1
      parent := some c.gid
      prio := 0
      device := true
      queue := none }
    s.launchStatus c none = (2, none) ∧ (s.neverFits h = true → s.launchStatus c (some g) = (1, none)) ∧
      (s.neverFits h = false → s.launchStatus c (some g) = (0, some h))) ∧
  (∀ (s : State) (d : Nat) (g : Grid), d < 4 → s.dies.length = 4 →
    let id := 4 * (s.die d).gridCount + d
    tfind (s.enterGrid d g).grids id = some { g with owner := d, since := (s.die d).time } ∧
      ((s.enterGrid d g).die d).pending = (s.die d).pending ++ [id] ∧
      ((s.enterGrid d g).die d).gridCount = (s.die d).gridCount + 1) ∧
  (∀ (s : State) (w sp : Nat) (o : Op) (x : Warp) (st : Nat) (g : Option Grid) (dst : Nat),
    o ∈ s.ops → o.warp = w → o.split = sp → o.kind = .launch st g dst → o.path = none →
    (∀ y ∈ s.ops, y.id = o.id ∨ (y.warp = w ∧ y.split = sp ∧ ∃ i j k, y.kind = .launch i j k) → y = o) → tfind s.warps w = some x →
    let s1 := match g with | some h => s.enterGrid o.die h | none => s
    exec (.launchQueueEntry w sp) s = .next ((s1.setDie o.die (fun y => { y with dlq := y.dlq - 1 })).finished o x (fun y =>
      y.putS dst (BitVec.ofNat 32 st) false))) ∧
  (∀ (s : State) (w sp sd va : Nat) (c : Cx), (∀ y ∈ s.ops, y.warp = w → y.split = sp → ∀ i j k, y.kind ≠ .launch i j k) →
    s.waiting w sp = some c → c.split.wait = .launch sd va →
    (4096 ≤ (s.die c.die).dlq → exec (.launchQueueEntry w sp) s = .next s) ∧
    ((s.die c.die).dlq < 4096 → ∀ e, s.launchRead c va = .error e → exec (.launchQueueEntry w sp) s =
      .next (s.onWarp c (fun y => y.setSplit sp (fun p => { p with wait := .ready })))) ∧
    ((s.die c.die).dlq < 4096 → ∀ s1 g, s.launchRead c va = .ok (s1, g) →
      let child := s1.launchStatus c g
      exec (.launchQueueEntry w sp) s = .next (((s1.awaits c child.2).pend c [.s sd] none (.launch child.1 child.2 sd)).onWarp c
        (fun y => (y.markAll true [.s sd]).passAt sp))))

/-- CTXSV, CONTEXT_SAVE and CTXLD (R96, R438 to R442): an entry that is not delivered gives 1, a block off its 4 MiB boundary 2, a .coop
grid or a cluster 3; the instruction waits while something is in flight. A save writes the image's header to the block and takes the
workgroup off its core; the dispatcher's takes its block from SAVELIST and counts the save, and saves the members of a .coop grid or
of a cluster all or none (R56, R62). CTXLD queues a valid image of a valid slot.
The model's choice, where the manual leaves it open: the NEXT link over the magic number (log entry 90), a CTXLD of an unknown grid and
the head of an empty list (log entry 93) and where saved workgroups are admitted again (log entry 97). -/
def Obligations.ContextsAreSaved : Prop :=
  (∀ (s : State) (c : Cx) (d a b : BitVec 7) (gid : Nat) (g : Group) (gr : Grid),
    let ent := (c.warp.qreg a.toNat).toNat
    let block := (c.warp.qreg b.toNat).toNat
    let s1 := s.applyAll c.die
    let gives := fun (k : Word) => exec (.ctxsv d a b) s = .next (s1.after c (fun w => w.putS d.toNat k false))
    let state := (s1.viewByte c.die ent).toNat % 4
    Ready s c (privOnce (even a && even b) c [qref a.toNat, qref b.toNat] (sref d.toNat)) →
      (2 ^ 52 ≤ ent → exec (.ctxsv d a b) s = .next (s.trap c .access c.split.mask ent)) ∧
      (ent < 2 ^ 52 → 2 ^ 52 ≤ block → exec (.ctxsv d a b) s = .next (s.trap c .access c.split.mask block)) ∧
      (ent < 2 ^ 52 → block < 2 ^ 52 →
        (state ≠ 1 → gives 1) ∧ (state = 1 → block % 2 ^ 22 ≠ 0 → gives 2) ∧
        (state = 1 → block % 2 ^ 22 = 0 →
          (s1.deliveredTo ent = none → gives 1) ∧
          (s1.deliveredTo ent = some (gid, g) → tfind s.grids g.grid = some gr →
            (gr.coop = true ∨ gr.cluster ≠ 0 → gives 3) ∧
            (gr.coop = false → gr.cluster = 0 → s1.savable g = false → exec (.ctxsv d a b) s = .next s) ∧
            (gr.coop = false → gr.cluster = 0 → s1.savable g = true → tfind s.groups gid = some g →
              c.w ∉ g.warps → (ent + 4 ≤ block ∨ block + 2 ^ 22 ≤ ent) → (∀ p ∈ s.posted, p.id < s.uid) →
              (∀ k < 64, s.installed (block + k) = true) →
              ∃ t h y z, exec (.ctxsv d a b) s = .next t ∧ tfind t.groups gid = some h ∧ h.st = .saved ∧ h.abuf = [] ∧
                (∀ w ∈ g.warps, tfind t.warps w = none) ∧ tfind t.warps c.w = some y ∧ y.s = tset 0 c.warp.s d.toNat 0 ∧
                tfind t.grids g.grid = some z ∧ z.away = gr.away + 1 ∧ ofBytes (t.home block 4) = 0x53585443 ∧
                ofBytes (t.home (block + 4) 2) = 1 ∧ ofBytes (t.home (block + 14) 2) = gr.ctx % 2 ^ 16 ∧
                ofBytes (t.home (block + 32) 8) = g.grid % 2 ^ 64))))) ∧
  (∀ (s : State) (gid : Nat) (g : Group) (gr : Grid), tfind s.groups gid = some g → tfind s.grids g.grid = some gr →
    let list := (s.ctx gr.ctx).savelist
    let alone := gr.coop = false ∧ gr.cluster = 0
    let mates := if gr.coop = true then s.groups.filter (fun m => m.2.grid == g.grid && m.2.onCore)
      else s.groups.filter (fun m => m.2.grid == g.grid && m.2.lin / gr.cluster == g.lin / gr.cluster && m.2.st != .saved)
    let ready := fun (h : Group) => h.st = .exited ∨ s.saveDue h gr = true
    (s.saveDue g gr = false ∨ (alone ∧ s.savable g = false) ∨ (¬ alone ∧ ∃ m ∈ mates, ¬ (ready m.2 ∧ s.savable m.2 = true)) →
      exec (.contextSave gid) s = .next s) ∧
    (alone → ofBytes (s.home list 8) = 2 ^ 64 - 1 → exec (.contextSave gid) s = .next s) ∧
    (¬ alone → exec (.contextSave gid) s = .next s ∨
      ∃ t, exec (.contextSave gid) s = .next t ∧ ∀ m ∈ mates, ∃ h, tfind t.groups m.1 = some h ∧ h.st = .saved ∧
        ∀ w ∈ h.warps, tfind t.warps w = none) ∧
    (alone → s.saveDue g gr = true → s.savable g = true → ofBytes (s.home list 8) ≠ 2 ^ 64 - 1 →
      ∃ t h z, exec (.contextSave gid) s = .next t ∧ tfind t.groups gid = some h ∧ h.st = .saved ∧
        (∀ w ∈ g.warps, tfind t.warps w = none) ∧ tfind t.grids g.grid = some z ∧ z.away = gr.away + 1 ∧
        (t.ctx gr.ctx).savedCount = (s.ctx gr.ctx).savedCount + 1)) ∧
  (∀ (s : State) (c : Cx) (d a : BitVec 7),
    let block := (c.warp.qreg a.toNat).toNat
    let n := ofBytes (s.home (block + 14) 2)
    let gives := fun (t : State) (k : Word) => exec (.ctxld d a) s = .next (t.after c (fun w => w.putS d.toNat k false))
    Ready s c (privOnce (even a) c [qref a.toNat] (sref d.toNat)) →
      (2 ^ 52 ≤ block → exec (.ctxld d a) s = .next (s.trap c .access c.split.mask block)) ∧
      (block < 2 ^ 52 →
        (s.imgValid block = false → gives s 1) ∧
        (ofBytes (s.home block 4) ≠ 0x53585443 ∨ ofBytes (s.home (block + 4) 2) ≠ 1 ∨ s.imgZero block 100 3996 = false →
          s.imgValid block = false) ∧
        (s.imgValid block = true → (s.ctx n).valid = false → gives s 2) ∧
        (s.imgValid block = true → (s.ctx n).valid = true →
          gives (s.setCtx n (fun x => { x with reload := x.reload ++ [block] })) 0)))

/-! ### Streams -/

namespace Sys2Proof.Machine

/-- The address that a global operand of a stream names (R327): with REL, XB is added. -/
def Stream.operand (x : Stream) (a : BitVec 64) : Nat :=
  if a.toNat.testBit 60 then (x.xb.toNat + a.toNat % 2 ^ 57) % 2 ^ 57 else a.toNat % 2 ^ 57

/-- The stream goes past its instruction of so many operand words, or to another pc. -/
def State.streamAt (s : State) (n pc : Nat) : State := s.setStream n (fun x => { x with st := .run, moved := 0, pc := pc % 2 ^ 57 })

/-- Row numbers of a gather or scatter, whose list the stream reads at the physical addresses f. -/
def State.rowNumber (s : State) (x : Stream) (f : Nat → Nat) (iw : BitVec 1) (idx : BitVec 64) (i : Nat) : Nat :=
  let z := if iw = 1 then 8 else 4
  ofBytes ((List.range z).map (fun k => s.viewByte x.die (f ((x.operand idx + z * i + k) % 2 ^ 57))))

/-- The rows (destination, source, bytes) that a copying stream instruction with global operands moves, in order, its operand words,
and the operands that it takes as addresses (R329); f gives the physical addresses of an index list. -/
def copyRows (s : State) (x : Stream) (f : Nat → Nat) : Instr → Option (List (Nat × Nat × Nat) × Nat × List (BitVec 64))
  | .cpy _ dst src len => some ([(x.operand dst, x.operand src, len.toNat)], 5, [dst, src])
  | .cpy2 _ dst src rowb rows dstr sstr => some ((List.range rows.toNat).map (fun (i : Nat) =>
      ((((x.operand dst : Int) + i * dstr.toInt) % 2 ^ 57).toNat, (((x.operand src : Int) + i * sstr.toInt) % 2 ^ 57).toNat, rowb.toNat)),
      8, [dst, src])
  | .cgath rb iw _ dst src idx count => some ((List.range count.toNat).map (fun (i : Nat) =>
      ((x.operand dst + i * rb.toNat) % 2 ^ 57, (x.operand src + s.rowNumber x f iw idx i * rb.toNat) % 2 ^ 57, rb.toNat)), 7, [dst, src, idx])
  | .cscat rb iw _ dst src idx count => some ((List.range count.toNat).map (fun (i : Nat) =>
      ((x.operand dst + s.rowNumber x f iw idx i * rb.toNat) % 2 ^ 57, (x.operand src + i * rb.toNat) % 2 ^ 57, rb.toNat)), 7, [dst, src, idx])
  | _ => none

/-- Installed memory of the module, not the host's and of no private block, at n bytes. -/
def State.plainRange (s : State) (a n : Nat) : Prop :=
  s.inPriv a n = false ∧ ∀ k < n, a + k < 2 ^ 52 ∧ s.installed (a + k) = true ∧ s.isHost (a + k) = false

/-- For an access the stream's slot maps n bytes at the virtual address a to the physical addresses f, in installed memory of the module
outside the window, the host's ranges and the private blocks (R86, R97, R420). -/
def State.mapped (s : State) (x : Stream) (need : Need) (f : Nat → Nat) (a n : Nat) : Prop :=
  ∀ k < n, s.plainRange (f ((a + k) % 2 ^ 57)) 1 ∧
    ∃ y, s.translate x.die x.ctx ((a + k) % 2 ^ 57) need = .ok y ∧ y.window = none ∧ y.pa = f ((a + k) % 2 ^ 57)

/-- A gather or scatter with RB 0, or with an index list that is not in installed memory of the module. -/
def copyBad (s : State) (x : Stream) : Instr → Prop
  | .cgath rb iw _ _ _ idx count => rb = 0 ∨ ¬ s.plainRange (x.operand idx) ((if iw = 1 then 8 else 4) * count.toNat)
  | .cscat rb iw _ _ _ idx count => rb = 0 ∨ ¬ s.plainRange (x.operand idx) ((if iw = 1 then 8 else 4) * count.toNat)
  | _ => False

/-- The same for a stream that reads and writes through page tables: where the index list is not reached for loads at the addresses f. -/
def copyMissed (s : State) (x : Stream) (f : Nat → Nat) : Instr → Prop
  | .cgath rb iw _ _ _ idx count => rb = 0 ∨ ¬ s.mapped x .load f (x.operand idx) ((if iw = 1 then 8 else 4) * count.toNat)
  | .cscat rb iw _ _ _ idx count => rb = 0 ∨ ¬ s.mapped x .load f (x.operand idx) ((if iw = 1 then 8 else 4) * count.toNat)
  | _ => False

/-- A stream runs at the start of an instruction whose lines may all be written in one step, over clean memory that no lost link and no
held channel keeps from it, its die's earlier stores performed, while no access to a window is pending (R100). -/
structure CalmStream (s : State) (n : Nat) (x : Stream) : Prop where
  cx : streamCx s = some (n, x)
  whole : x.moved = 0 ∧ x.quota = none
  clean : s.memP = []
  calm : s.quiet
  served : ∀ a k, s.unserved x.die a k = false
  posted : ∀ p ∈ s.posted, p.die ≠ x.die ∧ p.id < s.uid
  windows : ∀ o ∈ s.ops, o.kind.winLanes = []

/-- The same under a slot without tables, whose addresses are physical. -/
structure PlainStream (s : State) (n : Nat) (x : Stream) : Prop extends CalmStream s n x where
  flat : (s.ctx x.ctx).ptroot = 0

/-- A local operand (R327): an offset below 2^18 in the A-buffer (u = 0) or the W-buffer. -/
def isLocal (dst : BitVec 64) (u : Nat) : Prop := dst.toNat / 2 ^ 61 = u + 1 ∧ u < 2 ∧ dst.toNat % 2 ^ 61 < 2 ^ 18

end Sys2Proof.Machine

/-- CPY, CPY2, CGATH and CSCAT (R326, R327, R329): in order, each row's bytes go from its source to its destination, where sources and
destinations do not overlap; a later row wins. No other byte of memory changes, and the stream goes on. -/
def Sys2Proof.Claim.StreamsCopyRows : Prop :=
  ∀ (s : State) (n : Nat) (x : Stream) (i : Instr) (rows : List (Nat × Nat × Nat)) (words : Nat) (ops : List (BitVec 64)),
    PlainStream s n x → copyRows s x id i = some (rows, words, ops) → ¬ copyBad s x i → (∀ a ∈ ops, globalOp a = true) →
    (∀ r ∈ rows, s.plainRange r.1 r.2.2 ∧ s.plainRange r.2.1 r.2.2) →
    (∀ r ∈ rows, ∀ q ∈ rows, overlaps r.1 r.2.2 q.2.1 q.2.2 = false) →
    ∃ t, exec i s = .next t ∧
      tfind t.streams n = some { x with st := .run, pc := (x.pc + 4 * (1 + words)) % 2 ^ 57 } ∧
      (∀ (j : Nat) (r : Nat × Nat × Nat) (k : Nat), rows[j]? = some r → k < r.2.2 →
        (∀ (h : Nat) (q : Nat × Nat × Nat), rows[h]? = some q → j < h → ¬ (q.1 ≤ r.1 + k ∧ r.1 + k < q.1 + q.2.2)) →
        memByte t.mem (r.1 + k) = s.viewByte x.die (r.2.1 + k)) ∧
      (∀ a, (∀ r ∈ rows, ¬ (r.1 ≤ a ∧ a < r.1 + r.2.2)) → memByte t.mem a = memByte s.mem a) ∧
      t.warps = s.warps ∧ t.groups = s.groups

/-- CFILL and CCONV to memory, CPY to a local buffer, and the stops of local operands (R327 to R330): a pattern of 1, 2, 4 or 8 bytes is
repeated; elements are converted one by one with their flags ORed into the stream's; a local destination needs a bound workgroup
(UNBOUND), multiples of 4 (ALIGN) and room in its allocation (LIMIT). -/
def Sys2Proof.Claim.StreamsFillAndConvert : Prop :=
  (∀ (s : State) (n : Nat) (x : Stream) (psz : BitVec 2) (dst pat : BitVec 64) (len : BitVec 32),
    let z := 2 ^ psz.toNat
    let a := x.operand dst
    PlainStream s n x → globalOp dst = true →
      (a % z ≠ 0 ∨ len.toNat % z ≠ 0 → exec (.cfill psz dst pat len) s = .next (s.stopStream n 5)) ∧
      (a % z = 0 → len.toNat % z = 0 → s.plainRange a len.toNat →
        ∃ t, exec (.cfill psz dst pat len) s = .next t ∧
          tfind t.streams n = some { x with st := .run, pc := (x.pc + 24) % 2 ^ 57 } ∧
          (∀ k < len.toNat, memByte t.mem (a + k) = BitVec.ofNat 8 (pat.toNat / 256 ^ (k % z))) ∧
          (∀ b, ¬ (a ≤ b ∧ b < a + len.toNat) → memByte t.mem b = memByte s.mem b) ∧ t.warps = s.warps ∧ t.groups = s.groups)) ∧
  (∀ (s : State) (n : Nat) (x : Stream) (sf tf : BitVec 4) (rm : BitVec 2) (sat : BitVec 1) (dst src : BitVec 64) (count : BitVec 32),
    let zs := convBytes sf.toNat
    let zt := convBytes tf.toNat
    let a := x.operand dst
    let b := x.operand src
    let y := fun (i : Nat) => convert sf.toNat tf.toNat false false rm.toNat (sat == 1) (ofBytes (s.view x.die (b + zs * i) zs))
    PlainStream s n x → convCode sf = true → convCode tf = true → globalOp dst = true → globalOp src = true → 0 < count.toNat →
    s.plainRange a (zt * count.toNat) → s.plainRange b (zs * count.toNat) → overlaps a (zt * count.toNat) b (zs * count.toNat) = false →
      ∃ t, exec (.cconv sf tf rm sat dst src count) s = .next t ∧
        tfind t.streams n = some { x with
          st := .run
          pc := (x.pc + 24) % 2 ^ 57
          flags := x.flags ||| (List.range count.toNat).foldl (fun f i => f ||| (y i).2) 0 } ∧
        (∀ i < count.toNat, t.home (a + zt * i) zt = toBytes (y i).1 zt) ∧
        (∀ k, ¬ (a ≤ k ∧ k < a + zt * count.toNat) → memByte t.mem k = memByte s.mem k) ∧ t.warps = s.warps ∧ t.groups = s.groups) ∧
  (∀ (s : State) (n : Nat) (x : Stream) (na : BitVec 1) (dst src : BitVec 64) (len : BitVec 32) (u : Nat) (g : Nat) (gr : Group) (y : Grid),
    let off := dst.toNat % 2 ^ 57
    let go := exec (.cpy na dst src len) s
    streamCx s = some (n, x) → isLocal dst u → globalOp src = true →
      (x.group = none → go = .next (s.stopStream n 4)) ∧
      (x.group = some g → off % 4 ≠ 0 ∨ len.toNat % 4 ≠ 0 → go = .next (s.stopStream n 5)) ∧
      (x.group = some g → tfind s.groups g = some gr → tfind s.grids gr.grid = some y → off % 4 = 0 → len.toNat % 4 = 0 →
        (len ≠ 0 → (if u = 0 then y.agr else y.wgr) * 4096 < off + len.toNat → go = .next (s.stopStream n 3)) ∧
        (off + len.toNat ≤ (if u = 0 then y.agr else y.wgr) * 4096 → PlainStream s n x → s.plainRange (x.operand src) len.toNat →
          ∃ t h, go = .next t ∧ tfind t.streams n = some { x with st := .run, pc := (x.pc + 24) % 2 ^ 57 } ∧ t.mem = s.mem ∧
            tfind t.groups g = some h ∧
            ∀ k, tget 0 (if u = 0 then h.abuf else h.wbuf) k =
              if off ≤ k ∧ k < off + len.toNat then s.viewByte x.die (x.operand src + (k - off))
              else tget 0 (if u = 0 then gr.abuf else gr.wbuf) k)))

/-- CPY, CPY2, CGATH, CSCAT, CFILL and CCONV of a stream whose slot has page tables (R326 to R330, R420): every access is translated, and
what the rules say of an address holds of the physical address that the tables give; a line whose translation faults parks the
stream with a record of kind 8 and nothing of it written, and one on a page that is moving waits. -/
def Sys2Proof.Claim.StreamsUnderTables : Prop :=
  (∀ (s : State) (n : Nat) (x : Stream) (i : Instr) (rows : List (Nat × Nat × Nat)) (words : Nat) (ops : List (BitVec 64))
    (from_ into : Nat → Nat),
    CalmStream s n x → copyRows s x from_ i = some (rows, words, ops) → ¬ copyMissed s x from_ i → (∀ a ∈ ops, globalOp a = true) →
    (∀ r ∈ rows, s.mapped x .store into r.1 r.2.2 ∧ s.mapped x .load from_ r.2.1 r.2.2) →
    let src := fun (r : Nat × Nat × Nat) (k : Nat) => from_ ((r.2.1 + k) % 2 ^ 57)
    let dst := fun (r : Nat × Nat × Nat) (k : Nat) => into ((r.1 + k) % 2 ^ 57)
    (∀ r ∈ rows, ∀ q ∈ rows, ∀ k < r.2.2, ∀ l < q.2.2, dst r k ≠ src q l) →
    ∃ t, exec i s = .next t ∧
      tfind t.streams n = some { x with st := .run, pc := (x.pc + 4 * (1 + words)) % 2 ^ 57 } ∧
      (∀ (j : Nat) (r : Nat × Nat × Nat) (k : Nat), rows[j]? = some r → k < r.2.2 →
        (∀ (h : Nat) (q : Nat × Nat × Nat) (l : Nat), rows[h]? = some q → l < q.2.2 → j < h ∨ j = h ∧ k < l → dst q l ≠ dst r k) →
        memByte t.mem (dst r k) = s.viewByte x.die (src r k)) ∧
      (∀ a, (∀ r ∈ rows, ∀ k < r.2.2, dst r k ≠ a) → memByte t.mem a = memByte s.mem a) ∧
      t.warps = s.warps ∧ t.groups = s.groups) ∧
  (∀ (s : State) (n : Nat) (x : Stream) (psz : BitVec 2) (dst pat : BitVec 64) (len : BitVec 32) (into : Nat → Nat),
    let z := 2 ^ psz.toNat
    let a := x.operand dst
    let byte := fun (k : Nat) => into ((a + k) % 2 ^ 57)
    CalmStream s n x → globalOp dst = true → a % z = 0 → len.toNat % z = 0 → s.mapped x .store into a len.toNat →
    (∀ j < len.toNat, ∀ k < len.toNat, byte j = byte k → j = k) →
      ∃ t, exec (.cfill psz dst pat len) s = .next t ∧
        tfind t.streams n = some { x with st := .run, pc := (x.pc + 24) % 2 ^ 57 } ∧
        (∀ k < len.toNat, memByte t.mem (byte k) = BitVec.ofNat 8 (pat.toNat / 256 ^ (k % z))) ∧
        (∀ b, (∀ k < len.toNat, byte k ≠ b) → memByte t.mem b = memByte s.mem b) ∧ t.warps = s.warps ∧ t.groups = s.groups) ∧
  (∀ (s : State) (n : Nat) (x : Stream) (sf tf : BitVec 4) (rm : BitVec 2) (sat : BitVec 1) (dst src : BitVec 64) (count : BitVec 32)
    (from_ into : Nat → Nat),
    let zs := convBytes sf.toNat
    let zt := convBytes tf.toNat
    let read := fun (k : Nat) => from_ ((x.operand src + k) % 2 ^ 57)
    let byte := fun (k : Nat) => into ((x.operand dst + k) % 2 ^ 57)
    let y := fun (i : Nat) => convert sf.toNat tf.toNat false false rm.toNat (sat == 1)
      (ofBytes ((List.range zs).map (fun k => s.viewByte x.die (read (zs * i + k)))))
    CalmStream s n x → convCode sf = true → convCode tf = true → globalOp dst = true → globalOp src = true → 0 < count.toNat →
    s.mapped x .store into (x.operand dst) (zt * count.toNat) → s.mapped x .load from_ (x.operand src) (zs * count.toNat) →
    (∀ j < zt * count.toNat, ∀ k < zt * count.toNat, byte j = byte k → j = k) →
    (∀ j < zt * count.toNat, ∀ k < zs * count.toNat, byte j ≠ read k) →
      ∃ t, exec (.cconv sf tf rm sat dst src count) s = .next t ∧
        tfind t.streams n = some { x with
          st := .run
          pc := (x.pc + 24) % 2 ^ 57
          flags := x.flags ||| (List.range count.toNat).foldl (fun f i => f ||| (y i).2) 0 } ∧
        (∀ i < count.toNat, ∀ k < zt, memByte t.mem (byte (zt * i + k)) = BitVec.ofNat 8 ((y i).1 / 256 ^ k)) ∧
        (∀ b, (∀ k < zt * count.toNat, byte k ≠ b) → memByte t.mem b = memByte s.mem b) ∧ t.warps = s.warps ∧ t.groups = s.groups) ∧
  (∀ (s : State) (n : Nat) (x : Stream) (i : Instr) (r : Nat × Nat × Nat) (more : List (Nat × Nat × Nat)) (words : Nat)
    (ops : List (BitVec 64)) (e : WalkFault × Nat),
    let line := min (min r.2.2 (128 - r.2.1 % 128)) (65536 - r.1 % 65536)
    CalmStream s n x → copyRows s x id i = some (r :: more, words, ops) → (∀ a ∈ ops, globalOp a = true) → r.2.2 ≠ 0 →
    (∀ rb iw na d a b k, i ≠ .cgath rb iw na d a b k ∧ i ≠ .cscat rb iw na d a b k) → (∀ q ∈ s.asks, q.who ≠ n) →
    s.pieces x.die x.ctx .load r.2.1 line = .error e →
      (e.1.1 ≠ .tierMove → exec i s = .next (s.parkStream n x e)) ∧ (e.1.1 = .tierMove → exec i s = .next s))

/-- Copy streams: copies, fills and conversions.
The model's choice, where the manual leaves it open: that a slot without page tables has physical addresses (log entry 4), the order of
the checks of a stream instruction (log entry 66), what a stream has written when it faults (log entry 68) and that a copy moves line
by line (log entry 157). -/
def Obligations.StreamsCopyFillAndConvert : Prop :=
  Sys2Proof.Claim.StreamsCopyRows ∧ Sys2Proof.Claim.StreamsFillAndConvert ∧ Sys2Proof.Claim.StreamsUnderTables

/-- CSEMS, CSEMW with CSEMW_SATISFIED, CLOOP, CJMP, CHALT (R329, R330, R454) and OUTBOUND_ACCESS_ABORT (R124): what each does to the
semaphore and to the stream, and the code with which it stops; CSEMS, a release (R112), waits until every write of its die is applied
on every die; a stop writes the status that the stream names. An aborted access of a
load raises PEER at it and leaves its destination.
The model's choice, where the manual leaves it open: what an acquire applies and what a release waits for (log entry 25), which
accesses to the host hold their split, and the record of one that aborts (log entry 38), where a stream's status goes (log entry 87)
and how completions and reads of the host's memory are matched (log entry 108). -/
def Obligations.StreamsSynchronise : Prop :=
  (∀ (s : State) (n : Nat) (x : Stream) (set : BitVec 1) (sem v : BitVec 64) (back : BitVec 16) (count : BitVec 32),
    streamCx s = some (n, x) →
    let va := x.operand sem
    (globalOp sem = false → exec (.csems set sem v) s = .next (s.stopStream n 1) ∧ exec (.csemw sem v) s = .next (s.stopStream n 1)) ∧
    (globalOp sem = true → va % 8 ≠ 0 →
      exec (.csems set sem v) s = .next (s.stopStream n 5) ∧ exec (.csemw sem v) s = .next (s.stopStream n 5)) ∧
    (globalOp sem = true → va % 8 = 0 → ∀ pa, s.streamSem x va .atomic = .ok pa →
      (s.unserved x.die pa 8 = true → exec (.csems set sem v) s = .next s) ∧
      (s.unserved x.die pa 8 = false → ∀ p, s.hostPort pa = some p → x.st = .run → (∀ q ∈ s.asks, q.who ≠ n) →
        exec (.csems set sem v) s = .next (({ s with
          sent := s.sent ++ [⟨p, 1, false, n % 65536, pa, [], 8⟩]
          asks := s.asks ++ [⟨n, p, pa, 8, none⟩] } : State).setStream n (fun x => { x with st := .outbound }))) ∧
      (s.unserved x.die pa 8 = false → s.hostPort pa = none → s.drained x.die = false → exec (.csems set sem v) s = .next s) ∧
      (s.unserved x.die pa 8 = false → s.hostPort pa = none → s.drained x.die = true → s.quiet → s.inPriv pa 8 = false →
        let y := if set = 1 then v.toNat else ofBytes (s.home pa 8) + v.toNat
        exec (.csems set sem v) s = .next ((s.writeAt x.die pa (toBytes y 8)).streamAt n (x.pc + 20)))) ∧
    (globalOp sem = true → va % 8 = 0 → ∀ pa, s.streamSem x va .load = .ok pa → s.quiet → s.inPriv pa 8 = false →
      (v.toNat ≤ ofBytes (s.home pa 8) → s.unserved x.die pa 8 = false → s.acquireHeld x.die = false →
        exec (.csemw sem v) s = .next ((s.applyAll x.die).streamAt n (x.pc + 20))) ∧
      (ofBytes (s.home pa 8) < v.toNat ∨ s.unserved x.die pa 8 = true ∨ s.acquireHeld x.die = true →
        exec (.csemw sem v) s = .next (s.setStream n (fun x => { x with st := .waitSem va v.toNat })))) ∧
    (let left := x.lc.getD count.toNat
     (back = 0 → exec (.cloop back count) s = .next (s.stopStream n 1)) ∧
     (back ≠ 0 → x.lc ≠ none → x.la ≠ x.pc → exec (.cloop back count) s = .next (s.stopStream n 6)) ∧
     (back ≠ 0 → x.lc = none ∨ x.la = x.pc →
       (1 < left → exec (.cloop back count) s = .next (s.setStream n (fun x => { x with
         lc := some (left - 1)
         la := x.pc
         xb := x.xb + x.xs
         st := .run
         moved := 0
         pc := (((x.pc : Int) - 4 * back.toNat) % 2 ^ 57).toNat }))) ∧
       (left ≤ 1 → exec (.cloop back count) s = .next (s.setStream n (fun x => { x with
         lc := none
         la := x.pc
         st := .run
         moved := 0
         pc := (x.pc + 8) % 2 ^ 57 }))))) ∧
    (2 ^ 57 ≤ v.toNat → exec (.cjmp v) s = .next (s.stopStream n 1)) ∧
    (v.toNat < 2 ^ 57 → v.toNat % 4 ≠ 0 → exec (.cjmp v) s = .next (s.stopStream n 5)) ∧
    (v.toNat < 2 ^ 57 → v.toNat % 4 = 0 → exec (.cjmp v) s = .next (s.streamAt n v.toNat)) ∧
    exec .chalt s = .next (s.stopStream n 0)) ∧
  (∀ (s : State) (n va th : Nat) (x : Stream), tfind s.streams n = some x → x.st = .waitSem va th →
    (∀ e, s.streamSem x va .load = .error e →
      exec (.csemwSatisfied n) s = .next (s.setStream n (fun x => { x with st := .run }))) ∧
    (∀ pa, s.streamSem x va .load = .ok pa → s.quiet → s.inPriv pa 8 = false →
      (ofBytes (s.home pa 8) < th ∨ s.unserved x.die pa 8 = true ∨ s.acquireHeld x.die = true →
        exec (.csemwSatisfied n) s = .next s) ∧
      (th ≤ ofBytes (s.home pa 8) → s.unserved x.die pa 8 = false → s.acquireHeld x.die = false →
        exec (.csemwSatisfied n) s = .next ((s.applyAll x.die).streamAt n (x.pc + 20))))) ∧
  (∀ (s : State) (n code : Nat) (x : Stream), tfind s.streams n = some x → x.doneSem = 0 →
    let stopped := s.setStream n (fun x => { x with st := .stopped code, fault := none, moved := 0 })
    (x.status = 0 → x.group = none → s.stopStream n code = stopped) ∧
    (x.status ≠ 0 ∨ x.group ≠ none → ∀ t, s.translate x.die x.ctx x.status .store = .ok t → t.window = none →
      s.stopStream n code = (stopped.writeAt x.die t.pa (toBytes (x.pc % 2 ^ 57) 8 ++ toBytes code 1 ++ toBytes x.flags.toNat 1 ++
        List.replicate 6 0)).writeBack x.die t.pa 16)) ∧
  (∀ (s : State) (n : Nat) (x : Stream), s.op n = none → tfind s.streams n = some x →
    (x.st ≠ .outbound → exec (.outboundAccessAbort n) s = .next s) ∧
    (x.st = .outbound → exec (.outboundAccessAbort n) s =
      .next (({ s with asks := s.asks.filter (fun q => q.who != n) } : State).stopStream n 7))) ∧
  (∀ (s : State) (n : Nat), s.op n = none → tfind s.streams n = none → exec (.outboundAccessAbort n) s =
    .next { s with asks := s.asks.map (fun q => if q.who = n ∧ q.got = none then { q with got := some false } else q) }) ∧
  (∀ (s : State) (n : Nat) (o : Op) (c : Cx) (accs : List LaneAcc) (z : Nat) (sx : Bool) (vd order scope : Nat) (iss : Reissue),
    let bad := accs.filter (fun a => a.win.isNone && (s.isHost a.pa || !s.installed a.pa))
    s.op n = some o → o.kind = .load accs z sx vd order scope 0 iss → s.cxOf o.warp o.split = some c → c.split.wait = .op n →
    c.warp.life = .running → bad ≠ [] →
    ∃ t y r, exec (.outboundAccessAbort n) s = .next t ∧ t.mem = s.mem ∧ tfind t.warps o.warp = some y ∧ y.v = c.warp.v ∧
      y.life = .stopped r ∧ r.code = .peer ∧ r.lanes = maskOf (bad.map (fun a => a.lane)) ∧
      r.info = (bad.head?.map (fun a => a.va)).getD 0 ∧ r.pc = c.split.first)

/-! ### Tensed accesses at their homes -/

/-- STT_ARRIVAL, TENSED_STORE_ADMIT, STT_VISIBLE and LATE_NOTICE (R130 to R134, R307, R316, R376, R489), lane by lane: a lane that finds no
space waits at its die; one that arrives by T is held, one later is written at once, and its store is counted late once there; a held
lane becomes visible at T or later, after those due before it. A lane whose bytes a higher lane writes too is never seen. When every
lane is done, and a late .LF store has given its notice, it ends and TMD falls. -/
def Sys2Proof.Claim.TensedStoresTakeEffect : Prop :=
  ∀ (s : State) (n die : Nat) (o : Op) (l : List LaneAcc) (z t : Nat) (rel lf : Bool) (queued : List Nat) (held : List (Nat × Nat))
    (gone : List Nat) (late : Mask) (noticed : Bool),
    s.op n = some o → o.kind = .stt l z t rel lf queued held gone late noticed → s.dies.length = 4 → die < 4 →
    (∀ x ∈ s.ops, x.kind.winLanes = []) → (∀ a ∈ l, s.inPriv a.pa z = false) →
    let there := fun (k : Nat) => ∃ a, l.find? (fun a => a.lane == k) = some a ∧ s.homeDie a.pa = die
    let lanes := (l.map (fun a => a.lane)).filter (s.laneOn l die)
    let next := lanes.find? (fun k => !queued.contains k && !held.any (fun h => h.1 == k) && !gone.contains k)
    let room := s.heldOn die < 65536
    let home := s.die die
    let written := fun (a : LaneAcc) =>
      if ∃ b ∈ l, a.lane < b.lane ∧ b.pa = a.pa then s else s.writeNow o.die (cellsAt a.pa a.data) ((a.pa, z, false) :: a.poison.map (fun i => (a.pa + 4 * i, min z 4, true)))
    let wait := fun (q : List Nat) (k : Nat) => ({ s with uid := s.uid + 1 }).setOp n (.stt l z t rel lf q (held ++ [(k, s.uid)]) gone late noticed)
    (∀ k, s.laneOn l die k = true ↔ there k) ∧
    -- arrival
    (next = none ∨ s.sttReady o rel = false → exec (.sttArrival n die) s = .next s) ∧
    (∀ k, next = some k → s.sttReady o rel = true →
      (¬ room → exec (.sttArrival n die) s = .next (s.setOp n (.stt l z t rel lf (queued ++ [k]) held gone late noticed))) ∧
      (room → home.time ≤ t → exec (.sttArrival n die) s = .next (wait queued k)) ∧
      (room → t < home.time → ∀ a, l.find? (fun a => a.lane == k) = some a →
        ∃ u, exec (.sttArrival n die) s = .next u ∧ u.mem = (written a).mem ∧
          (if ∃ j ∈ lanes, late.getLsbD j = true then (u.die die).late = home.late
           else (u.die die).late = (home.late + 1) % 2 ^ 64 ∧ (u.die die).lnext = (home.lnext + 1) % 16))) ∧
    -- space comes free
    ((∀ k ∈ queued, ¬ there k) ∨ ¬ room → exec (.tensedStoreAdmit n die) s = .next s) ∧
    (∀ k, queued.find? (s.laneOn l die) = some k → room → home.time ≤ t →
      exec (.tensedStoreAdmit n die) s = .next (wait (queued.filter (fun x => x != k)) k)) ∧
    -- visible
    ((∀ h ∈ held, ¬ there h.1) → exec (.sttVisible n die) s = .next s) ∧
    (∀ h, held.find? (fun h => s.laneOn l die h.1) = some h →
      (home.time < t ∨ s.sttBehind die t h.2 = true → exec (.sttVisible n die) s = .next s) ∧
      (t ≤ home.time → s.sttBehind die t h.2 = false → ∀ a, l.find? (fun a => a.lane == h.1) = some a →
        ∃ u, exec (.sttVisible n die) s = .next u ∧ u.mem = (written a).mem ∧
        (u.die die).ulrel = (if home.tstate = .locked then home.ulrel else (home.ulrel + 1) % 2 ^ 64) ∧
        (∀ x, EndsAlone s n o → o.path = some (.tmd, 1) → tfind s.warps o.warp = some x →
          (∀ b ∈ l, b.lane = h.1 ∨ gone.contains b.lane = true) → (late = 0 ∨ lf = false ∨ noticed = true) →
          ∃ y, tfind u.warps o.warp = some y ∧ y.tmd = x.tmd - 1 ∧ u.op n = none))) ∧
    -- the notice, with the lanes of the first late store
    (late = 0 ∨ lf = false ∨ noticed = true ∨ (∃ a ∈ l, gone.contains a.lane = false) → exec (.lateNotice n) s = .next s) ∧
    (late ≠ 0 → lf = true → noticed = false → (∀ a ∈ l, gone.contains a.lane = true) → ∀ x, EndsAlone s n o →
      tfind s.warps o.warp = some x →
      exec (.lateNotice n) s = .next (s.finished o x (fun y => { y with late := some (y.late.getD late) })))

/-- LDT_ARRIVAL and LDT_PERFORMED (R108, R132, R307, R315, R316), lane by lane: a lane reaches its home, and reads the home values there at
home time N or later, after the thread's older accesses to its bytes and after every store held there that is due by N; one access serves
the lanes of one address. With every lane read the load ends and TMD falls; with acquire order its die applies every write it may. -/
def Sys2Proof.Claim.TensedLoadsPerform : Prop :=
  ∀ (s : State) (n die : Nat) (o : Op) (x : Warp) (l : List LaneAcc) (z vd t : Nat) (acq : Bool) (arrived got : List Nat) (iss : Reissue),
    s.op n = some o → o.kind = .ldt l z vd t acq arrived got iss →
    let next := ((l.map (fun a => a.lane)).filter (s.laneOn l die)).find? (fun k => !arrived.contains k)
    let ready := fun (a : LaneAcc) => arrived.contains a.lane && !got.contains a.lane &&
      !s.before o.warp o.id (some a.lane) a.pa z && !s.storeBefore o.warp o.id (some a.lane) a.pa z
    let due := l.find? (fun a => ready a && s.homeDie a.pa == die)
    (next = none ∨ arrived = [64] → exec (.ldtArrival n die) s = .next s) ∧
    (∀ k, next = some k → arrived ≠ [64] →
      exec (.ldtArrival n die) s = .next (s.setOp n (.ldt l z vd t acq (k :: arrived) got iss))) ∧
    (due = none → exec (.ldtPerformed n die) s = .next s) ∧
    (∀ a, due = some a →
      ((s.die die).time < t ∨ s.heldOver die t a.pa z = true → exec (.ldtPerformed n die) s = .next s) ∧
      (t ≤ (s.die die).time → s.heldOver die t a.pa z = false → EndsAlone s n o → tfind s.warps o.warp = some x → s.quiet →
        s.inPriv a.pa z = false → (z = 4 ∨ z = 8 ∨ z = 16) →
        let mine := l.filter (fun b => ready b && b.pa == a.pa)
        (∀ b ∈ mine, b.pmode = 2 → s.poisoned b.pa z = false) → (∀ b ∈ l, b ∈ mine ∨ got.contains b.lane = true) →
        let s1 := if acq then s.applyAll o.die else s
        exec (.ldtPerformed n die) s = .next (s1.finished o x (fun y => y.writeAll (s.widthOf o.warp) (mine.flatMap (fun b =>
          loadedRegs vd b.lane z false (s.home a.pa z) (fun k => s.poisoned (a.pa + 4 * k) (min z 4))))))))

/-- Tensed loads and stores issue, take effect and perform.
The model's choice, where the manual leaves it open: that the lanes of one load, store or atomic are performed together, in a later
step (log entry 24), how late stores of one warp combine (log entry 43) and that each lane of a tensed access finds room for itself
(log entry 133). -/
def Obligations.TensedAccesses : Prop :=
  Sys2Proof.Claim.TensedAccessesIssue ∧ Sys2Proof.Claim.TensedStoresTakeEffect ∧ Sys2Proof.Claim.TensedLoadsPerform

/-! ### The host link and boot -/

namespace Sys2Proof.Machine

/-- A message dropped by the far die of its port, and counted (R447, R488). -/
def State.dropped (s : State) (port : Nat) : State := s.setDie (2 + port) (fun x => { x with ohldisc := (x.ohldisc + 1) % 2 ^ 64 })

/-- A CPL (R447). -/
def State.cpl (s : State) (port tag : Nat) (abort : Bool) (l : List Byte) : State := s.send ⟨port, 3, abort, tag % 65536, 0, l, l.length⟩

/-- Memory with bytes written from an address. -/
def State.wrote (t s : State) (a : Nat) (l : List Byte) : Prop :=
  ∀ k, memByte t.mem k = if a ≤ k ∧ k < a + l.length then l.getD (k - a) 0 else memByte s.mem k

end Sys2Proof.Machine

/-- MRD, MWR, INBOUND_ACCESS_TIMEOUT, CPL, RRD and RWR (R122 to R124, R447, R448, R485): a bad length, or any before boot, is dropped and
counted; one behind an access of its port that is held, or to a held channel, waits; a read is answered from home memory (a line still
dirty in an L2 reads old or new), a write is applied at its home; where no memory of the module is, the access is logged and aborts. A register access, after those that arrived before it, is what SRR and SRW
do; what they refuse is dropped. -/
def Sys2Proof.Claim.HostAccessesAreServed : Prop :=
  (∀ (s : State) (port tag addr len : Nat) (data : List Byte), s.portUp port = true →
    let a := addr % 2 ^ 64
    let logged := s.logError (s.homeDie a) 0x0B true false false 0 a 0 0 0
    let free := fun (n : Nat) => s.chanHeld a n = false ∧ ∀ k ∈ s.outstanding, k.port ≠ port
    let waits := fun (tag len : Nat) (data : Option (List Byte)) => ({ s with
      uid := s.uid + 1
      outstanding := s.outstanding ++ [⟨s.uid, port, tag, a, len, data, (s.die (s.homeDie a)).time⟩] } : State)
    (s.booted = false ∨ len = 0 ∨ 4096 < len → exec (.mrd port tag addr len) s = .next ((s.dropped port).cpl port tag true [])) ∧
    (s.booted = false ∨ data.length = 0 ∨ 4096 < data.length → exec (.mwr port addr data) s = .next (s.dropped port)) ∧
    (s.booted = true → 0 < len → len ≤ 4096 →
      (¬ free len → exec (.mrd port tag addr len) s = .next (waits (tag % 65536) len none)) ∧
      (free len → s.inboundOk a len = false → exec (.mrd port tag addr len) s = .next (logged.cpl port tag true [])) ∧
      (s.inboundOk a len = true → free len → s.quiet → s.inPriv a len = false →
        (s.poisoned a len = true → exec (.mrd port tag addr len) s = .next (logged.cpl port tag true [])) ∧
        (s.poisoned a len = false → ∃ l, exec (.mrd port tag addr len) s =
          .next (({ s with free := s.free + 1 }).cpl port tag false l) ∧ l.length = len ∧
          ∀ line, (∀ k < len, (a + k) / 128 = line → l.getD k 0 = memByte s.mem (a + k)) ∨
            (∀ k < len, (a + k) / 128 = line → l.getD k 0 = s.hostByte (a + k))))) ∧
    (s.booted = true → 0 < data.length → data.length ≤ 4096 →
      (¬ free data.length → exec (.mwr port addr data) s = .next (waits 0 data.length (some data))) ∧
      (free data.length → s.inboundOk a data.length = false → exec (.mwr port addr data) s = .next logged) ∧
      (s.inboundOk a data.length = true → free data.length → s.quiet → (∀ o ∈ s.ops, o.kind.winLanes = []) →
        ∃ t, exec (.mwr port addr data) s = .next t ∧ t.wrote s a data ∧ t.warps = s.warps ∧
          ∀ k < data.length, t.hostByte (a + k) = data.getD k 0))) ∧
  (∀ (s : State) (n : Nat) (m : Inbound),
    (s.outstanding.find? (fun m => m.id == n) = none → exec (.inboundAccessTimeout n) s = .next s) ∧
    (s.outstanding.find? (fun m => m.id == n) = some m →
      let d := s.homeDie m.addr
      let gone := ({ s with outstanding := s.outstanding.filter (fun k => k.id != n) }).logError d 0x0B true false false 0 m.addr 1 0 0
      ((s.die d).time < m.since + 2000000 → exec (.inboundAccessTimeout n) s = .next s) ∧
      (m.since + 2000000 ≤ (s.die d).time → m.data = none → m.tag < 65536 →
        exec (.inboundAccessTimeout n) s = .next (gone.cpl m.port m.tag true [])) ∧
      (m.since + 2000000 ≤ (s.die d).time → m.data ≠ none → exec (.inboundAccessTimeout n) s = .next gone))) ∧
  (∀ (s : State) (port tag : Nat) (data : List Byte), s.portUp port = true →
    (∀ q ∈ s.asks, q.got = none → q.port = port → q.who % 65536 ≠ tag % 65536) → ∀ abort,
      exec (.cpl port tag abort data) s = .next (s.dropped port)) ∧
  (∀ (s : State) (port tag : Nat) (q : HostAsk) (before after : List HostAsk) (data : List Byte), s.portUp port = true →
    s.asks = before ++ q :: after → q.got = none → q.port = port → q.who % 65536 = tag % 65536 →
    (∀ b ∈ before, b.got ≠ none ∨ b.port ≠ port ∨ b.who % 65536 ≠ tag % 65536) → (∀ b ∈ before ++ after, b ≠ q) → s.op q.who = none →
    let held := fun (k : Bool) => before ++ { q with got := some k } :: after
    (data.length ≠ q.len → exec (.cpl port tag false data) s = .next (s.dropped port)) ∧
    (data.length = q.len →
      exec (.cpl port tag false data) s = .next { s with mem := memSetAll s.mem (cellsAt q.pa data), asks := held true }) ∧
    (tfind s.streams q.who = none → exec (.cpl port tag true data) s = .next { s with asks := held false }) ∧
    (∀ x, tfind s.streams q.who = some x → x.st = .outbound →
      exec (.cpl port tag true data) s = .next (({ s with asks := s.asks.filter (fun b => b.who != q.who) } : State).stopStream q.who 7))) ∧
  (∀ (s : State) (port tag z vd scope : Nat) (o : Op) (x : Warp) (a : LaneAcc) (sx : Bool) (iss : Reissue) (data : List Byte),
    s.portUp port = true → s.asks = [⟨o.id, port, a.pa, z, none⟩] → o.id % 65536 = tag % 65536 → EndsAlone s o.id o →
    tfind s.warps o.warp = some x →
    o.kind = .load [a] z sx vd 0 scope 0 iss → a.win = none → a.pmode ≠ 2 → (z = 1 ∨ z = 2 ∨ z = 4 ∨ z = 8 ∨ z = 16) →
    s.hostPort a.pa = some port → s.before o.warp o.id (some a.lane) a.pa z = false → s.inPriv a.pa z = false → s.quiet →
    (data.length ≠ z → exec (.cpl port tag false data) s = .next (s.dropped port)) ∧
    (data.length = z →
      let s1 : State := { s with mem := memSetAll s.mem (cellsAt a.pa data) }
      exec (.cpl port tag false data) s = .next (s1.finished o x (fun y => y.writeAll (s.widthOf o.warp)
        (loadedRegs vd a.lane z sx (s1.view o.die a.pa z) (fun k => s.poisoned (a.pa + 4 * k) (min z 4))))))) ∧
  (∀ (s : State) (port tag : Nat) (arg v : BitVec 64), s.portUp port = true →
    let at' := regAddr arg.toNat none
    let answer := fun (x : DWord) => exec (.rrd port tag arg) s = .next (s.cpl port tag false (toBytes x.toNat 8))
    let refused := exec (.rrd port tag arg) s = .next ((s.dropped port).cpl port tag true [])
    ((∃ m ∈ s.outstanding, m.port = port) → exec (.rrd port tag arg) s = .next s) ∧
    ((∀ m ∈ s.outstanding, m.port ≠ port) → at' = none → refused) ∧
    ((∀ m ∈ s.outstanding, m.port ≠ port) → ∀ r, at' = some r →
      (s.booted = false → (r.block ≠ 0 ∨ r.die ≠ 2 ∨ port ≠ 0) → refused) ∧
      (s.booted = true ∨ (r.block = 0 ∧ r.die = 2 ∧ port = 0) →
        (s.readReg r none = none → refused) ∧ (∀ x, s.readReg r none = some x → answer x))) ∧
    (s.booted = false ∨ at' = none → exec (.rwr port arg v) s = .next (s.dropped port)) ∧
    (s.booted = true → ∀ r, at' = some r →
      (s.writeReg r v none = .refused → exec (.rwr port arg v) s = .next (s.dropped port)) ∧
      (∀ t, s.writeReg r v none = .done t →
        exec (.rwr port arg v) s = .next (if s.outstanding.any (fun m => m.port == port) then s else t))))

/-- BOOT, BOOTEND and POWER_ON_RESET (R473 to R475): chunks of 64 to 4,096 bytes, in multiples of 64 within the 64 MiB, are written to
F0's L2; BOOTEND refuses an image whose magic, sizes or checksum are wrong, with the reason; a good one starts the boot grid, one warp
of 64 lanes under slot 0 on core 2.0.0 at the entry. -/
def Sys2Proof.Claim.BootStartsTheModule : Prop :=
  (∀ (s : State) (offset : Nat) (data : List Byte),
    let ok := s.booted = false ∧ offset % 64 = 0 ∧ data.length % 64 = 0 ∧ 64 ≤ data.length ∧ data.length ≤ 4096 ∧
      offset + data.length ≤ 2 ^ 26
    (¬ ok → exec (.boot offset data) s = .next (s.dropped 0)) ∧
    (ok → ∃ t, exec (.boot offset data) s = .next t ∧ t.wrote s offset data ∧ t.warps = s.warps ∧ t.booted = false)) ∧
  (∀ (s : State),
    let magic := ofBytes (s.home 0 4)
    let len := ofBytes (s.home 4 4)
    let entry := ofBytes (s.home 8 4)
    let rest := ∀ k, 16 ≤ k → k < 64 → memByte s.mem k = 0
    let shape := len % 64 = 0 ∧ len ≤ 2 ^ 26 ∧ entry % 4 = 0 ∧ entry < len
    let sum := (crc32 (s.home 64 (len - 64))).toNat = ofBytes (s.home 12 4)
    let refuses := fun (r : Nat) => exec .bootend s = .next (s.note 5 2 (toBytes r 4))
    (s.booted = true → exec .bootend s = .next (s.dropped 0)) ∧
    (s.booted = false → ¬ (magic = 0x544F4F42 ∧ rest) → refuses 1) ∧
    (s.booted = false → magic = 0x544F4F42 → rest → ¬ shape → refuses 2) ∧
    (s.booted = false → magic = 0x544F4F42 → rest → shape → ¬ sum → refuses 3) ∧
    (s.booted = false → magic = 0x544F4F42 → rest → shape → sum → s.dies.length = 4 →
      ∃ t x, exec .bootend s = .next t ∧ t.booted = true ∧ t.mem = s.mem ∧ tfind t.warps (s.uid + 1) = some x ∧ x.core = 768 ∧
        x.slot = 0 ∧ x.life = .running ∧ (x.split 0).st = .run ∧ (x.split 0).pc = entry ∧ (x.split 0).mask = BitVec.allOnes 64 ∧
        (t.ctx 0).valid = true ∧ (t.ctx 0).priv = true ∧ (t.ctx 0).ptroot = 0 ∧ (t.die 2).clusters.getLsbD 0 = true)) ∧
  (∀ (s : State), exec .powerOnReset s = .next { State.reset with agenda := s.agenda, free := s.free })

/-- Host reads, writes and completions, and the boot of the module.
The model's choice, where the manual leaves it open: the NOTE of the boot (log entry 95), the answer to a read of a poisoned word (log
entry 105), that a dirty line reads wholly old or wholly new (log entry 106), the order of a port's accesses and an access to a host
range (log entry 107), how completions and reads of the host's memory are matched (log entry 108) and that the agenda and the counter
of free values outlast a reset (log entry 111). -/
def Obligations.HostAccessesAndBoot : Prop :=
  Sys2Proof.Claim.HostAccessesAreServed ∧ Sys2Proof.Claim.BootStartsTheModule

/-! ### Queues and dispatch -/

namespace Sys2Proof.Machine

/-- The fields that a dispatcher takes from a queue's descriptor (R450). -/
def Queue.takes (x : Queue) (l : List Byte) : Prop :=
  let w := ofBytes (l.take 8)
  x.known = true ∧ x.en = w.testBit 0 ∧ x.prio = w / 2 % 8 ∧ x.owner = w / 16 % 4 ∧ x.ctx = w / 2 ^ 16 % 4096 ∧ x.log2 = w / 2 ^ 32 % 16 ∧
    x.base = ofBytes ((l.drop 8).take 8) / 64 % 2 ^ 46 * 64

end Sys2Proof.Machine

/-- TAIL, QCTL_RESUME and QCTL_STOP (R447, R448, R451, R456): an ill-formed message, or one before boot, is dropped; one behind an access
of its port that is held waits for it. A TAIL that names more than the ring holds stops the queue with OVER, one that goes back is dropped. QCTL reads
the descriptor again; RESUME clears the error and the stop, STOP sets it. -/
def Sys2Proof.Claim.QueuesAreRung : Prop :=
  ∀ (s : State) (port : Nat) (arg : BitVec 64), s.portUp port = true →
    let n := arg.toNat
    let q := n % 2 ^ 13
    let x := s.queue q
    let v := n / 2 ^ 32
    let desc := fun (d : Nat) => (s.die d).qtbase + 64 * q
    let behind := s.outstanding.any (fun m => m.port == port) = true
    let tailOk := s.booted = true ∧ n / 2 ^ 13 % 2 ^ 19 = 0
    let form := fun (resume : Bool) => n / 2 ^ 13 % 8 = 0 ∧ n / 2 ^ 18 = 0 ∧ n.testBit 16 = resume ∧ n.testBit 17 = !resume
    let cleared := s.tellHost x.owner (desc x.owner + 24) [0, 0]
    -- TAIL
    (¬ tailOk → exec (.tail port arg) s = .next (s.dropped port)) ∧
    (tailOk → behind → exec (.tail port arg) s = .next s) ∧
    (tailOk → ¬ behind → x.known = false → exec (.tail port arg) s = exec (.tail port arg) (s.readDesc (2 + port) q)) ∧
    (tailOk → ¬ behind → x.known = true →
      let gap := (v + 2 ^ 32 - ofBytes (s.home (desc x.owner + 20) 4)) % 2 ^ 32
      let t := s.tellHost x.owner (desc x.owner + 20) (toBytes v 4)
      let past := ofBytes (t.home (desc x.owner + 24) 2) = 0 ∧
        2 ^ x.log2 < (v + 2 ^ 32 - ofBytes (t.home (desc x.owner + 16) 4)) % 2 ^ 32
      (2 ^ 31 ≤ gap → exec (.tail port arg) s = .next (s.dropped port)) ∧
      (gap < 2 ^ 31 → ¬ past → exec (.tail port arg) s = .next t) ∧
      (gap < 2 ^ 31 → past → exec (.tail port arg) s = .next (t.queueError q 4))) ∧
    -- QCTL
    (s.booted = false → ¬ form false → exec (.qctlResume port arg) s = .next (s.dropped port)) ∧
    (s.booted = false → ¬ form true → exec (.qctlStop port arg) s = .next (s.dropped port)) ∧
    (form false → exec (.qctlResume port arg) s = .next s) ∧ (form true → exec (.qctlStop port arg) s = .next s) ∧
    (s.booted = true → ¬ form true → ¬ form false → exec (.qctlResume port arg) s = .next (s.dropped port) ∧
      exec (.qctlStop port arg) s = .next (s.dropped port)) ∧
    (s.booted = true → form true →
      (behind → exec (.qctlResume port arg) s = .next s) ∧
      (¬ behind → ∃ t, exec (.qctlResume port arg) s = .next t ∧ (t.queue q).stop = false ∧
        (t.queue q).takes (cleared.home (desc (2 + port)) 64) ∧ (x.fault = none → (t.queue q).work = .idle) ∧ t.warps = s.warps)) ∧
    (s.booted = true → form false →
      (behind → exec (.qctlStop port arg) s = .next s) ∧
      (¬ behind → ∃ t, exec (.qctlStop port arg) s = .next t ∧ (t.queue q).stop = true ∧
        (t.queue q).takes (s.home (desc (2 + port)) 64) ∧ t.warps = s.warps))

/-- The records of a queue (R451 to R457): the record at HEAD is taken by an enabled queue that is not stopped; one of an unknown kind,
or with reserved bits, stops the queue with INVALID; each valid one has its effect and HEAD moves on. A wait goes on at its
threshold, a signal once the queue's launches and streams have ended. -/
def Sys2Proof.Claim.QueueRecordsAreTaken : Prop :=
  ∀ (s : State) (q : Nat),
    let x := s.queue q
    let desc := (s.die x.owner).qtbase + 64 * q
    let head := ofBytes (s.home (desc + 16) 4)
    let ready := x.known = true ∧ x.en = true ∧ x.fault = none ∧ (x.work = .idle ∧ x.stop = false ∨ x.work = .reading) ∧
      ofBytes (s.home (desc + 24) 2) = 0 ∧ head ≠ ofBytes (s.home (desc + 20) 4)
    let t := s.applyAll x.owner
    let l := s.home (x.base + 64 * (head % 2 ^ x.log2)) 64
    let kind := (l.headD 0).toNat % 16
    let word := fun (k : Nat) => ofBytes ((l.drop (8 * k)).take 8)
    let done := fun (u : State) => (u.tellHost x.owner (desc + 16) (toBytes (ofBytes (u.home (desc + 16) 4) + 1) 4)).setQueue q (fun y =>
      { y with work := .idle })
    (¬ ready → exec (.launchRecord q) s = .next s ∧ exec (.streamStartRecord q) s = .next s ∧ exec (.waitRecord q) s = .next s ∧
      exec (.signalRecord q) s = .next s ∧ exec (.nopRecord q) s = .next s) ∧
    (ready → kind = 0 ∨ 5 < kind → ∀ i ∈ [Instr.launchRecord q, .streamStartRecord q, .waitRecord q, .signalRecord q, .nopRecord q],
      exec i s = .next (t.queueError q 1)) ∧
    (ready → kind = 1 →
      (∀ e, t.readLaunch x.owner x.ctx l = .error e → exec (.launchRecord q) s = .next (t.queueFaulted q 9 e .reading)) ∧
      (∀ u, t.readLaunch x.owner x.ctx l = .ok (u, none) → exec (.launchRecord q) s = .next (u.queueError q 1)) ∧
      (∀ u g, t.readLaunch x.owner x.ctx l = .ok (u, some g) →
        (u.neverFits g = true → exec (.launchRecord q) s = .next (u.queueError q 2)) ∧
        (u.neverFits g = false → exec (.launchRecord q) s =
          .next (done (u.enterGrid x.owner { g with queue := some q }))))) ∧
    (ready → kind = 2 →
      (streamRecOk l = false → exec (.streamStartRecord q) s = .next (t.queueError q 1)) ∧
      (streamRecOk l = true → ∃ e < 32, exec (.streamStartRecord q) s = .next (done { t with
        uid := t.uid + 1
        streams := tput t.streams t.uid ⟨word 0 / 16 % 4, e, x.ctx, .run, word 1 % 2 ^ 57, BitVec.ofNat 64 (word 2), BitVec.ofNat 64 (word 3),
          none, 0, 0, none, word 5 % 2 ^ 57, word 4 % 2 ^ 57, some q, none, 0, none⟩ }))) ∧
    (ready → kind = 3 →
      (waitRecOk l = false → exec (.waitRecord q) s = .next (t.queueError q 1)) ∧
      (waitRecOk l = true → exec (.waitRecord q) s = .next (t.setQueue q (fun y => { y with work := .waiting (word 1 % 2 ^ 57) (word 2) })))) ∧
    (ready → kind = 4 →
      (signalRecOk l = false → exec (.signalRecord q) s = .next (t.queueError q 1)) ∧
      (signalRecOk l = true → exec (.signalRecord q) s = .next (t.setQueue q (fun y =>
        { y with work := .signalling (word 1 % 2 ^ 57) (word 2) (word 3 % 256 == 1) })))) ∧
    (ready → kind = 5 →
      ((l.headD 0).toNat ≠ 5 ∨ (l.drop 1).any (fun b => b != 0) = true → exec (.nopRecord q) s = .next (t.queueError q 1)) ∧
      ((l.headD 0).toNat = 5 → (l.drop 1).any (fun b => b != 0) = false → exec (.nopRecord q) s = .next (done t))) ∧
    (∀ va th, x.work = .waiting va th → x.fault = none →
      (∀ e, s.queueSem q va .load = .error e → exec (.waitSatisfied q) s = .next (s.queueFaulted q 10 e x.work)) ∧
      (∀ pa, s.queueSem q va .load = .ok pa →
        (ofBytes (s.home pa 8) < th → exec (.waitSatisfied q) s = .next s) ∧
        (th ≤ ofBytes (s.home pa 8) → exec (.waitSatisfied q) s = .next (done t)))) ∧
    (∀ va v set, x.work = .signalling va v set → x.fault = none →
      let quiet := (∀ g ∈ s.grids, g.2.queue ≠ some q) ∧ (∀ y ∈ s.streams, y.2.queue = some q → ∃ k, y.2.st = .stopped k)
      (¬ quiet → exec (.signalPerform q) s = .next s) ∧
      (quiet → ∀ pa, s.queueSem q va (if set then .store else .atomic) = .ok pa →
        let u := s.releaseAll x.owner
        exec (.signalPerform q) s = .next (done (u.tellHost x.owner pa (toBytes (if set then v else ofBytes (u.home pa 8) + v) 8)))))

/-- Doorbells and the records of the queues.
The model's choice, where the manual leaves it open: the usable ring sizes and the order of queue errors (log entry 102) and which die
reads a descriptor and what STOP and RESUME do with work at HEAD (log entry 103). -/
def Obligations.QueuesAreReadInOrder : Prop :=
  Sys2Proof.Claim.QueuesAreRung ∧ Sys2Proof.Claim.QueueRecordsAreTaken

/-- DISPATCH_STEP, GRID_PROMOTION, FREEZE, THAW and DROP (R457 to R460, R495): a step with nothing eligible changes nothing; a waiting
workgroup goes to the core that the order of R459 finds, once its die is reached (R466), its warps start at the entry with their lanes, and a grid wholly admitted
leaves the list. -/
def Sys2Proof.Claim.GridsAreDispatched : Prop :=
  (∀ (s : State) (d gid core b : Nat) (g : Grid), d < 4 → s.dies.length = 4 → (∀ n, s.awayOf n = 0 ∧ (s.ctx n).reload = []) →
    let next := (s.pendingOrder d).find? (fun p => s.eligible p.2)
    (next = none → exec (.dispatchStep d) s = .next s) ∧
    (next = some (gid, g) → tfind s.grids gid = some g → g.cluster = 0 → g.anyDie = false → g.die < 4 → g.total = g.next + 1 →
      g.owner = d →
      (s.findCore g (dieCoreList g.die) = none ∨ s.reaches d g.die = false → exec (.dispatchStep d) s = .next s) ∧
      (s.findCore g (dieCoreList g.die) = some (core, b) → s.reaches d g.die = true → g.bind = none →
        ∃ t h y, exec (.dispatchStep d) s = .next t ∧ tfind t.groups s.uid = some h ∧ h.grid = gid ∧ h.core = core ∧ h.lin = g.next ∧
          h.st = .running ∧ h.warps = (List.range (ceilDiv g.wgsize g.w)).map (fun i => s.uid + 1 + i) ∧
          tfind t.grids gid = some y ∧ y.next = g.total ∧ (∀ k ∈ (t.die d).pending, k ≠ gid) ∧ t.mem = s.mem ∧
          ∀ i < ceilDiv g.wgsize g.w, ∃ x, tfind t.warps (s.uid + 1 + i) = some x ∧ x.idx = i ∧ x.core = core ∧ x.slot = (b + i) % 4 ∧
            (x.split 0).pc = g.entry ∧ (x.split 0).mask = fullMask (min g.w (g.wgsize - i * g.w)) ∧ x.qreg 16 = g.karg))) ∧
  (∀ (s : State) (gid : Nat) (g : Grid), tfind s.grids gid = some g →
    let due := (s.die g.owner).pending.contains gid = true ∧ g.since + (s.die g.owner).promo ≤ (s.die g.owner).time
    (¬ due → exec (.gridPromotion gid) s = .next s) ∧
    (due → exec (.gridPromotion gid) s = .next { s with grids := tput s.grids gid { g with prio := 7 } })) ∧
  (∀ (s : State) (d n : Nat) (g : Grid), (s.die d).gsel.toNat = n →
    ((s.die d).pending.contains n = false →
      exec (.freeze d) s = .next s ∧ exec (.thaw d) s = .next s ∧ exec (.drop d) s = .next s) ∧
    ((s.die d).pending.contains n = true → tfind s.grids n = some g →
      exec (.freeze d) s = .next { s with grids := tput s.grids n { g with frozen := true } } ∧
      exec (.thaw d) s = .next { s with grids := tput s.grids n { g with frozen := false } } ∧
      (g.frozen = false → exec (.drop d) s = .next s) ∧
      (g.frozen = true → exec (.drop d) s = .next (({ s with grids := tput s.grids n { g with total := g.next } }).setDie g.owner (fun x =>
        { x with pending := x.pending.filter (fun i => i != n) })))))

/-- WORKGROUP_RETIRE and GRID_COMPLETE (R59, R461): a workgroup whose warps have exited, with no child grid left and its stream stopped,
leaves with its private memory; a grid whose workgroups have all retired adds 1 to its DONE semaphore after a system-scope release,
tells its parent, and is gone. -/
def Sys2Proof.Claim.WorkgroupsAndGridsEnd : Prop :=
  (∀ (s : State) (n : Nat) (g : Group) (gr : Grid), tfind s.groups n = some g → tfind s.grids g.grid = some gr →
    let out := fun (a : Nat) => a < g.priv ∨ g.priv + gr.warpsPer * gr.w * gr.privSize ≤ a
    (g.st ≠ .exited ∨ g.children ≠ 0 → exec (.workgroupRetire n) s = .next s) ∧
    (s.mayRetire g gr = false → exec (.workgroupRetire n) s = .next s) ∧
    (s.mayRetire g gr = true →
      ∃ t y, exec (.workgroupRetire n) s = .next t ∧ tfind t.groups n = none ∧ (∀ w ∈ g.warps, tfind t.warps w = none) ∧
        tfind t.grids g.grid = some y ∧ y.retired = gr.retired + 1 ∧ t.mem = s.mem ∧ (∀ c ∈ t.privMem, c ∈ s.privMem ∧ out c.1) ∧
        (∀ c ∈ s.privMem, out c.1 → c ∈ t.privMem))) ∧
  (∀ (s : State) (gid : Nat) (g : Grid), tfind s.grids gid = some g →
    let done := g.total ≤ g.next ∧ g.total ≤ g.retired ∧ ∀ x ∈ s.groups, x.2.grid ≠ gid
    (¬ done → exec (.gridComplete gid) s = .next s) ∧
    (done → g.owner < 4 → s.dies.length = 4 →
      let s1 := s.releaseAll g.owner
      ∃ t, exec (.gridComplete gid) s = .next t ∧ tfind t.grids gid = none ∧ (∀ k ∈ (t.die g.owner).pending, k ≠ gid) ∧
        (g.doneSem = 0 → t.mem = s1.mem) ∧
        (∀ p x, g.parent = some p → tfind s.groups p = some x → ∃ y, tfind t.groups p = some y ∧ y.children = x.children - 1) ∧
        (∀ tr, g.doneSem ≠ 0 → s1.translate g.owner g.ctx g.doneSem .atomic = .ok tr → tr.window = none →
          (∀ p ∈ s.posted, p.id < s.uid) → (∀ k < 8, s.installed (tr.pa + k) = true) →
          t.home tr.pa 8 = toBytes (ofBytes (s1.home tr.pa 8) + 1) 8)))

/-- Dispatch of workgroups, and the ends of workgroups and grids.
The model's choice, where the manual leaves it open: the priority of a child grid (log entry 88), which die makes a grid eligible and
when a member of a cluster retires (log entry 98), the end of a dropped grid (log entry 99) and that the dies are ordered once for a
dispatch step (log entry 139). -/
def Obligations.GridsAreDispatchedAndEnd : Prop :=
  Sys2Proof.Claim.GridsAreDispatched ∧ Sys2Proof.Claim.WorkgroupsAndGridsEnd

/-! ### Die time and die links -/

namespace Sys2Proof.Machine

/-- After a change of state MMA_FMT keeps what it had come to report (R34), and the host is told of a new SERVICE value (R449). -/
def State.told (s t : State) : State :=
  let t := { t with fmtTop := t.fmtTop ||| t.fmtNow }
  if t.service = s.service then t else t.note 4 2 (toBytes t.service 4)

end Sys2Proof.Machine

/-- The die-time discipline (R127, R128, R467, R468): an exchange starts each millisecond; its reply gives the offset half the difference
of the two trips, and counts as good within 40 ns; a late or lost one is a miss. A die locks when every counted peer has eight good
ones in a row, and unlocks on one outside the bound, on a third miss in a row, or when its EN is cleared. Two locked dies stay within 40 ns as time goes on, and time
passes no moment at which something that the die holds is due (R130, R132). -/
def Sys2Proof.Claim.DiesKeepTime : Prop :=
  ∀ (s : State) (d p : Nat), d < 4 → p < 4 → d ≠ p → s.dies.length = 4 →
    let x := s.die d
    let q := x.peer p
    let up := (s.link d p).up = true ∧ (s.link p d).up = true
    -- an exchange
    (x.counts p = false ∨ q.t1 ≠ none ∨ (∃ t, q.last = some t ∧ x.time < t + 1000000) → exec (.syncExchange d p) s = .next s) ∧
    (x.counts p = true → q.t1 = none → (∀ t, q.last = some t → t + 1000000 ≤ x.time) →
      exec (.syncExchange d p) s = .next (s.setPeer d p (fun q => { q with t1 := some x.time, t23 := none, last := some x.time }))) ∧
    (q.t1 = none ∨ q.t23 ≠ none ∨ ¬ up → exec (.syncReceive d p) s = .next s) ∧
    (q.t1 ≠ none → q.t23 = none → up → exec (.syncReceive d p) s =
      .next (s.setPeer d p (fun q => { q with t23 := some ((s.die p).time, (s.die p).time) }))) ∧
    -- its reply
    (∀ t1 t2 t3, q.t1 = some t1 → q.t23 = some (t2, t3) →
      let off : Int := (((t2 : Int) - t1) - ((x.time : Int) - t3)).tdiv 2
      let near := off.natAbs ≤ 40
      (t1 + 100000 < x.time ∨ ¬ up → exec (.syncReply d p) s = .next s) ∧
      (x.time ≤ t1 + 100000 → up → ∃ t, exec (.syncReply d p) s = .next t ∧ t.warps = s.warps ∧ t.mem = s.mem ∧
        let y := t.die d
        (y.peer p).offset = off ∧ (y.peer p).good = (if near then min 8 (q.good + 1) else 0) ∧ (y.peer p).miss = 0 ∧
        (y.peer p).ok = true ∧ (y.peer p).t1 = none ∧ -100000 ≤ y.rate ∧ y.rate ≤ 100000 ∧ (y.tstate ≠ .locked → y.rate = 0) ∧
        (x.tstate = .locked → ¬ near → x.counts p = true → y.tstate = .acquire ∧ y.unlocks = (x.unlocks + 1) % 2 ^ 32) ∧
        (x.tstate = .locked → near → y.tstate = .locked) ∧ (x.tstate = .free → x.counts p = true → y.tstate ≠ .free) ∧
        (x.tstate ≠ .locked → y.tstate = .locked → (y.counted ≠ [] ∧ ∀ r ∈ y.counted, 8 ≤ (y.peer r).good) ∧
          ((s.die p).tstate = .locked → x.time ≤ (s.die p).time + 40 ∧ (s.die p).time ≤ x.time + 40)))) ∧
    -- time goes on
    (∀ ns, x.time + ns < 2 ^ 64 → let y := (s.elapse d ns).die d
      x.time ≤ y.time ∧ y.time ≤ x.time + ns ∧ (∀ t ∈ s.dueOn d, x.time ≤ t → y.time ≤ t) ∧
        (x.tstate = .locked → (s.die p).tstate = .locked → x.time ≤ (s.die p).time + 40 → (s.die p).time ≤ x.time + 40 →
          y.time ≤ (s.die p).time + 40 ∧ (s.die p).time ≤ y.time + 40)) ∧
    -- a miss
    (q.t1 = none → exec (.syncReply d p) s = .next s ∧ exec (.exchangeMissed d p) s = .next s) ∧
    (∀ t1, q.t1 = some t1 →
      (x.time ≤ t1 + 100000 → up → exec (.exchangeMissed d p) s = .next s) ∧
      (t1 + 100000 < x.time ∨ ¬ up → ∃ t, exec (.exchangeMissed d p) s = .next t ∧
        let y := t.die d
        (y.peer p).good = 0 ∧ (y.peer p).miss = q.miss + 1 ∧ (y.peer p).ok = false ∧ y.missed = (x.missed + 1) % 2 ^ 32 ∧
        (x.tstate = .locked → x.counts p = true → 2 ≤ q.miss → y.tstate = .acquire ∧ y.unlocks = (x.unlocks + 1) % 2 ^ 32) ∧
        (q.miss < 2 → y.tstate = x.tstate))) ∧
    -- EN
    (∀ v : BitVec 64, ∃ t, exec (.dtimeEnWrite d v) s = .next t ∧ (t.die d).en = v.getLsbD 0 ∧
      (v.getLsbD 0 = x.en → t = s) ∧ (v.getLsbD 0 = false → x.en = true → x.tstate = .locked → (t.die d).tstate = .acquire) ∧
      (v.getLsbD 0 = true → (t.die d).tstate = x.tstate)) ∧
    (¬ up ∨ q.en = (s.die p).en → exec (.linkControlFlit d p) s = .next s) ∧
    (up → q.en ≠ (s.die p).en → ∃ t, exec (.linkControlFlit d p) s = .next t ∧
      ((t.die d).peer p).en = (s.die p).en ∧ ((t.die d).peer p).good = 0 ∧ ((t.die d).peer p).miss = 0)

/-- Die links (R407, R463 to R466): COMMIT latches the entries that NENT counts, and the next frame boundary installs them, or sets ERR
and keeps the old schedule where an entry is bad, two claim a slot, or they claim more than 448. A failing flit is sent again; the
second to fourth within a millisecond retrain the link, a fifth loses it and the host is told. -/
def Sys2Proof.Claim.LinksCarrySchedules : Prop :=
  ∀ (s : State) (d p : Nat), d < 4 → p < 4 → d ≠ p → s.dies.length = 4 →
    let l := s.link d p
    let entries := (List.range l.nent).map (fun i => if i < 64 then tget 0 l.entries i else 0)
    let now := (s.die d).time
    let fails := if l.fails = 0 ∨ l.failAt + 1000000 < now then 1 else l.fails + 1
    exec (.commit d p) s = .next (s.setLink d p (fun l => { l with commit := true, latched := some (entries, l.owner) })) ∧
    (l.latched = none → exec (.scheduleInstall d p) s = .next s) ∧
    (∀ es o, l.latched = some (es, o) → ∃ t, exec (.scheduleInstall d p) s = .next t ∧ (t.link d p).commit = false ∧
      (t.link d p).latched = none ∧ (t.link d p).entries = l.entries ∧
      (scheduleOk d p es = true → (t.link d p).schedule = (es, o) ∧ (t.link d p).err = l.err) ∧
      (scheduleOk d p es = false → (t.link d p).schedule = l.schedule ∧ (t.link d p).err = true)) ∧
    (∀ es : List (BitVec 64), scheduleOk d p es = true ↔
      es.length ≤ 64 ∧ (∀ e ∈ es, entryOk d p e = true) ∧ es.foldl (fun n e => n + entCount e) 0 ≤ 448 ∧
        es.Pairwise (fun a b => entFirst a + entCount a ≤ entFirst b ∨ entFirst b + entCount b ≤ entFirst a)) ∧
    (l.up = false → exec (.flitReplay d p) s = .next s) ∧
    (l.up = true → ∃ t, exec (.flitReplay d p) s = .next t ∧ (t.link d p).fails = fails ∧
      (t.link d p).retrain = (if 2 ≤ fails ∧ fails ≤ 4 then min 255 (l.retrain + 1) else l.retrain) ∧
      (fails < 5 → (t.link d p).up = true ∧ t.sent = s.sent) ∧
      (5 ≤ fails → (t.link d p).up = false ∧ (t.link p d).up = false ∧
        t.sent = s.sent ++ [⟨0, 0x20, false, 0, 6 + 256 * d, toBytes (linkNumber d p) 4, 4⟩]))

/-- Die time and the links between dies.
The model's choice, where the manual leaves it open: the stages of an exchange (log entry 76), how time passes within the bounds of
R127 (log entry 77), which flit failure retrains a link (log entry 78) and what waits for a lost link (log entry 79). -/
def Obligations.DiesKeepTimeOverLinks : Prop :=
  Sys2Proof.Claim.DiesKeepTime ∧ Sys2Proof.Claim.LinksCarrySchedules

/-! ### The declension and migration engines -/

namespace Sys2Proof.Machine

/-- An action ends abandoned (R199, R488). -/
def State.gaveUp (t s : State) (a : Act) : Prop :=
  t.acts = s.acts.filter (fun x => x.id != a.id) ∧ (t.die a.die).abandon = ((s.die a.die).abandon + 1) % 2 ^ 64 ∧ t.warps = s.warps

end Sys2Proof.Machine

/-- DECLENSION_INTERVAL and RECORD_SWEEP (R192 to R194, R488): each interval asks for a sweep of every listed record, or is skipped while
one of the interval before is still to run; the sweeps of one interval run in the list's order; a sweep halves each page's MASS, ages it, and chooses a demotion or a move of the tier;
pages that are pinned, sinks, the last, or under an action are exempt. -/
def Sys2Proof.Claim.SweepsChooseActions : Prop :=
  (∀ (s : State) (d ctx va recd : Nat), d < 4 → s.dies.length = 4 →
    let c := s.ctx ctx
    let x := s.die d
    let due := c.dclnint ≠ 0 ∧ tget 0 x.sweptAt ctx + c.dclnint ≤ x.time
    let swept := s.setDie d (fun x => { x with sweptAt := tput x.sweptAt ctx x.time })
    let waits := ∃ w ∈ x.sweeps, w.ctx = ctx ∧ w.pass ≠ none
    (¬ due → exec (.declensionInterval d ctx) s = .next s) ∧
    (due → waits → exec (.declensionInterval d ctx) s =
      .next (swept.setDie d (fun x => { x with skipint := (x.skipint + 1) % 2 ^ 64 }))) ∧
    (due → ¬ waits → s.recordList d ctx = [] → exec (.declensionInterval d ctx) s = .next { swept with uid := s.uid + 1 }) ∧
    (due → ¬ waits → s.recordList d ctx = [(va, none)] → exec (.declensionInterval d ctx) s =
      .next (({ swept with uid := s.uid + 1 }).setDie d (fun x => { x with engskip := (x.engskip + 1) % 2 ^ 64, englast := va }))) ∧
    (due → ¬ waits → s.recordList d ctx = [(va, some recd)] → (∀ w ∈ x.sweeps, w.ctx ≠ ctx ∨ w.recd ≠ recd) →
      exec (.declensionInterval d ctx) s = .next (({ swept with uid := s.uid + 2 }).setDie d (fun x =>
        { x with sweeps := x.sweeps ++ [(⟨s.uid + 1, ctx, recd, va, [], false, some s.uid⟩ : Sweep)] })))) ∧
  (∀ (s : State) (n d : Nat) (w : Sweep), s.dies.length = 4 →
    ((∀ e < 4, ∀ y ∈ (s.die e).sweeps, y.id ≠ n) → exec (.recordSweep n) s = .next s) ∧
    (d < 4 → (s.die d).sweeps.find? (fun y => y.id == n) = some w → (∀ e < d, ∀ y ∈ (s.die e).sweeps, y.id ≠ n) →
      let waits := w.pass ≠ none ∧ ∃ y ∈ (s.die d).sweeps, y.ctx = w.ctx ∧ y.pass = w.pass ∧ y.entry < w.entry
      (waits → exec (.recordSweep n) s = .next s) ∧
      (¬ waits → ∃ t, exec (.recordSweep n) s = .next t ∧ (∀ y ∈ (t.die d).sweeps, y.id ≠ n) ∧ t.warps = s.warps ∧
        (w.sems = [] → (s.applyAll d).engineRec d w.ctx w.recd = none →
          t.mem = s.mem ∧ t.acts = s.acts ∧ (t.die d).engskip = ((s.die d).engskip + 1) % 2 ^ 64)))) ∧
  (∀ (r : SentRec) (boundary evac : Bool) (i : Nat) (w : Slot),
    let x := (sweepSlot r boundary evac i w).1
    let k := (sweepSlot r boundary evac i w).2
    let exempt := w.pinned = true ∨ i < r.sinks ∨ i + 1 = r.pages ∨ w.moving = true ∨ w.declining = true
    x.mass = w.mass / 2 ∧ x.age = min (w.age + 1) 255 ∧ x.frame = w.frame ∧ x.tier = w.tier ∧ x.stage = w.stage ∧ x.sgen = w.sgen ∧
    x.pinned = w.pinned ∧ x.present = w.present ∧ (w.tier = false → x.selcnt = 0) ∧
    (k = some .demote → w.tier = false ∧ ¬ exempt ∧ w.nonfinite = false ∧ r.den = true ∧ w.stage < 3 ∧
      x.mass < r.thr.getD w.stage 0 ∧ r.age.getD w.stage 0 ≤ x.age ∧ x.declining = true) ∧
    (k = some .far → w.tier = false ∧ ¬ exempt ∧ w.nonfinite = false ∧ r.ten = true ∧ w.stage = 3 ∧ x.mass < r.cold ∧ r.cage ≤ x.age ∧
      x.moving = true) ∧
    (k = some .near → w.tier = true ∧ ¬ exempt ∧ r.ten = true ∧ 0 < r.hot ∧ r.hot ≤ w.selcnt ∧ x.moving = true ∧ x.selcnt = 0) ∧
    (k = some .evac → w.tier = true ∧ evac = true ∧ w.moving = false ∧ w.declining = false ∧ x.moving = true) ∧
    (w.tier = false → ¬ exempt → w.nonfinite = false → r.den = true → w.stage < 3 → x.mass < r.thr.getD w.stage 0 →
      r.age.getD w.stage 0 ≤ x.age → k = some .demote) ∧
    (w.tier = true → evac = true → w.moving = false → w.declining = false → k = some .evac))

/-- FRAME_SWAP, READER_EPOCH_ADVANCE and OLD_FRAME_FREE (R195 to R202, R424, R425): an action whose record, page or frame is no longer as
it was, or that finds no free frame, ends abandoned; a move copies the frame and swaps the slot word in one atomic, under the next
generation. Each die takes an epoch after the swap and ends it when its readers of before have ended; then the old frame is freed. -/
def Sys2Proof.Claim.FramesAreSwapped : Prop :=
  (∀ (s : State) (n : Nat) (a : Act), a.die < 4 → s.dies.length = 4 →
    ((∀ x ∈ s.acts, x.id = n → x.swapped ≠ none) → exec (.frameSwap n) s = .next s) ∧
    (s.acts.find? (fun a => a.id == n && a.swapped.isNone) = some a →
      let u := s.applyAll a.die
      (u.engineRec a.die a.ctx a.recd = none → ∃ t, exec (.frameSwap n) s = .next t ∧ t.gaveUp s a ∧ t.mem = s.mem ∧
        (t.die a.die).engskip = ((s.die a.die).engskip + 1) % 2 ^ 64) ∧
      (∀ b base lg l, u.engineRec a.die a.ctx a.recd = some b →
        u.homeSlot a.die a.ctx a.recd (SentRec.read b) a.slot = .ok (base, lg, l) →
        let r := SentRec.read b
        let w := Slot.read l
        let g := frameGranules r.elems w.stage
        let far := decide (a.kind = .far ∨ a.kind = .evac)
        (slotValid l = false → ∃ t, exec (.frameSwap n) s = .next t ∧ t.gaveUp s a ∧ t.mem = s.mem) ∧
        (w.present = false ∨ w.sgen ≠ a.gen → ∃ t, exec (.frameSwap n) s = .next t ∧ t.gaveUp s a ∧ t.mem = s.mem) ∧
        (slotValid l = true → w.present = true → w.sgen = a.gen → a.kind ≠ .demote → ∀ old s1 f new p x,
          (s.ctx a.ctx).frame w.tier w.frame g = some old → u.newFrame a w g = (s1, some f) → (s.ctx a.ctx).frame far f g = some new →
          slotAddr (s.ctx a.ctx) base a.slot = .ok p → swapWord a w f far w.stage = some x → (∀ k < 16, s.installed (p + k) = true) →
          (∀ y ∈ s.posted, y.id < s.uid) →
          ∃ t, exec (.frameSwap n) s = .next t ∧ t.home p 16 = x.bytes ∧ t.warps = s.warps ∧
            ∀ y ∈ t.acts, y.id = n → y.swapped = some (w.frame, w.tier, g))))) ∧
  (∀ (a : Act) (w : Slot) (f stage : Nat) (tier : Bool),
    let flag := if a.kind = .demote then w.declining else w.moving
    let may := w.present = true ∧ w.sgen = a.gen ∧ flag = true ∧ (w.pinned = false ∨ a.kind = .evac)
    (¬ may → swapWord a w f tier stage = none) ∧
    (may → ∃ x, swapWord a w f tier stage = some x ∧ x.frame = f ∧ x.tier = tier ∧ x.stage = stage ∧ x.sgen = (a.gen + 1) % 2 ^ 16 ∧
      (if a.kind = .demote then x.declining else x.moving) = false ∧ x.pinned = w.pinned ∧ x.mass = w.mass ∧ x.selcnt = w.selcnt ∧
      x.age = (if stage = w.stage then w.age else 0))) ∧
  (∀ (s : State) (d : Nat), d < 4 → s.dies.length = 4 →
    let x := s.die d
    let new := (s.acts.filter (fun a => a.swapped.isSome && !a.epochs.contains d)).map (fun a => a.id)
    (x.epochWait = none → new = [] → exec (.readerEpochAdvance d) s = .next s) ∧
    (x.epochWait = none → new ≠ [] → exec (.readerEpochAdvance d) s =
      .next ((s.applyAll d).setDie d (fun x => { x with re := x.re + 1, epochWait := some new }))) ∧
    (∀ l, x.epochWait = some l →
      let readers := if x.re % 2 = 1 then x.c0 else x.c1
      (readers ≠ 0 → exec (.readerEpochAdvance d) s = .next s) ∧
      (readers = 0 → exec (.readerEpochAdvance d) s = .next { (s.setDie d (fun x => { x with epochWait := none })) with
        acts := s.acts.map (fun (a : Act) => if l.contains a.id then { a with epochs := d :: a.epochs } else a) }))) ∧
  (∀ (s : State) (n : Nat) (a : Act), s.acts.find? (fun a => a.id == n) = some a → a.die < 4 → s.dies.length = 4 →
    let drained := ∀ d < 4, a.epochs.contains d = true
    (a.swapped = none ∨ ¬ drained → exec (.oldFrameFree n) s = .next s) ∧
    (drained → ∀ f tier g, a.swapped = some (f, tier, g) → ∃ t, exec (.oldFrameFree n) s = .next t ∧
      t.acts = s.acts.filter (fun x => x.id != n) ∧ (t.die a.die).freed = ((s.die a.die).freed + 1) % 2 ^ 64 ∧
      (∀ row, tier = false → s.classRow a.ctx g = some row → (∀ y ∈ s.posted, y.id < s.uid) →
        (∀ k < 16, s.installed (row + 16 + k) = true) → ofBytes (t.home (row + 16) 8) = f % 2 ^ 64)))

/-- Declension sweeps and frame swaps.
The model's choice, where the manual leaves it open: the steps of a sweep and of a swap (log entry 57), an entry of a record list with
a reserved field set (log entry 58), a class without a row (log entry 59) and an action whose record or slot word is invalid at its
swap (log entry 153). -/
def Obligations.SweepsSwapFrames : Prop :=
  Sys2Proof.Claim.SweepsChooseActions ∧ Sys2Proof.Claim.FramesAreSwapped

/-! ### Cores, expanders, channels and the register rows -/

/-- CLUSTER_RELEASE, MATRIX_SELF_TEST, DRAIN, CORE_EMPTY, SELF_TEST_DONE, CORE_GATE and DIE_POWER_LIMIT (R475, R477, R478, R490, R491): a
released cluster accepts work; cores are tested once every cluster is released (R34); a draining core accepts none until, empty, the lowest free spare of its cluster has passed its tests and
serves it; with no spare the replacement has failed. SERVICE changes are told to the host. -/
def Sys2Proof.Claim.CoresAreServiced : Prop :=
  ∀ (s : State) (d : Nat), d < 4 → s.dies.length = 4 →
    let x := s.die d
    (∀ cl, s.booted = false ∨ 2 ≤ cl → exec (.clusterRelease d cl) s = .next s) ∧
    (∀ cl < 2, s.booted = true → ∃ t, exec (.clusterRelease d cl) s = .next t ∧ (t.die d).clusters = bvPut x.clusters cl true ∧
      (∀ i < 384, i / 192 = cl → t.inService (384 * d + i) = !x.outCores.contains i) ∧
      t.clockMhz = (if (List.range 4).all (fun e => (t.die e).clusters == 3) then 3300 else s.clockMhz) ∧ t.warps = s.warps) ∧
    (∀ c, 1536 ≤ c ∨ (∃ e < 4, (s.die e).clusters ≠ 3) → exec (.matrixSelfTest c 0) s = .next s ∧ exec (.matrixSelfTest c 1) s = .next s) ∧
    (∀ c < 1536, (∀ e < 4, (s.die e).clusters = 3) → ∃ t u, exec (.matrixSelfTest c 0) s = .next t ∧ c ∈ t.fp6 ∧ t.fp4 = s.fp4 ∧ (∀ e, e ∈ t.fp6 ↔ e ∈ s.fp6 ∨ e = c) ∧
      exec (.matrixSelfTest c 1) s = .next u ∧ u.fp6 = s.fp6 ∧ (∀ e, e ∈ u.fp4 ↔ e ∈ s.fp4 ∨ e = c)) ∧
    (∀ v : BitVec 64, let n := v.toNat % 256
      let cl := v.toNat / 256 % 2
      (x.coresvc.state = 1 ∨ x.coresvc.state = 2 ∨ 192 ≤ n → exec (.drain d v) s = .next s) ∧
      (x.coresvc.state ≠ 1 → x.coresvc.state ≠ 2 → n < 192 → exec (.drain d v) s = .next (s.told (s.setDie d (fun x => { x with
        coresvc := ⟨n, cl, 1, some (192 * cl + n)⟩
        outCores := ladd x.outCores (192 * cl + n) }))))) ∧
    (x.coresvc.active = none → ∀ pass, exec (.coreEmpty d) s = .next s ∧ exec (.selfTestDone d pass) s = .next s) ∧
    (∀ i, x.coresvc.active = some i →
      let cl := i / 192
      let left := if cl = 0 then x.spares.1 else x.spares.2
      let failed := s.setDie d (fun x => { x with coresvc := { x.coresvc with state := 4, active := none } })
      (x.coresvc.state ≠ 1 ∨ s.coreEmpty (384 * d + i) = false → exec (.coreEmpty d) s = .next s) ∧
      (x.coresvc.state = 1 → s.coreEmpty (384 * d + i) = true →
        (left = 0 → exec (.coreEmpty d) s = .next (s.told failed)) ∧
        (left ≠ 0 → exec (.coreEmpty d) s = .next (s.setDie d (fun x => { x with coresvc := { x.coresvc with state := 2 } })))) ∧
      (x.coresvc.state ≠ 2 → ∀ pass, exec (.selfTestDone d pass) s = .next s) ∧
      (x.coresvc.state = 2 → ∃ t u, exec (.selfTestDone d true) s = .next t ∧ (t.die d).coresvc.state = 3 ∧
        (t.die d).coresvc.active = none ∧ (i ∉ (t.die d).outCores) ∧ tfind (t.die d).phys i = some (196 - left) ∧
        (384 * d + i ∈ t.fp6) ∧ (384 * d + i ∈ t.fp4) ∧
        (if cl = 0 then (t.die d).spares.1 else (t.die d).spares.2) = left - 1 ∧
        exec (.selfTestDone d false) s = .next u ∧ (if cl = 0 then (u.die d).spares.1 else (u.die d).spares.2) = left - 1 ∧
        (u.die d).coresvc.state = (if left - 1 = 0 then 4 else 2))) ∧
    (∀ i < 384,
      let idle := s.coreEmpty (384 * d + i) = true ∧ tget 0 x.idleFrom i + 1000 * x.gate ≤ x.time
      (¬ idle → exec (.coreGate (384 * d + i)) s = .next s) ∧
      (idle → exec (.coreGate (384 * d + i)) s = .next (s.setDie d (fun x => { x with gated := ladd x.gated i })))) ∧
    (∀ watts, exec (.diePowerLimit d watts) s = .next (s.setDie d (fun x => { x with pwr := min watts x.plim })))

/-- CXL_VIRAL, ENUMERATE, ONLINE, EVACUATE and OFFLINE (R469 to R471): a port that was asked enumerates its expander of 512 GB (R1) into a free range of
addresses, or logs the failure; ONLINE needs an enumerated port, EVACUATE one in service; OFFLINE and VIRAL take it out of service, and
its addresses then name no memory. -/
def Sys2Proof.Claim.ExpandersComeAndGo : Prop :=
  ∀ (s : State) (e base size lanes : Nat), e < 8 →
    let p := s.port e
    let ok := 0 < lanes ∧ lanes ≤ 16 ∧ size = 512 ∧ base % 2 ^ 30 = 0 ∧ base + size * 1000000000 ≤ 2 ^ 52 ∧
      s.rangeFree e base size = true
    let online := s.setPort e (fun p => { p with inserv := true })
    let out := s.setPort e (fun p => { p with inserv := false, evac := false })
    (p.busy = false → exec (.enumerate e base size lanes) s = .next s) ∧
    (p.busy = true → ok → exec (.enumerate e base size lanes) s = .next (s.setPort e (fun p => { p with
      up := true
      enum := true
      viral := false
      busy := false
      lanes := lanes
      base := base
      size := size }))) ∧
    (p.busy = true → ¬ ok → exec (.enumerate e base size lanes) s = .next ((s.setPort e (fun p => { p with
      up := decide (0 < lanes)
      enum := false
      busy := false
      lanes := min lanes 16 })).logError (2 + e / 4) 0x0A true false false 0 base 0 0 0)) ∧
    (exec (.online e) s = .next (if p.enum then s.told online else s)) ∧
    (exec (.evacuate e) s = .next (if p.inserv then s.told (s.setPort e (fun p => { p with evac := true })) else s)) ∧
    (exec (.offline e) s = .next (s.told out)) ∧
    (∃ t, exec (.cxlViral e) s = .next t ∧ (t.port e).viral = true ∧ (t.port e).inserv = false ∧
      (∀ k, k ≠ e → t.port k = s.port k) ∧ t.mem = s.mem) ∧
    (∀ pa, s.regionOf pa = none → p.base ≤ pa → pa < p.base + p.size * 1000000000 →
      (∀ k, k ≠ e → (s.port k).inserv = true → ¬ ((s.port k).base ≤ pa ∧ pa < (s.port k).base + (s.port k).size * 1000000000)) →
      out.installed pa = false ∧ (p.enum = true → online.installed pa = true))

/-- Cores out of service, drained and tested; memory expanders.
The model's choice, where the manual leaves it open: a second ENUMERATE and a range that overlaps (log entry 80), that self-refresh,
gating and the power limiter change registers only (log entry 82), the numbers of the matrix paths and of the spare cores (log entry
83), a DRAIN of a core that does not exist (log entry 84), SERVICE.LPDDR (log entry 135) and %cyc of a spare core (log entry 147). -/
def Obligations.CoresAndExpandersAreServiced : Prop :=
  Sys2Proof.Claim.CoresAreServiced ∧ Sys2Proof.Claim.ExpandersComeAndGo

/-- HBM channels (R416, R477, R484, R485): self-refresh of a free channel; TRMODE; a test finds the lanes that fail at the live delays, in
direction DIR at CODE unless LIVE is set, a lane that REPAIR names being carried by a spare; APPLY reads the delay table. CHANNEL_RELEASE
gives the channel back once its operation has run, and the write that started it takes effect: FAIL, REPAIR, or TRMODE with the delays
and the full rate, or TERR where an entry is bad. -/
def Sys2Proof.Claim.ChannelsAreTrained : Prop :=
  ∀ (s : State) (stack ch : Nat) (v fail : BitVec 64), stack < 8 → ch < 32 →
    let k := 32 * stack + ch
    let c := s.chan k
    let table := (List.range 64).map (fun i => ofBytes (s.home (c.tbl + 4 * i) 4))
    let bad := ∃ e ∈ table, e.testBit 7 = true ∨ e / 2 ^ 15 ≠ 0
    let wire := fun (l : Nat) => if c.repair.getLsbD 7 = true ∧ c.repair.toNat % 128 = l then 64
      else if c.repair.getLsbD 15 = true ∧ c.repair.toNat / 256 % 128 = l then 65 else l
    let live := fun (t : Table Nat) (l : Nat) => ((tfind t l).map (fun x => x - 1)).getD 32
    let code := fun (dir l : Nat) => if v.getLsbD 1 = false ∧ c.trial.toNat / 128 % 2 = dir then c.trial.toNat % 128
      else live (if dir = 0 then c.rdly else c.wdly) l
    let passes := fun (dir l : Nat) => Config.lanePasses k (wire l) dir (code dir l) c.rate
    let found := ∀ l < 64, fail.getLsbD l = !(passes 0 l && passes 1 l)
    (c.work ≠ none → exec (.hbmSelfRefresh stack ch) s = .next s) ∧
    (c.work = none → exec (.hbmSelfRefresh stack ch) s = .next (s.setChan k (fun c => { c with refresh := true }))) ∧
    (∃ t, exec (.trmodeWrite stack ch v) s = .next t ∧ (t.chan k).trmode = v.getLsbD 0 ∧
      (t.chan k).terr = (c.terr && !v.getLsbD 2) ∧ (t.chan k).rate = c.rate ∧ t.mem = s.mem) ∧
    (∀ w, c.work = some w →
      (w.kind ≠ 0 ∨ w.ran = true ∨ w.value ≠ v ∨ ¬ found → exec (.test stack ch v fail) s = .next s) ∧
      (w.kind = 0 → w.ran = false → w.value = v → found → exec (.test stack ch v fail) s =
        .next (s.setChan k (fun c => { c with work := some { w with ran := true, fail := fail, table := none } }))) ∧
      (w.kind ≠ 2 ∨ w.ran = true ∨ w.value ≠ v → exec (.repair stack ch v) s = .next s) ∧
      (w.kind = 2 → w.ran = false → w.value = v → exec (.repair stack ch v) s =
        .next (s.setChan k (fun c => { c with work := some { w with ran := true, fail := 0, table := none } }))) ∧
      (w.kind ≠ 1 ∨ w.ran = true → exec (.apply stack ch) s = .next s) ∧
      (w.kind = 1 → w.ran = false →
        (bad → exec (.apply stack ch) s = .next (s.setChan k (fun c =>
          { c with work := some { w with ran := true, fail := 0, table := none } }))) ∧
        (¬ bad → exec (.apply stack ch) s = .next (s.setChan k (fun c =>
          { c with work := some { w with ran := true, fail := 0, table := some table } })))) ∧
      (w.ran = false → exec (.channelRelease stack ch) s = .next s) ∧
      (w.ran = true → w.op = none → s.outstanding = [] →
        let ends := fun (f : Chan → Chan) => exec (.channelRelease stack ch) s = .next (s.told (s.setChan k (fun c => f { c with work := none })))
        (w.kind = 0 → ends (fun c => { c with fail := w.fail })) ∧
        (w.kind = 2 → ends (fun c => { c with repair := BitVec.ofNat 64 (w.value.toNat % 2 ^ 16) })) ∧
        (w.kind = 1 → w.table = none → ends (fun c => { c with trmode := w.value.getLsbD 0, terr := true })) ∧
        (∀ l, w.kind = 1 → w.table = some l → ∃ t, exec (.channelRelease stack ch) s = .next t ∧ (t.chan k).work = none ∧
          (t.chan k).trmode = w.value.getLsbD 0 ∧ (t.chan k).terr = false ∧ (t.chan k).rate = 12800 ∧ (t.chan k).repair = c.repair ∧
          ∀ i < l.length, tget 33 (t.chan k).rdly i = l.getD i 0 % 128 + 1 ∧ tget 33 (t.chan k).wdly i = l.getD i 0 / 256 % 128 + 1))) ∧
    (c.work = none → c.trmode = false → v.getLsbD 0 = true → exec (.test stack ch v fail) s = .next s ∧
      exec (.apply stack ch) s = .next s) ∧
    (c.work = none → exec (.channelRelease stack ch) s = .next s)

/-- The rows that are one write of a register, and page moves (R7, R75, R142, R416 to R420, R444, R462, R472): a context slot's word 0
(a slot in use stays VALID; CBMAG starts again with it), a CBMAG entry, the error log's COUNT, any register by REG_WRITE, and moves
queued on a far die, whose bytes PAGE_MOVE then copies before it raises the semaphore. -/
def Sys2Proof.Claim.RegistersAreWritten : Prop :=
  (∀ (s : State) (ctx : Nat) (v : BitVec 64), ctx < 4096 →
    let c := s.ctx ctx
    let held := c.valid = true ∧ v.getLsbD 0 = false ∧ (s.slotResident ctx = true ∨ c.reload ≠ [] ∨
      (s.awayOf ctx ≠ 0 ∧ ofBytes (s.home c.saved 8) ≠ 2 ^ 64 - 1))
    (held → exec (.ctxWord0Write ctx v) s = .next s) ∧
    (¬ held → ∃ t, exec (.ctxWord0Write ctx v) s = .next t ∧ t.mem = s.mem ∧ t.warps = s.warps ∧
      let y := t.ctx ctx
      y.valid = v.getLsbD 0 ∧ y.priv = v.getLsbD 1 ∧ y.req = v.getLsbD 2 ∧ y.hold = v.getLsbD 3 ∧ y.asid = v.toNat / 2 ^ 16 % 2 ^ 16 ∧
      y.ptroot = c.ptroot ∧ (c.valid = false → v.getLsbD 0 = true → ∀ i < 256, y.cbEntry i = cbReset.getD i 0) ∧
      (c.valid = true → ∀ i < 256, y.cbEntry i = c.cbEntry i) ∧ ∀ n, n ≠ ctx → t.ctx n = s.ctx n)) ∧
  (∀ (s : State) (ctx i : Nat) (v : BitVec 64), ctx < 4096 → i < 256 →
    ∃ t, exec (.cbmagWrite ctx i v) s = .next t ∧ (t.ctx ctx).cbEntry i = v.toNat % 2 ^ 16 ∧
      (∀ j, j ≠ i → (t.ctx ctx).cbEntry j = (s.ctx ctx).cbEntry j) ∧ t.mem = s.mem) ∧
  (∀ (s : State) (d n : Nat), d < 4 → exec (.elstatRetire d n) s =
    .next (s.setDie d (fun x => { x with elcount := x.elcount - n % 256 }))) ∧
  (∀ (s : State) (a v : BitVec 64),
    (regAddr a.toNat none = none → exec (.regWrite a v) s = .next s) ∧
    (∀ r, regAddr a.toNat none = some r →
      (s.writeReg r v none = .refused ∨ s.writeReg r v none = .wait → exec (.regWrite a v) s = .next s) ∧
      (∀ t, s.writeReg r v none = .done t → exec (.regWrite a v) s = .next t) ∧
      (∀ t k kind, s.writeReg r v none = .chan t k kind → exec (.regWrite a v) s = .next (t.startChan k kind v none)))) ∧
  (∀ (s : State) (d : Nat),
    let x := s.die d
    let n := 65536 * x.mlen
    let bad := d < 2 ∨ x.mlen = 0 ∨ s.covers x.msrc n 16 = false ∨ s.covers x.mdst n 16 = false ∨
      (x.msrc < x.mdst + n ∧ x.mdst < x.msrc + n)
    (bad ∨ 16 ≤ x.moves.length → exec (.mcmd d) s = .next s) ∧
    (¬ bad → x.moves.length < 16 → exec (.mcmd d) s =
      .next (s.setDie d (fun x => { x with moves := x.moves ++ [⟨x.msrc, x.mdst, x.mlen, x.msem⟩] })))) ∧
  (∀ (s : State) (d : Nat) (m : Move) (more : List Move), d < 4 → s.dies.length = 4 →
    ((s.die d).moves = [] → exec (.pageMove d) s = .next s) ∧
    ((s.die d).moves = m :: more → (∀ p ∈ s.posted, p.die ≠ d ∧ p.id < s.uid) →
      let n := 65536 * m.len
      (m.src + n ≤ m.dst ∨ m.dst + n ≤ m.src) → (m.sem + 8 ≤ m.dst ∨ m.dst + n ≤ m.sem) → (m.sem + 8 ≤ m.src ∨ m.src + n ≤ m.sem) →
      (∀ k < n, s.installed (m.dst + k) = true) → (∀ k < 8, s.installed (m.sem + k) = true) →
      ∃ t, exec (.pageMove d) s = .next t ∧ (t.die d).moves = more ∧
        (∀ k < n, memByte t.mem (m.dst + k) = memByte s.mem (m.src + k)) ∧
        t.home m.sem 8 = toBytes (ofBytes (s.home m.sem 8) + 1) 8 ∧
        (∀ a, ¬ (m.dst ≤ a ∧ a < m.dst + n) → ¬ (m.sem ≤ a ∧ a < m.sem + 8) → memByte t.mem a = memByte s.mem a)))

/-- HBM channels, register rows and page moves.
The model's choice, where the manual leaves it open: that self-refresh, gating and the power limiter change registers only (log entry
82), the bits that a register keeps (log entry 101), when TRMODE and TERR of an APPLY take effect (log entry 109), that a page move is
one step (log entry 110) and which lanes a test finds to pass (log entry 155). -/
def Obligations.ChannelsAndRegistersAreWritten : Prop :=
  Sys2Proof.Claim.ChannelsAreTrained ∧ Sys2Proof.Claim.RegistersAreWritten

/-! ### The whole machine -/

namespace Sys2Proof.Machine

/-- The privileged instructions (R410), each with the check of its operand registers (R212). -/
def privileged : Instr → Option Bool
  | .tlbinv _ a b => some (even a && even b)
  | .tlback => some true
  | .ctxsv _ a b => some (even a && even b)
  | .ctxld _ a => some (even a)
  | .tret _ a => some (even a)
  | .srr d a => some (even d && even a)
  | .srw a b => some (even a && even b)
  | .preemptReq _ => some true
  | .preemptWait _ _ => some true
  | .preemptClr _ => some true
  | .fltqPop d => some (d.toNat % 32 == 0)
  | .fltqRpl _ _ => some true
  | .fltqAcc _ _ => some true
  | .fltqTpop d => some (d.toNat % 4 == 0)
  | _ => none

/-- The registers of a die that only SRW, the host or a register row writes. -/
def Die.sameSetup (x y : Die) : Prop :=
  x.fqbase = y.fqbase ∧ x.fqlog2 = y.fqlog2 ∧ x.tqbase = y.tqbase ∧ x.tqlog2 = y.tqlog2 ∧ x.qtbase = y.qtbase ∧ x.promo = y.promo ∧
    x.plim = y.plim ∧ x.gate = y.gate ∧ x.en = y.en ∧ x.links = y.links ∧ x.gsel = y.gsel

end Sys2Proof.Machine

/-- A trap (R69, R72, R225): the warp stops precisely with the record of its code, lanes, pc, and of what it did in its skid; its
registers, the other warps' state and memory are as they were; its workgroup is halting, or halted once no other warp of it runs. Of
warps that trap in one cycle the lowest is primary. -/
def Sys2Proof.Claim.TrapsStopPrecisely : Prop :=
  ∀ (s : State) (w sp : Nat) (c : Cx) (code : TrapCode) (pc : Nat) (m : Mask) (info : Nat),
    s.cxOf w sp = some c → sp < c.warp.splits.length → c.group.st = .running ∨ c.group.st = .halting →
    let t := s.trapAt c code pc m info
    let cyc := s.slotCyc c.warp.core c.warp.slot - c.warp.haltAt.getD (s.slotCyc c.warp.core c.warp.slot)
    let first := c.group.st = .halting ∧ c.warp.skid = 0 ∧ cyc = 0 ∧ ∃ q x, s.primaryOf c.group = some (q, x) ∧ x.slot ≠ c.warp.slot ∧
      c.warp.idx < x.idx
    let others := ∃ j ∈ c.group.warps, j ≠ w ∧ ∃ z, tfind s.warps j = some z ∧ z.life = .running
    (s.trap c code m info = s.trapAt c code c.split.first m info) ∧
    (∃ y g p, tfind t.warps w = some y ∧ y.life = .stopped ⟨code, c.warp.skid, cyc, p, sp, pc, m, info⟩ ∧
      (p = true ↔ c.group.st = .running ∨ first) ∧
      y.v = c.warp.v ∧ y.s = c.warp.s ∧ y.k = c.warp.k ∧ y.t = c.warp.t ∧ y.h = c.warp.h ∧ (y.split sp).pc = pc ∧
      tfind t.groups c.gid = some g ∧ (others → g.st = .halting) ∧ (¬ others → g.st = .halted)) ∧
    (∀ j, j ≠ w → ∀ z, tfind s.warps j = some z → ∃ z', tfind t.warps j = some z' ∧ (z.life = .running → z'.life = .running) ∧
      { z' with life := z.life, haltAt := z.haltAt } = z) ∧ t.mem = s.mem ∧ t.posted = s.posted ∧ t.ctxs = s.ctxs

/-- The order of the checks (R68, R94, R102, R119, R223, R410), shown by the privileged instructions, SADD and VADD: ILLEGAL for the word,
then ILLEGAL at a hint that is not accepted, then PRIV, then the wait for empty registers that HFE does not select, then EMPTYRD where
it selects one, then POISON. An addition that reads a register bound to a batch runs, on free values. -/
def Sys2Proof.Claim.ChecksComeInOrder : Prop :=
  (∀ (s : State) (c : Cx) (i : Instr) (ok : Bool) (h : Hint), issueCx s = some c → privileged i = some ok →
    (ok = false → exec i s = .next (s.illegalWord c)) ∧
    (ok = true → c.split.hints = [h] → h.kind ≠ 2 → h.kind ≠ 4 → exec i s = .next (s.trapAt c .illegal h.pc c.split.mask 0)) ∧
    (ok = true → c.split.hints = [] → c.ctx.priv = false → exec i s = .next (s.trap c .priv c.split.mask 0))) ∧
  (∀ (s : State) (c : Cx) (d a b : BitVec 7) (f : BitVec 23) (hpc : Nat), issueCx s = some c →
    let e := fun (r : BitVec 7) => c.warp.isEmpty (.s r.toNat)
    let p := fun (r : BitVec 7) => c.warp.sPois r.toNat
    (c.split.hints = [⟨hpc, 4, f⟩] → f.toNat < 4 →
      let waits := (e a = true ∧ f.getLsbD 0 = false) ∨ (e b = true ∧ f.getLsbD 1 = false) ∨ e d = true
      (waits → exec (.sadd d a b) s = .next s) ∧
      (¬ waits → e a = true ∨ e b = true → exec (.sadd d a b) s = .next (s.trap c .emptyrd c.split.mask 0))) ∧
    (c.split.hints = [] → e a = true ∨ e b = true ∨ e d = true → exec (.sadd d a b) s = .next s) ∧
    (c.split.hints = [] → e a = false → e b = false → e d = false → p a = true ∨ p b = true →
      exec (.sadd d a b) s = .next (s.trap c .poison c.split.mask 0))) ∧
  (∀ (s : State) (c : Cx) (d a b : BitVec 7), issueCx s = some c → c.split.hints = [] → c.warp.replay = none → c.warp.loose = [] →
    c.vok d.toNat 1 = true → c.vok a.toNat 1 = true → c.vok b.toNat 1 = true →
    let e := fun (r : BitVec 7) => c.warp.isEmpty (.v r.toNat)
    let bad := (lanes c.split.mask).filter (fun l => c.warp.vPois a.toNat l || c.warp.vPois b.toNat l)
    (e a = true ∨ e b = true ∨ e d = true → exec (.vadd d a b 0) s = .next s) ∧
    (e a = false → e b = false → e d = false →
      (bad ≠ [] → exec (.vadd d a b 0) s = .next (s.trap c .poison (maskOf bad) 0)) ∧
      (bad = [] → c.split.mask ≠ 0 → c.warp.bound.getLsbD a.toNat = true ∨ c.warp.bound.getLsbD b.toNat = true →
        ∃ t y, exec (.vadd d a b 0) s = .next t ∧ t.free = s.free + 1 ∧ t.mem = s.mem ∧ tfind t.warps c.w = some y ∧
          (c.sp < c.warp.splits.length → (y.split c.sp).pc = (loopEnd c.split.loops c.split.pc).2))))

/-- A trap stops precisely, and the order of the checks.
The model's choice, where the manual leaves it open: the order of the checks that R68 and R223 leave open (log entry 15), that a word
whose issue a stop cuts off is executed again (log entry 63) and which of several warps that trap is primary (log entry 121). -/
def Obligations.TrapsAndChecksArePrecise : Prop :=
  Sys2Proof.Claim.TrapsStopPrecisely ∧ Sys2Proof.Claim.ChecksComeInOrder

/-- One step (R27, R41, R209, R230): the split that the agenda names, if no ready one of its slot goes before it, runs the instruction
that its word decodes to, and an invalid word is ILLEGAL; what the slot's clock brings as it moves is noted. The stream named runs its
own. The word fetched is the one that the core's cache holds, else the four bytes, low byte
first, that the die sees at the translated pc, which the cache then holds. Any other step of the table is its row's.
The model's choice, where the manual leaves it open: that one agent moves at a time and the agenda says which (log entry 1), which
agent moves with an empty agenda (log entry 2), which set a word that two have is read in (log entry 11), that each hint word is one
step (log entry 13), the order of the checks that R68 and R223 leave open (log entry 15), when a stream reads its words (log entry 67)
and that a copy moves line by line (log entry 157). -/
def Obligations.StepRunsTheDecodedInstruction : Prop :=
  (∀ (s : State) (w sp : Nat) (more : List Action) (c : Cx), s.agenda = .issue w sp :: more →
    let s1 : State := { s with agenda := more, cur := .warp w sp }
    let at' := fun (u : State) => u.slotCyc c.warp.core c.warp.slot
    let ends := fun (o : Host.Outcome State Fault Refusal) => match o with
      | .next u => .next (if at' u = at' s then u else u.noteSlot c.warp.core c.warp.slot)
      | o => o
    (issueCx s1 = none ∨ s1.mayIssue w sp = false → step s = .next s1) ∧
    (issueCx s1 = some c → s1.mayIssue w sp = true →
      (∀ (t : State) (x : Word) (i : Instr), s1.fetch c = .ok (t, x) → decode x = .ok i → step s = ends (exec i t)) ∧
      (∀ (t : State) (x : Word) (r : Reject), s1.fetch c = .ok (t, x) → decode x = .error r → step s = ends (.next (t.illegalWord c))) ∧
      (∀ o, s1.fetch c = .error o → step s = ends o))) ∧
  (∀ (s : State) (c : Cx) (tr : Trans), s.translate c.seat c.grid.ctx c.split.pc .fetch = .ok tr →
    let x := BitVec.ofNat 32 (ofBytes (s.view c.die tr.pa 4))
    (∀ y, s.cached c.warp.core tr.pa = some y → s.fetch c = .ok (s, y)) ∧
    (s.cached c.warp.core tr.pa = none → s.installed tr.pa = true → s.hostPort tr.pa = none → s.unserved c.die tr.pa 4 = false →
      s.quiet → s.inPriv tr.pa 4 = false → s.poisoned tr.pa 4 = false →
      ∃ t, s.fetch c = .ok (t, x) ∧ t.cached c.warp.core tr.pa = some x ∧ { t with icache := s.icache, free := s.free } = s ∧
        ((tget [] s.icache c.warp.core).length < 16384 → t.free = s.free))) ∧
  (∀ (s : State) (a : Action) (n : Nat) (more : List Action) (part : Option Nat), s.agenda = a :: more →
    (a = .stream n ∧ part = none) ∨ (∃ k, a = .streamPart n k ∧ part = some k) →
    let s1 : State := { s with agenda := more, cur := .stream n }
    (streamCx s1 = none → step s = .next s1) ∧
    (∀ x, streamCx s1 = some (n, x) → x.quota = part →
      (∀ (t : State) (l r : List Word) (i : Instr), s1.streamFetch n x = .ok (t, l) → decodeStream l = .ok (i, r) → step s = exec i t) ∧
      (∀ (t : State) (l : List Word) (r : Reject), s1.streamFetch n x = .ok (t, l) → decodeStream l = .error r →
        step s = .next (t.stopStream n 1)) ∧
      (∀ t, s1.streamFetch n x = .error t → step s = .next t))) ∧
  (∀ (s : State) (i : Instr) (more : List Action), s.agenda = .event i :: more →
    (i.rowKind = .event → s.linkHolds i = false → step s = exec i { s with agenda := more }) ∧
    (i.rowKind ≠ .event ∨ s.linkHolds i = true → step s = .next { s with agenda := more }))

/-- The order of issue (R41, R42, R96): a split does not issue while its warp has loads to make again, or while a ready split of its slot is
promoted and it is not, or has the older stamp, or has the same stamp and stands in a lower warp or a lower entry; otherwise it may.
A split that is not ready as the clock moves starts its count of R42 anew, and the others keep theirs. -/
def Sys2Proof.Claim.SlotsIssueTheOldest : Prop :=
  (∀ (s : State) (w sp v q : Nat) (x y : Warp), tfind s.warps w = some x → tfind s.warps v = some y → y.core = x.core → y.slot = x.slot →
    (x.split sp).st = .run → (y.split q).st = .run → (∀ e ∈ s.warps, ∀ f ∈ s.warps, e.1 = f.1 → e = f) →
    let now := s.slotCyc x.core x.slot
    let late := fun (p : Split) => p.promoted = true ∨ p.since + 4028 ≤ now
    let a := x.split sp
    let b := y.split q
    (s.unmade w = true → s.mayIssue w sp = false) ∧
    (s.ready v q = true → (late b ∧ ¬ late a) ∨ ((late a ↔ late b) ∧ (b.stamp < a.stamp ∨ (b.stamp = a.stamp ∧
      (y.idx < x.idx ∨ (v = w ∧ q < sp))))) → s.mayIssue w sp = false) ∧
    (s.unmade w = false → (∀ (u r : Nat) (z : Warp), tfind s.warps u = some z → z.core = x.core → z.slot = x.slot → (z.split r).st = .run →
      s.ready u r = true → (late a ∨ ¬ late (z.split r)) ∧ (¬ late a → ¬ late (z.split r) → a.stamp < (z.split r).stamp ∨ (u = w ∧ r = sp)) ∧
        (late a → late (z.split r) → a.stamp < (z.split r).stamp ∨ (u = w ∧ r = sp))) → s.mayIssue w sp = true)) ∧
  (∀ (p : Split) (ready : Bool) (now : Nat), p.note ready now = { p with
    since := if ready = true then p.since else now
    promoted := p.promoted && ready })

/-- Split promotion, skid, forced saves and the watchdog.
The model's choice, where the manual leaves it open: what advances a slot's clock (log entry 17), how a load is made again after a save
(log entry 71), the clock of a deadline and what a repeated request does (log entry 74) and when the cycles of HSTL count (log entry
118). -/
def Obligations.PromotionSkidAndDeadlines : Prop :=
  Sys2Proof.Claim.PromotionSkidAndDeadlines ∧ Sys2Proof.Claim.SlotsIssueTheOldest

/-- Words that the manual writes out beside their instructions, each decoded (R209 to R224, the listings of sections 13 and 14), the
heads of CPY, CSEMS and CHALT (R328), and words that are invalid (R229, R232). -/
def Obligations.WordsDecode : Prop :=
  decode 0x0C080014 = .ok (.simm 1 20) ∧
  decode 0x1450A001 = .ok (.sandImm 10 10 1) ∧
  decode 0x0AC28D1E = .ok (.ssetLtUQ 10 26 30) ∧
  decode 0x24208103 = .ok (.kor 2 2 3) ∧
  decode 0x29A00004 = .ok (.br 6 8 4) ∧
  decode 0x2C500002 = .ok (.brd 1 4 2) ∧
  decode 0x38000080 = .ok (.join 1) ∧
  decode 0x38800000 = .ok (.lexit) ∧
  decode 0x38A00000 = .ok (.exit) ∧
  decode 0x39610080 = .ok (.qcap 4 1) ∧
  decode 0x39868010 = .ok (.srd 26 16) ∧
  decode 0x4A44040C = .ok (.vshrD 8 4 6 0) ∧
  decode 0x51C18F28 = .ok (.vfsetLt 3 15 20 0) ∧
  decode 0x5C870D00 = .ok (.vred 14 13) ∧
  decode 0x70181003 = .ok (.vshlImm 3 1 3) ∧
  decode 0x81420060 = .ok (.ldD 4 0 3 0) ∧
  decode 0x85071068 = .ok (.stW 14 1 3 8) ∧
  decode 0x8A820062 = .ok (.ldl 0 2 4 3 2) ∧
  decode 0x8C018040 = .ok (.stl 0 0 3 2 0) ∧
  decode 0x9C804600 = .ok (.xlate 1 12 0) ∧
  decode 0xA1019040 = .ok (.ldtW 3 1 2 0) ∧
  decode 0xC0029000 = .ok (.seal 1 4 8) ∧
  decode 0xC1032000 = .ok (.attn 1 9) ∧
  decode 0xFC000200 = .ok (.himm 0x200) ∧
  decode 0xFC800005 = .ok (.hgrd 0 5) ∧
  decode 0xFD894000 = .ok (.hmod 74 0 0 0 0 0) ∧
  decodeStream [0x04000005, 0x1000, 0, 0x2000, 0x10000000, 64] = .ok (.cpy 0 0x1000 0x1000000000002000 64, []) ∧
  decodeStream [0x1C000004, 0x40, 0, 7, 1] = .ok (.csems 0 0x40 0x100000007, []) ∧
  decodeStream [0x2C000000, 5] = .ok (.chalt, [5]) ∧
  decode 0x00000000 = .error .major ∧ decode 0x38800001 = .error .unused ∧ decode 0x2C400005 = .ok (.brd 1 0 5) ∧
  decode 0x2C000005 = .error .field ∧ decodeStream [0x04000004, 0, 0, 0, 0] = .error .unused

/-- The module after power-on reset (R42, R417, R418, R473): nothing runs, no slot is valid, every die is FREE with EN 0, channels are at
3,200 Mb/s; memory lists nothing and so keeps its form.
The model's choice, where the manual leaves it open: that a byte nothing has written reads 0 (log entry 5), the reset values that no
rule gives (log entry 7) and that the agenda and the counter of free values outlast a reset (log entry 111). -/
def Obligations.ResetLeavesNothingRunning : Prop :=
  let s := State.reset
  MemoryOk s ∧ PostedOk s ∧ s.warps = [] ∧ s.groups = [] ∧ s.streams = [] ∧ s.booted = false ∧ step s = .next s ∧
    (∀ n, (s.ctx n).valid = false ∧ (s.ctx n).priv = false) ∧ (∀ k, (s.chan k).rate = 3200 ∧ (s.chan k).trmode = false) ∧
    (∀ d, (s.die d).en = false ∧ (s.die d).tstate = .free ∧ (s.die d).links = [] ∧ (s.die d).fqlog2 = 0 ∧ (s.die d).tqlog2 = 0) ∧
    s.ohl1 = false ∧ ∀ core, s.inService core = false

/-- Decoding inverts encoding (R209 to R232): every well-formed core instruction is one word, every well-formed stream instruction its
words, and the decoder gives the instruction back with every operand. -/
def Obligations.DecodeInvertsEncode : Prop :=
  ∀ (i : Instr), i.wf = true →
    (i.rowKind = .core → ∃ w, encode i = [w] ∧ decode w = .ok i) ∧
    (i.rowKind = .stream → ∀ more, decodeStream (encode i ++ more) = .ok (i, more))

/-- Every step keeps the form of memory: addresses rise and no byte that reads as nothing written is listed.
The model's choice, where the manual leaves it open: that a byte nothing has written reads 0 (log entry 5). -/
def Obligations.StepKeepsMemoryForm : Prop :=
  ∀ (s t : State), MemoryOk s → step s = .next t → MemoryOk t

/-- Every step keeps the four dies, and every write made and not yet performed lists its bytes in order, under a number already given.
The model's choice, where the manual leaves it open: that the lanes of one load, store or atomic are performed together, in a later
step (log entry 24). -/
def Obligations.StepKeepsPostedWrites : Prop :=
  ∀ (s t : State), PostedOk s → step s = .next t → PostedOk t

/-- A warp that is not privileged leaves the context slots, the ports but for their counts of errors (R470), the channels, the queues and the
setup registers of the dies as they are (R410, R414 to R419): only a privileged instruction, the host or another step of the module changes them.
The model's choice, where the manual leaves it open: what CE and UE count (log entry 140). -/
def Obligations.UnprivilegedWarpsLeaveTheSetup : Prop :=
  ∀ (s t : State) (c : Cx) (i : Instr), issueCx s = some c → c.ctx.priv = false → i.rowKind = .core → exec i s = .next t →
    t.ctxs = s.ctxs ∧ t.chans = s.chans ∧ t.queues = s.queues ∧ t.regions = s.regions ∧ (s.quiet → t.ports = s.ports) ∧
      (∀ e, { t.port e with ce := 0, ue := 0 } = { s.port e with ce := 0, ue := 0 }) ∧ ∀ d, (t.die d).sameSetup (s.die d)

/-! ### Rules stated whole -/

/-- LEXIT (R253): its word, and what it does with the stack of its split, and with an empty one. -/
def Obligations.LexitLeavesTheLoop : Prop :=
  encode .lexit = [0x38800000] ∧ decode 0x38800000 = .ok .lexit ∧
  ∀ (s : State) (c : Cx), Ready s c (once true Accept.none c [] []) →
    (∀ e r, c.split.loops = e :: r →
      let t := (e.stop + 4) % 2 ^ 57
      exec .lexit s = .next (s.afterAt c (unwind r t) t id)) ∧
    (c.split.loops = [] → exec .lexit s = .next (s.trap c .illegal c.split.mask 0) ∧ s.trap c .illegal c.split.mask 0 =
      s.trapAt c .illegal c.split.first c.split.mask 0)

/-- CALL (R256): B format, major 0x0C, COND and K both 0; each active lane of d0 gets the address after CALL and the depth of the split
(R44), and the whole split goes to the target with its loop stack as it was; nothing else changes but the split's count of the divided
calls it is in (R399), which stays 0 where a lone split makes the call. Any other COND or K is no CALL.
The model's choice, where the manual leaves it open: which calls are divided, which the split counts in div (log entry 138). -/
def Obligations.CallLinksEveryLane : Prop :=
  (∀ d : BitVec 18, decode (0x0C#6 ++ 0#4 ++ 0#4 ++ d) = .ok (.call d)) ∧
  (∀ (n k : BitVec 4) (d e : BitVec 18), n ≠ 0 ∨ k ≠ 0 → decode (0x0C#6 ++ n ++ k ++ d) ≠ .ok (.call e)) ∧
  ∀ (s : State) (c : Cx) (d : BitVec 18), Ready s c (once true accImm c [] [.v 0, .v 1]) →
    let disp : Int := match c.hint 0 with | some p => (p ++ d).toInt | none => d.toInt
    let target := (((c.split.pc : Int) + 4 * disp) % (2 ^ 57 : Int)).toNat
    let ra := (c.split.pc + 4) % 2 ^ 57
    let link := (lanes c.split.mask).flatMap (fun l => [RegWrite.v 0 l (BitVec.ofNat 32 ra) false,
      .v 1 l (BitVec.ofNat 32 (ra / 2 ^ 32 + c.split.loops.length * 2 ^ 25)) false])
    ∃ n : Nat, (c.warp.splitCount ≤ 1 → c.split.div = 0 → n = 0) ∧
      exec (.call d) s = .next ((s.afterAt c c.split.loops target (fun w => w.writeAll c.grid.w link)).onWarp c (fun w =>
        w.setSplit c.sp (fun p => { p with div := n })))

/-- HFREE (R339): hn becomes EMPTY, and the operations of the warp already issued keep what they took. -/
def Obligations.FreedHandlesAreEmpty : Prop :=
  ∀ (s : State) (c : Cx) (h : BitVec 4), Ready s c (once true accNoMod c [] [.h h.toNat]) →
    let t := s.after c (fun w => { w with h := tset Handle.none w.h h.toNat ⟨.empty, []⟩ })
    exec (.hfree h) s = .next t ∧ t.ops = s.ops ∧ t.mem = s.mem ∧
      (∀ j, j ≠ c.w → tfind t.warps j = tfind s.warps j) ∧
      ∃ y, tfind t.warps c.w = some y ∧ y.hreg h.toNat = ⟨.empty, []⟩ ∧ (∀ j, j ≠ h.toNat → y.hreg j = c.warp.hreg j) ∧
        y.openSet = c.warp.openSet ∧ y.batches = c.warp.batches ∧ y.latch = c.warp.latch
end

