-- ==== Sys2Proof/Laws/Exec.lean ====
section
/-! SUPPORT. What each arm of exec calls: one equation for each instruction, so that no proof unfolds the dispatch. -/

namespace Sys2Proof.Machine

@[simp] theorem exec_sadd (d a b) (s : State) : exec (.sadd d a b) s = execSadd d a b s := rfl
@[simp] theorem exec_ssub (d a b) (s : State) : exec (.ssub d a b) s = execSsub d a b s := rfl
@[simp] theorem exec_smul (d a b) (s : State) : exec (.smul d a b) s = execSmul d a b s := rfl
@[simp] theorem exec_smulh (d a b) (s : State) : exec (.smulh d a b) s = execSmulh d a b s := rfl
@[simp] theorem exec_smulhU (d a b) (s : State) : exec (.smulhU d a b) s = execSmulhU d a b s := rfl
@[simp] theorem exec_sdiv (d a b) (s : State) : exec (.sdiv d a b) s = execSdiv d a b s := rfl
@[simp] theorem exec_sdivU (d a b) (s : State) : exec (.sdivU d a b) s = execSdivU d a b s := rfl
@[simp] theorem exec_sand (d a b) (s : State) : exec (.sand d a b) s = execSand d a b s := rfl
@[simp] theorem exec_sor (d a b) (s : State) : exec (.sor d a b) s = execSor d a b s := rfl
@[simp] theorem exec_sxor (d a b) (s : State) : exec (.sxor d a b) s = execSxor d a b s := rfl
@[simp] theorem exec_sandn (d a b) (s : State) : exec (.sandn d a b) s = execSandn d a b s := rfl
@[simp] theorem exec_sshl (d a b) (s : State) : exec (.sshl d a b) s = execSshl d a b s := rfl
@[simp] theorem exec_sshr (d a b) (s : State) : exec (.sshr d a b) s = execSshr d a b s := rfl
@[simp] theorem exec_ssra (d a b) (s : State) : exec (.ssra d a b) s = execSsra d a b s := rfl
@[simp] theorem exec_smin (d a b) (s : State) : exec (.smin d a b) s = execSmin d a b s := rfl
@[simp] theorem exec_sminU (d a b) (s : State) : exec (.sminU d a b) s = execSminU d a b s := rfl
@[simp] theorem exec_smax (d a b) (s : State) : exec (.smax d a b) s = execSmax d a b s := rfl
@[simp] theorem exec_smaxU (d a b) (s : State) : exec (.smaxU d a b) s = execSmaxU d a b s := rfl
@[simp] theorem exec_ssetEq (d a b) (s : State) : exec (.ssetEq d a b) s = execSsetEq d a b s := rfl
@[simp] theorem exec_ssetNe (d a b) (s : State) : exec (.ssetNe d a b) s = execSsetNe d a b s := rfl
@[simp] theorem exec_ssetLt (d a b) (s : State) : exec (.ssetLt d a b) s = execSsetLt d a b s := rfl
@[simp] theorem exec_ssetLe (d a b) (s : State) : exec (.ssetLe d a b) s = execSsetLe d a b s := rfl
@[simp] theorem exec_ssetLtU (d a b) (s : State) : exec (.ssetLtU d a b) s = execSsetLtU d a b s := rfl
@[simp] theorem exec_ssetLeU (d a b) (s : State) : exec (.ssetLeU d a b) s = execSsetLeU d a b s := rfl
@[simp] theorem exec_ssel (d a b) (s : State) : exec (.ssel d a b) s = execSsel d a b s := rfl
@[simp] theorem exec_smov (d b) (s : State) : exec (.smov d b) s = execSmov d b s := rfl
@[simp] theorem exec_sclz (d b) (s : State) : exec (.sclz d b) s = execSclz d b s := rfl
@[simp] theorem exec_spopc (d b) (s : State) : exec (.spopc d b) s = execSpopc d b s := rfl
@[simp] theorem exec_sbfx (d a b) (s : State) : exec (.sbfx d a b) s = execSbfx d a b s := rfl
@[simp] theorem exec_sbfi (d a b) (s : State) : exec (.sbfi d a b) s = execSbfi d a b s := rfl
@[simp] theorem exec_saddQ (d a b) (s : State) : exec (.saddQ d a b) s = execSaddQ d a b s := rfl
@[simp] theorem exec_ssubQ (d a b) (s : State) : exec (.ssubQ d a b) s = execSsubQ d a b s := rfl
@[simp] theorem exec_smulQ (d a b) (s : State) : exec (.smulQ d a b) s = execSmulQ d a b s := rfl
@[simp] theorem exec_smulhQ (d a b) (s : State) : exec (.smulhQ d a b) s = execSmulhQ d a b s := rfl
@[simp] theorem exec_smulhUQ (d a b) (s : State) : exec (.smulhUQ d a b) s = execSmulhUQ d a b s := rfl
@[simp] theorem exec_sdivQ (d a b) (s : State) : exec (.sdivQ d a b) s = execSdivQ d a b s := rfl
@[simp] theorem exec_sdivUQ (d a b) (s : State) : exec (.sdivUQ d a b) s = execSdivUQ d a b s := rfl
@[simp] theorem exec_sandQ (d a b) (s : State) : exec (.sandQ d a b) s = execSandQ d a b s := rfl
@[simp] theorem exec_sorQ (d a b) (s : State) : exec (.sorQ d a b) s = execSorQ d a b s := rfl
@[simp] theorem exec_sxorQ (d a b) (s : State) : exec (.sxorQ d a b) s = execSxorQ d a b s := rfl
@[simp] theorem exec_sandnQ (d a b) (s : State) : exec (.sandnQ d a b) s = execSandnQ d a b s := rfl
@[simp] theorem exec_sshlQ (d a b) (s : State) : exec (.sshlQ d a b) s = execSshlQ d a b s := rfl
@[simp] theorem exec_sshrQ (d a b) (s : State) : exec (.sshrQ d a b) s = execSshrQ d a b s := rfl
@[simp] theorem exec_ssraQ (d a b) (s : State) : exec (.ssraQ d a b) s = execSsraQ d a b s := rfl
@[simp] theorem exec_sminQ (d a b) (s : State) : exec (.sminQ d a b) s = execSminQ d a b s := rfl
@[simp] theorem exec_sminUQ (d a b) (s : State) : exec (.sminUQ d a b) s = execSminUQ d a b s := rfl
@[simp] theorem exec_smaxQ (d a b) (s : State) : exec (.smaxQ d a b) s = execSmaxQ d a b s := rfl
@[simp] theorem exec_smaxUQ (d a b) (s : State) : exec (.smaxUQ d a b) s = execSmaxUQ d a b s := rfl
@[simp] theorem exec_ssetEqQ (d a b) (s : State) : exec (.ssetEqQ d a b) s = execSsetEqQ d a b s := rfl
@[simp] theorem exec_ssetNeQ (d a b) (s : State) : exec (.ssetNeQ d a b) s = execSsetNeQ d a b s := rfl
@[simp] theorem exec_ssetLtQ (d a b) (s : State) : exec (.ssetLtQ d a b) s = execSsetLtQ d a b s := rfl
@[simp] theorem exec_ssetLeQ (d a b) (s : State) : exec (.ssetLeQ d a b) s = execSsetLeQ d a b s := rfl
@[simp] theorem exec_ssetLtUQ (d a b) (s : State) : exec (.ssetLtUQ d a b) s = execSsetLtUQ d a b s := rfl
@[simp] theorem exec_ssetLeUQ (d a b) (s : State) : exec (.ssetLeUQ d a b) s = execSsetLeUQ d a b s := rfl
@[simp] theorem exec_sselQ (d a b) (s : State) : exec (.sselQ d a b) s = execSselQ d a b s := rfl
@[simp] theorem exec_smovQ (d b) (s : State) : exec (.smovQ d b) s = execSmovQ d b s := rfl
@[simp] theorem exec_sclzQ (d b) (s : State) : exec (.sclzQ d b) s = execSclzQ d b s := rfl
@[simp] theorem exec_spopcQ (d b) (s : State) : exec (.spopcQ d b) s = execSpopcQ d b s := rfl
@[simp] theorem exec_sbfxQ (d a b) (s : State) : exec (.sbfxQ d a b) s = execSbfxQ d a b s := rfl
@[simp] theorem exec_sbfiQ (d a b) (s : State) : exec (.sbfiQ d a b) s = execSbfiQ d a b s := rfl
@[simp] theorem exec_simm (d im) (s : State) : exec (.simm d im) s = execSimm d im s := rfl
@[simp] theorem exec_saddImm (d a im) (s : State) : exec (.saddImm d a im) s = execSaddImm d a im s := rfl
@[simp] theorem exec_sandImm (d a im) (s : State) : exec (.sandImm d a im) s = execSandImm d a im s := rfl
@[simp] theorem exec_sorImm (d a im) (s : State) : exec (.sorImm d a im) s = execSorImm d a im s := rfl
@[simp] theorem exec_sxorImm (d a im) (s : State) : exec (.sxorImm d a im) s = execSxorImm d a im s := rfl
@[simp] theorem exec_sshlImm (d a n) (s : State) : exec (.sshlImm d a n) s = execSshlImm d a n s := rfl
@[simp] theorem exec_sshrImm (d a n) (s : State) : exec (.sshrImm d a n) s = execSshrImm d a n s := rfl
@[simp] theorem exec_ssraImm (d a n) (s : State) : exec (.ssraImm d a n) s = execSsraImm d a n s := rfl
@[simp] theorem exec_kand (d a b) (s : State) : exec (.kand d a b) s = execKand d a b s := rfl
@[simp] theorem exec_kor (d a b) (s : State) : exec (.kor d a b) s = execKor d a b s := rfl
@[simp] theorem exec_kxor (d a b) (s : State) : exec (.kxor d a b) s = execKxor d a b s := rfl
@[simp] theorem exec_kandn (d a b) (s : State) : exec (.kandn d a b) s = execKandn d a b s := rfl
@[simp] theorem exec_kmov (d a) (s : State) : exec (.kmov d a) s = execKmov d a s := rfl
@[simp] theorem exec_kmovFromQ (d a) (s : State) : exec (.kmovFromQ d a) s = execKmovFromQ d a s := rfl
@[simp] theorem exec_kmovToQ (d a) (s : State) : exec (.kmovToQ d a) s = execKmovToQ d a s := rfl
@[simp] theorem exec_kpopc (d a) (s : State) : exec (.kpopc d a) s = execKpopc d a s := rfl
@[simp] theorem exec_kfirst (d a) (s : State) : exec (.kfirst d a) s = execKfirst d a s := rfl
@[simp] theorem exec_br (c k d) (s : State) : exec (.br c k d) s = execBr c k d s := rfl
@[simp] theorem exec_brd (r k d) (s : State) : exec (.brd r k d) s = execBrd r k d s := rfl
@[simp] theorem exec_call (d) (s : State) : exec (.call d) s = execCall d s := rfl
@[simp] theorem exec_loop (k d) (s : State) : exec (.loop k d) s = execLoop k d s := rfl
@[simp] theorem exec_join (a) (s : State) : exec (.join a) s = execJoin a s := rfl
@[simp] theorem exec_calli (a) (s : State) : exec (.calli a) s = execCalli a s := rfl
@[simp] theorem exec_ret (s : State) : exec .ret s = execRet s := rfl
@[simp] theorem exec_jmpi (a) (s : State) : exec (.jmpi a) s = execJmpi a s := rfl
@[simp] theorem exec_lexit (s : State) : exec .lexit s = execLexit s := rfl
@[simp] theorem exec_exit (s : State) : exec .exit s = execExit s := rfl
@[simp] theorem exec_yield (s : State) : exec .yield s = execYield s := rfl
@[simp] theorem exec_nop (s : State) : exec .nop s = execNop s := rfl
@[simp] theorem exec_waitc (a p) (s : State) : exec (.waitc a p) s = execWaitc a p s := rfl
@[simp] theorem exec_bar (bs) (s : State) : exec (.bar bs) s = execBar bs s := rfl
@[simp] theorem exec_launch (d a) (s : State) : exec (.launch d a) s = execLaunch d a s := rfl
@[simp] theorem exec_launchQueueEntry (w sp) (s : State) : exec (.launchQueueEntry w sp) s = execLaunchQueueEntry w sp s := rfl
@[simp] theorem exec_qcap (d a) (s : State) : exec (.qcap d a) s = execQcap d a s := rfl
@[simp] theorem exec_srd (d bs) (s : State) : exec (.srd d bs) s = execSrd d bs s := rfl
@[simp] theorem exec_trap (n) (s : State) : exec (.trap n) s = execTrap n s := rfl
@[simp] theorem exec_trapBind (n) (s : State) : exec (.trapBind n) s = execTrapBind n s := rfl
@[simp] theorem exec_bkpt (n) (s : State) : exec (.bkpt n) s = execBkpt n s := rfl
@[simp] theorem exec_vadd (d a b bs) (s : State) : exec (.vadd d a b bs) s = execVadd d a b bs s := rfl
@[simp] theorem exec_vsub (d a b bs) (s : State) : exec (.vsub d a b bs) s = execVsub d a b bs s := rfl
@[simp] theorem exec_vmul (d a b bs) (s : State) : exec (.vmul d a b bs) s = execVmul d a b bs s := rfl
@[simp] theorem exec_vmulh (d a b bs) (s : State) : exec (.vmulh d a b bs) s = execVmulh d a b bs s := rfl
@[simp] theorem exec_vmad (d a b bs) (s : State) : exec (.vmad d a b bs) s = execVmad d a b bs s := rfl
@[simp] theorem exec_vand (d a b bs) (s : State) : exec (.vand d a b bs) s = execVand d a b bs s := rfl
@[simp] theorem exec_vor (d a b bs) (s : State) : exec (.vor d a b bs) s = execVor d a b bs s := rfl
@[simp] theorem exec_vxor (d a b bs) (s : State) : exec (.vxor d a b bs) s = execVxor d a b bs s := rfl
@[simp] theorem exec_vshl (d a b bs) (s : State) : exec (.vshl d a b bs) s = execVshl d a b bs s := rfl
@[simp] theorem exec_vshr (d a b bs) (s : State) : exec (.vshr d a b bs) s = execVshr d a b bs s := rfl
@[simp] theorem exec_vsra (d a b bs) (s : State) : exec (.vsra d a b bs) s = execVsra d a b bs s := rfl
@[simp] theorem exec_vmin (d a b bs) (s : State) : exec (.vmin d a b bs) s = execVmin d a b bs s := rfl
@[simp] theorem exec_vmax (d a b bs) (s : State) : exec (.vmax d a b bs) s = execVmax d a b bs s := rfl
@[simp] theorem exec_vsel (d a b bs) (s : State) : exec (.vsel d a b bs) s = execVsel d a b bs s := rfl
@[simp] theorem exec_vbfx (d a b bs) (s : State) : exec (.vbfx d a b bs) s = execVbfx d a b bs s := rfl
@[simp] theorem exec_vabs (d b bs) (s : State) : exec (.vabs d b bs) s = execVabs d b bs s := rfl
@[simp] theorem exec_vclz (d b bs) (s : State) : exec (.vclz d b bs) s = execVclz d b bs s := rfl
@[simp] theorem exec_vpopc (d b bs) (s : State) : exec (.vpopc d b bs) s = execVpopc d b bs s := rfl
@[simp] theorem exec_vmov (d b bs) (s : State) : exec (.vmov d b bs) s = execVmov d b bs s := rfl
@[simp] theorem exec_vbcst (d a b) (s : State) : exec (.vbcst d a b) s = execVbcst d a b s := rfl
@[simp] theorem exec_vsetEq (d a b bs) (s : State) : exec (.vsetEq d a b bs) s = execVsetEq d a b bs s := rfl
@[simp] theorem exec_vsetNe (d a b bs) (s : State) : exec (.vsetNe d a b bs) s = execVsetNe d a b bs s := rfl
@[simp] theorem exec_vsetLt (d a b bs) (s : State) : exec (.vsetLt d a b bs) s = execVsetLt d a b bs s := rfl
@[simp] theorem exec_vsetLe (d a b bs) (s : State) : exec (.vsetLe d a b bs) s = execVsetLe d a b bs s := rfl
@[simp] theorem exec_vsetLtU (d a b bs) (s : State) : exec (.vsetLtU d a b bs) s = execVsetLtU d a b bs s := rfl
@[simp] theorem exec_vsetLeU (d a b bs) (s : State) : exec (.vsetLeU d a b bs) s = execVsetLeU d a b bs s := rfl
@[simp] theorem exec_vmulhU (d a b bs) (s : State) : exec (.vmulhU d a b bs) s = execVmulhU d a b bs s := rfl
@[simp] theorem exec_vminU (d a b bs) (s : State) : exec (.vminU d a b bs) s = execVminU d a b bs s := rfl
@[simp] theorem exec_vmaxU (d a b bs) (s : State) : exec (.vmaxU d a b bs) s = execVmaxU d a b bs s := rfl
@[simp] theorem exec_vaddD (d a b bs) (s : State) : exec (.vaddD d a b bs) s = execVaddD d a b bs s := rfl
@[simp] theorem exec_vsubD (d a b bs) (s : State) : exec (.vsubD d a b bs) s = execVsubD d a b bs s := rfl
@[simp] theorem exec_vmulD (d a b bs) (s : State) : exec (.vmulD d a b bs) s = execVmulD d a b bs s := rfl
@[simp] theorem exec_vmulhD (d a b bs) (s : State) : exec (.vmulhD d a b bs) s = execVmulhD d a b bs s := rfl
@[simp] theorem exec_vmadD (d a b bs) (s : State) : exec (.vmadD d a b bs) s = execVmadD d a b bs s := rfl
@[simp] theorem exec_vandD (d a b bs) (s : State) : exec (.vandD d a b bs) s = execVandD d a b bs s := rfl
@[simp] theorem exec_vorD (d a b bs) (s : State) : exec (.vorD d a b bs) s = execVorD d a b bs s := rfl
@[simp] theorem exec_vxorD (d a b bs) (s : State) : exec (.vxorD d a b bs) s = execVxorD d a b bs s := rfl
@[simp] theorem exec_vshlD (d a b bs) (s : State) : exec (.vshlD d a b bs) s = execVshlD d a b bs s := rfl
@[simp] theorem exec_vshrD (d a b bs) (s : State) : exec (.vshrD d a b bs) s = execVshrD d a b bs s := rfl
@[simp] theorem exec_vsraD (d a b bs) (s : State) : exec (.vsraD d a b bs) s = execVsraD d a b bs s := rfl
@[simp] theorem exec_vminD (d a b bs) (s : State) : exec (.vminD d a b bs) s = execVminD d a b bs s := rfl
@[simp] theorem exec_vmaxD (d a b bs) (s : State) : exec (.vmaxD d a b bs) s = execVmaxD d a b bs s := rfl
@[simp] theorem exec_vselD (d a b bs) (s : State) : exec (.vselD d a b bs) s = execVselD d a b bs s := rfl
@[simp] theorem exec_vbfxD (d a b bs) (s : State) : exec (.vbfxD d a b bs) s = execVbfxD d a b bs s := rfl
@[simp] theorem exec_vabsD (d b bs) (s : State) : exec (.vabsD d b bs) s = execVabsD d b bs s := rfl
@[simp] theorem exec_vclzD (d b bs) (s : State) : exec (.vclzD d b bs) s = execVclzD d b bs s := rfl
@[simp] theorem exec_vpopcD (d b bs) (s : State) : exec (.vpopcD d b bs) s = execVpopcD d b bs s := rfl
@[simp] theorem exec_vmovD (d b bs) (s : State) : exec (.vmovD d b bs) s = execVmovD d b bs s := rfl
@[simp] theorem exec_vbcstD (d a b) (s : State) : exec (.vbcstD d a b) s = execVbcstD d a b s := rfl
@[simp] theorem exec_vsetEqD (d a b bs) (s : State) : exec (.vsetEqD d a b bs) s = execVsetEqD d a b bs s := rfl
@[simp] theorem exec_vsetNeD (d a b bs) (s : State) : exec (.vsetNeD d a b bs) s = execVsetNeD d a b bs s := rfl
@[simp] theorem exec_vsetLtD (d a b bs) (s : State) : exec (.vsetLtD d a b bs) s = execVsetLtD d a b bs s := rfl
@[simp] theorem exec_vsetLeD (d a b bs) (s : State) : exec (.vsetLeD d a b bs) s = execVsetLeD d a b bs s := rfl
@[simp] theorem exec_vsetLtUD (d a b bs) (s : State) : exec (.vsetLtUD d a b bs) s = execVsetLtUD d a b bs s := rfl
@[simp] theorem exec_vsetLeUD (d a b bs) (s : State) : exec (.vsetLeUD d a b bs) s = execVsetLeUD d a b bs s := rfl
@[simp] theorem exec_vmulhUD (d a b bs) (s : State) : exec (.vmulhUD d a b bs) s = execVmulhUD d a b bs s := rfl
@[simp] theorem exec_vminUD (d a b bs) (s : State) : exec (.vminUD d a b bs) s = execVminUD d a b bs s := rfl
@[simp] theorem exec_vmaxUD (d a b bs) (s : State) : exec (.vmaxUD d a b bs) s = execVmaxUD d a b bs s := rfl
@[simp] theorem exec_vfadd (d a b bs) (s : State) : exec (.vfadd d a b bs) s = execVfadd d a b bs s := rfl
@[simp] theorem exec_vfsub (d a b bs) (s : State) : exec (.vfsub d a b bs) s = execVfsub d a b bs s := rfl
@[simp] theorem exec_vfmul (d a b bs) (s : State) : exec (.vfmul d a b bs) s = execVfmul d a b bs s := rfl
@[simp] theorem exec_vfma (d a b bs) (s : State) : exec (.vfma d a b bs) s = execVfma d a b bs s := rfl
@[simp] theorem exec_vfmin (d a b bs) (s : State) : exec (.vfmin d a b bs) s = execVfmin d a b bs s := rfl
@[simp] theorem exec_vfmax (d a b bs) (s : State) : exec (.vfmax d a b bs) s = execVfmax d a b bs s := rfl
@[simp] theorem exec_vfsetEq (d a b bs) (s : State) : exec (.vfsetEq d a b bs) s = execVfsetEq d a b bs s := rfl
@[simp] theorem exec_vfsetLt (d a b bs) (s : State) : exec (.vfsetLt d a b bs) s = execVfsetLt d a b bs s := rfl
@[simp] theorem exec_vfsetLe (d a b bs) (s : State) : exec (.vfsetLe d a b bs) s = execVfsetLe d a b bs s := rfl
@[simp] theorem exec_vfsetUn (d a b bs) (s : State) : exec (.vfsetUn d a b bs) s = execVfsetUn d a b bs s := rfl
@[simp] theorem exec_vfcls (d b bs) (s : State) : exec (.vfcls d b bs) s = execVfcls d b bs s := rfl
@[simp] theorem exec_vrcp (d b bs) (s : State) : exec (.vrcp d b bs) s = execVrcp d b bs s := rfl
@[simp] theorem exec_vrsq (d b bs) (s : State) : exec (.vrsq d b bs) s = execVrsq d b bs s := rfl
@[simp] theorem exec_vsqrt (d b bs) (s : State) : exec (.vsqrt d b bs) s = execVsqrt d b bs s := rfl
@[simp] theorem exec_vexp2 (d b bs) (s : State) : exec (.vexp2 d b bs) s = execVexp2 d b bs s := rfl
@[simp] theorem exec_vlog2 (d b bs) (s : State) : exec (.vlog2 d b bs) s = execVlog2 d b bs s := rfl
@[simp] theorem exec_vfaddD (d a b bs) (s : State) : exec (.vfaddD d a b bs) s = execVfaddD d a b bs s := rfl
@[simp] theorem exec_vfsubD (d a b bs) (s : State) : exec (.vfsubD d a b bs) s = execVfsubD d a b bs s := rfl
@[simp] theorem exec_vfmulD (d a b bs) (s : State) : exec (.vfmulD d a b bs) s = execVfmulD d a b bs s := rfl
@[simp] theorem exec_vfmaD (d a b bs) (s : State) : exec (.vfmaD d a b bs) s = execVfmaD d a b bs s := rfl
@[simp] theorem exec_vfminD (d a b bs) (s : State) : exec (.vfminD d a b bs) s = execVfminD d a b bs s := rfl
@[simp] theorem exec_vfmaxD (d a b bs) (s : State) : exec (.vfmaxD d a b bs) s = execVfmaxD d a b bs s := rfl
@[simp] theorem exec_vfsetEqD (d a b bs) (s : State) : exec (.vfsetEqD d a b bs) s = execVfsetEqD d a b bs s := rfl
@[simp] theorem exec_vfsetLtD (d a b bs) (s : State) : exec (.vfsetLtD d a b bs) s = execVfsetLtD d a b bs s := rfl
@[simp] theorem exec_vfsetLeD (d a b bs) (s : State) : exec (.vfsetLeD d a b bs) s = execVfsetLeD d a b bs s := rfl
@[simp] theorem exec_vfsetUnD (d a b bs) (s : State) : exec (.vfsetUnD d a b bs) s = execVfsetUnD d a b bs s := rfl
@[simp] theorem exec_vfclsD (d b bs) (s : State) : exec (.vfclsD d b bs) s = execVfclsD d b bs s := rfl
@[simp] theorem exec_vrcpD (d b bs) (s : State) : exec (.vrcpD d b bs) s = execVrcpD d b bs s := rfl
@[simp] theorem exec_vrsqD (d b bs) (s : State) : exec (.vrsqD d b bs) s = execVrsqD d b bs s := rfl
@[simp] theorem exec_vsqrtD (d b bs) (s : State) : exec (.vsqrtD d b bs) s = execVsqrtD d b bs s := rfl
@[simp] theorem exec_vexp2D (d b bs) (s : State) : exec (.vexp2D d b bs) s = execVexp2D d b bs s := rfl
@[simp] theorem exec_vlog2D (d b bs) (s : State) : exec (.vlog2D d b bs) s = execVlog2D d b bs s := rfl
@[simp] theorem exec_vcvt (d a t im bs) (s : State) : exec (.vcvt d a t im bs) s = execVcvt d a t im bs s := rfl
@[simp] theorem exec_vqmx (d a) (s : State) : exec (.vqmx d a) s = execVqmx d a s := rfl
@[simp] theorem exec_vdqmx (d a bs) (s : State) : exec (.vdqmx d a bs) s = execVdqmx d a bs s := rfl
@[simp] theorem exec_vcbd (d a bs) (s : State) : exec (.vcbd d a bs) s = execVcbd d a bs s := rfl
@[simp] theorem exec_vperm (d a b bs) (s : State) : exec (.vperm d a b bs) s = execVperm d a b bs s := rfl
@[simp] theorem exec_vshfl (d a b bs) (s : State) : exec (.vshfl d a b bs) s = execVshfl d a b bs s := rfl
@[simp] theorem exec_vred (d a) (s : State) : exec (.vred d a) s = execVred d a s := rfl
@[simp] theorem exec_vscan (d a) (s : State) : exec (.vscan d a) s = execVscan d a s := rfl
@[simp] theorem exec_vsort (d a b bs) (s : State) : exec (.vsort d a b bs) s = execVsort d a b bs s := rfl
@[simp] theorem exec_vtopk (d a b) (s : State) : exec (.vtopk d a b) s = execVtopk d a b s := rfl
@[simp] theorem exec_vrand (d a b) (s : State) : exec (.vrand d a b) s = execVrand d a b s := rfl
@[simp] theorem exec_gori2 (d a b bs) (s : State) : exec (.gori2 d a b bs) s = execGori2 d a b bs s := rfl
@[simp] theorem exec_gori3 (d a b bs) (s : State) : exec (.gori3 d a b bs) s = execGori3 d a b bs s := rfl
@[simp] theorem exec_ginc (d a b bs) (s : State) : exec (.ginc d a b bs) s = execGinc d a b bs s := rfl
@[simp] theorem exec_gins (d a b bs) (s : State) : exec (.gins d a b bs) s = execGins d a b bs s := rfl
@[simp] theorem exec_gsegx (d a b bs) (s : State) : exec (.gsegx d a b bs) s = execGsegx d a b bs s := rfl
@[simp] theorem exec_vaddImm (d a im) (s : State) : exec (.vaddImm d a im) s = execVaddImm d a im s := rfl
@[simp] theorem exec_vandImm (d a im) (s : State) : exec (.vandImm d a im) s = execVandImm d a im s := rfl
@[simp] theorem exec_vshlImm (d a n) (s : State) : exec (.vshlImm d a n) s = execVshlImm d a n s := rfl
@[simp] theorem exec_vshrImm (d a n) (s : State) : exec (.vshrImm d a n) s = execVshrImm d a n s := rfl
@[simp] theorem exec_vsraImm (d a n) (s : State) : exec (.vsraImm d a n) s = execVsraImm d a n s := rfl
@[simp] theorem exec_vmovImm (d im) (s : State) : exec (.vmovImm d im) s = execVmovImm d im s := rfl
@[simp] theorem exec_ldB (d t vo im) (s : State) : exec (.ldB d t vo im) s = execLdB d t vo im s := rfl
@[simp] theorem exec_ldSb (d t vo im) (s : State) : exec (.ldSb d t vo im) s = execLdSb d t vo im s := rfl
@[simp] theorem exec_ldH (d t vo im) (s : State) : exec (.ldH d t vo im) s = execLdH d t vo im s := rfl
@[simp] theorem exec_ldSh (d t vo im) (s : State) : exec (.ldSh d t vo im) s = execLdSh d t vo im s := rfl
@[simp] theorem exec_ldW (d t vo im) (s : State) : exec (.ldW d t vo im) s = execLdW d t vo im s := rfl
@[simp] theorem exec_ldD (d t vo im) (s : State) : exec (.ldD d t vo im) s = execLdD d t vo im s := rfl
@[simp] theorem exec_ldQ (d t vo im) (s : State) : exec (.ldQ d t vo im) s = execLdQ d t vo im s := rfl
@[simp] theorem exec_ldPrvB (d vo im) (s : State) : exec (.ldPrvB d vo im) s = execLdPrvB d vo im s := rfl
@[simp] theorem exec_ldPrvSb (d vo im) (s : State) : exec (.ldPrvSb d vo im) s = execLdPrvSb d vo im s := rfl
@[simp] theorem exec_ldPrvH (d vo im) (s : State) : exec (.ldPrvH d vo im) s = execLdPrvH d vo im s := rfl
@[simp] theorem exec_ldPrvSh (d vo im) (s : State) : exec (.ldPrvSh d vo im) s = execLdPrvSh d vo im s := rfl
@[simp] theorem exec_ldPrvW (d vo im) (s : State) : exec (.ldPrvW d vo im) s = execLdPrvW d vo im s := rfl
@[simp] theorem exec_ldPrvD (d vo im) (s : State) : exec (.ldPrvD d vo im) s = execLdPrvD d vo im s := rfl
@[simp] theorem exec_stB (d t vo im) (s : State) : exec (.stB d t vo im) s = execStB d t vo im s := rfl
@[simp] theorem exec_stH (d t vo im) (s : State) : exec (.stH d t vo im) s = execStH d t vo im s := rfl
@[simp] theorem exec_stW (d t vo im) (s : State) : exec (.stW d t vo im) s = execStW d t vo im s := rfl
@[simp] theorem exec_stD (d t vo im) (s : State) : exec (.stD d t vo im) s = execStD d t vo im s := rfl
@[simp] theorem exec_stQ (d t vo im) (s : State) : exec (.stQ d t vo im) s = execStQ d t vo im s := rfl
@[simp] theorem exec_stPrvB (d vo im) (s : State) : exec (.stPrvB d vo im) s = execStPrvB d vo im s := rfl
@[simp] theorem exec_stPrvH (d vo im) (s : State) : exec (.stPrvH d vo im) s = execStPrvH d vo im s := rfl
@[simp] theorem exec_stPrvW (d vo im) (s : State) : exec (.stPrvW d vo im) s = execStPrvW d vo im s := rfl
@[simp] theorem exec_stPrvD (d vo im) (s : State) : exec (.stPrvD d vo im) s = execStPrvD d vo im s := rfl
@[simp] theorem exec_ldl (u z d vo im) (s : State) : exec (.ldl u z d vo im) s = execLdl u z d vo im s := rfl
@[simp] theorem exec_stl (u z d vo im) (s : State) : exec (.stl u z d vo im) s = execStl u z d vo im s := rfl
@[simp] theorem exec_atomAdd (d t vo im) (s : State) : exec (.atomAdd d t vo im) s = execAtomAdd d t vo im s := rfl
@[simp] theorem exec_atomAnd (d t vo im) (s : State) : exec (.atomAnd d t vo im) s = execAtomAnd d t vo im s := rfl
@[simp] theorem exec_atomOr (d t vo im) (s : State) : exec (.atomOr d t vo im) s = execAtomOr d t vo im s := rfl
@[simp] theorem exec_atomXor (d t vo im) (s : State) : exec (.atomXor d t vo im) s = execAtomXor d t vo im s := rfl
@[simp] theorem exec_atomMin (d t vo im) (s : State) : exec (.atomMin d t vo im) s = execAtomMin d t vo im s := rfl
@[simp] theorem exec_atomMax (d t vo im) (s : State) : exec (.atomMax d t vo im) s = execAtomMax d t vo im s := rfl
@[simp] theorem exec_atomMinU (d t vo im) (s : State) : exec (.atomMinU d t vo im) s = execAtomMinU d t vo im s := rfl
@[simp] theorem exec_atomMaxU (d t vo im) (s : State) : exec (.atomMaxU d t vo im) s = execAtomMaxU d t vo im s := rfl
@[simp] theorem exec_atomExch (d t vo im) (s : State) : exec (.atomExch d t vo im) s = execAtomExch d t vo im s := rfl
@[simp] theorem exec_atomAddD (d t vo im) (s : State) : exec (.atomAddD d t vo im) s = execAtomAddD d t vo im s := rfl
@[simp] theorem exec_atomExchD (d t vo im) (s : State) : exec (.atomExchD d t vo im) s = execAtomExchD d t vo im s := rfl
@[simp] theorem exec_atomFadd (d t vo im) (s : State) : exec (.atomFadd d t vo im) s = execAtomFadd d t vo im s := rfl
@[simp] theorem exec_atomAddPosted (d t vo im) (s : State) : exec (.atomAddPosted d t vo im) s = execAtomAddPosted d t vo im s := rfl
@[simp] theorem exec_atomAndPosted (d t vo im) (s : State) : exec (.atomAndPosted d t vo im) s = execAtomAndPosted d t vo im s := rfl
@[simp] theorem exec_atomOrPosted (d t vo im) (s : State) : exec (.atomOrPosted d t vo im) s = execAtomOrPosted d t vo im s := rfl
@[simp] theorem exec_atomXorPosted (d t vo im) (s : State) : exec (.atomXorPosted d t vo im) s = execAtomXorPosted d t vo im s := rfl
@[simp] theorem exec_atomMinPosted (d t vo im) (s : State) : exec (.atomMinPosted d t vo im) s = execAtomMinPosted d t vo im s := rfl
@[simp] theorem exec_atomMaxPosted (d t vo im) (s : State) : exec (.atomMaxPosted d t vo im) s = execAtomMaxPosted d t vo im s := rfl
@[simp] theorem exec_atomMinUPosted (d t vo im) (s : State) : exec (.atomMinUPosted d t vo im) s = execAtomMinUPosted d t vo im s := rfl
@[simp] theorem exec_atomMaxUPosted (d t vo im) (s : State) : exec (.atomMaxUPosted d t vo im) s = execAtomMaxUPosted d t vo im s := rfl
@[simp] theorem exec_atomExchPosted (d t vo im) (s : State) : exec (.atomExchPosted d t vo im) s = execAtomExchPosted d t vo im s := rfl
@[simp] theorem exec_atomAddDPosted (d t vo im) (s : State) : exec (.atomAddDPosted d t vo im) s = execAtomAddDPosted d t vo im s := rfl
@[simp] theorem exec_atomExchDPosted (d t vo im) (s : State) : exec (.atomExchDPosted d t vo im) s = execAtomExchDPosted d t vo im s := rfl
@[simp] theorem exec_atomFaddPosted (d t vo im) (s : State) : exec (.atomFaddPosted d t vo im) s = execAtomFaddPosted d t vo im s := rfl
@[simp] theorem exec_casW (d t vo im) (s : State) : exec (.casW d t vo im) s = execCasW d t vo im s := rfl
@[simp] theorem exec_casD (d t vo im) (s : State) : exec (.casD d t vo im) s = execCasD d t vo im s := rfl
@[simp] theorem exec_casQ (d t vo im) (s : State) : exec (.casQ d t vo im) s = execCasQ d t vo im s := rfl
@[simp] theorem exec_fence (k bs) (s : State) : exec (.fence k bs) s = execFence k bs s := rfl
@[simp] theorem exec_cwb (a b) (s : State) : exec (.cwb a b) s = execCwb a b s := rfl
@[simp] theorem exec_cinvD (a b) (s : State) : exec (.cinvD a b) s = execCinvD a b s := rfl
@[simp] theorem exec_cinvI (a b) (s : State) : exec (.cinvI a b) s = execCinvI a b s := rfl
@[simp] theorem exec_prefL2 (a b) (s : State) : exec (.prefL2 a b) s = execPrefL2 a b s := rfl
@[simp] theorem exec_prefL1 (a b) (s : State) : exec (.prefL1 a b) s = execPrefL1 a b s := rfl
@[simp] theorem exec_xlate (t a b) (s : State) : exec (.xlate t a b) s = execXlate t a b s := rfl
@[simp] theorem exec_xdrop (t) (s : State) : exec (.xdrop t) s = execXdrop t s := rfl
@[simp] theorem exec_sems (a b) (s : State) : exec (.sems a b) s = execSems a b s := rfl
@[simp] theorem exec_semw (a b) (s : State) : exec (.semw a b) s = execSemw a b s := rfl
@[simp] theorem exec_semwSatisfied (w sp) (s : State) : exec (.semwSatisfied w sp) s = execSemwSatisfied w sp s := rfl
@[simp] theorem exec_migrate (a) (s : State) : exec (.migrate a) s = execMigrate a s := rfl
@[simp] theorem exec_migrateShip (w) (s : State) : exec (.migrateShip w) s = execMigrateShip w s := rfl
@[simp] theorem exec_ldtW (d t vo im) (s : State) : exec (.ldtW d t vo im) s = execLdtW d t vo im s := rfl
@[simp] theorem exec_ldtD (d t vo im) (s : State) : exec (.ldtD d t vo im) s = execLdtD d t vo im s := rfl
@[simp] theorem exec_ldtQ (d t vo im) (s : State) : exec (.ldtQ d t vo im) s = execLdtQ d t vo im s := rfl
@[simp] theorem exec_sttW (d t vo im) (s : State) : exec (.sttW d t vo im) s = execSttW d t vo im s := rfl
@[simp] theorem exec_sttD (d t vo im) (s : State) : exec (.sttD d t vo im) s = execSttD d t vo im s := rfl
@[simp] theorem exec_sttQ (d t vo im) (s : State) : exec (.sttQ d t vo im) s = execSttQ d t vo im s := rfl
@[simp] theorem exec_tcopy (d t im) (s : State) : exec (.tcopy d t im) s = execTcopy d t im s := rfl
@[simp] theorem exec_tcopyGath (d t vo im) (s : State) : exec (.tcopyGath d t vo im) s = execTcopyGath d t vo im s := rfl
@[simp] theorem exec_tcopyScat (d t vo im) (s : State) : exec (.tcopyScat d t vo im) s = execTcopyScat d t vo im s := rfl
@[simp] theorem exec_seal (h q bs) (s : State) : exec (.seal h q bs) s = execSeal h q bs s := rfl
@[simp] theorem exec_hfree (h) (s : State) : exec (.hfree h) s = execHfree h s := rfl
@[simp] theorem exec_mma (h v c r) (s : State) : exec (.mma h v c r) s = execMma h v c r s := rfl
@[simp] theorem exec_mloop (h bs c) (s : State) : exec (.mloop h bs c) s = execMloop h bs c s := rfl
@[simp] theorem exec_mrdy (v) (s : State) : exec (.mrdy v) s = execMrdy v s := rfl
@[simp] theorem exec_jointIssuePairing (w) (s : State) : exec (.jointIssuePairing w) s = execJointIssuePairing w s := rfl
@[simp] theorem exec_mfence (bs) (s : State) : exec (.mfence bs) s = execMfence bs s := rfl
@[simp] theorem exec_mwait (bs n) (s : State) : exec (.mwait bs n) s = execMwait bs n s := rfl
@[simp] theorem exec_batchComplete (w) (s : State) : exec (.batchComplete w) s = execBatchComplete w s := rfl
@[simp] theorem exec_sufx (h) (s : State) : exec (.sufx h) s = execSufx h s := rfl
@[simp] theorem exec_attn (h bs) (s : State) : exec (.attn h bs) s = execAttn h bs s := rfl
@[simp] theorem exec_selpg (h bs) (s : State) : exec (.selpg h bs) s = execSelpg h bs s := rfl
@[simp] theorem exec_massr (q bs r c) (s : State) : exec (.massr q bs r c) s = execMassr q bs r c s := rfl
@[simp] theorem exec_dcln (q bs e) (s : State) : exec (.dcln q bs e) s = execDcln q bs e s := rfl
@[simp] theorem exec_sweepRequest (n die) (s : State) : exec (.sweepRequest n die) s = execSweepRequest n die s := rfl
@[simp] theorem exec_tier (q bs c n) (s : State) : exec (.tier q bs c n) s = execTier q bs c n s := rfl
@[simp] theorem exec_ctrc (h bs) (s : State) : exec (.ctrc h bs) s = execCtrc h bs s := rfl
@[simp] theorem exec_expd (h q r t) (s : State) : exec (.expd h q r t) s = execExpd h q r t s := rfl
@[simp] theorem exec_sqgrow (a b c) (s : State) : exec (.sqgrow a b c) s = execSqgrow a b c s := rfl
@[simp] theorem exec_sqgrowSlotCopy (n) (s : State) : exec (.sqgrowSlotCopy n) s = execSqgrowSlotCopy n s := rfl
@[simp] theorem exec_sqgrowComplete (n) (s : State) : exec (.sqgrowComplete n) s = execSqgrowComplete n s := rfl
@[simp] theorem exec_tlbinv (d a b) (s : State) : exec (.tlbinv d a b) s = execTlbinv d a b s := rfl
@[simp] theorem exec_tlbinvPerform (n die) (s : State) : exec (.tlbinvPerform n die) s = execTlbinvPerform n die s := rfl
@[simp] theorem exec_tlback (s : State) : exec .tlback s = execTlback s := rfl
@[simp] theorem exec_tlbackComplete (w sp) (s : State) : exec (.tlbackComplete w sp) s = execTlbackComplete w sp s := rfl
@[simp] theorem exec_ctxsv (d a b) (s : State) : exec (.ctxsv d a b) s = execCtxsv d a b s := rfl
@[simp] theorem exec_ctxld (d a) (s : State) : exec (.ctxld d a) s = execCtxld d a s := rfl
@[simp] theorem exec_tret (d a) (s : State) : exec (.tret d a) s = execTret d a s := rfl
@[simp] theorem exec_srr (d a) (s : State) : exec (.srr d a) s = execSrr d a s := rfl
@[simp] theorem exec_srw (a b) (s : State) : exec (.srw a b) s = execSrw a b s := rfl
@[simp] theorem exec_preemptReq (a) (s : State) : exec (.preemptReq a) s = execPreemptReq a s := rfl
@[simp] theorem exec_preemptWait (d a) (s : State) : exec (.preemptWait d a) s = execPreemptWait d a s := rfl
@[simp] theorem exec_preemptClr (a) (s : State) : exec (.preemptClr a) s = execPreemptClr a s := rfl
@[simp] theorem exec_fltqPop (d) (s : State) : exec (.fltqPop d) s = execFltqPop d s := rfl
@[simp] theorem exec_fltqRpl (d a) (s : State) : exec (.fltqRpl d a) s = execFltqRpl d a s := rfl
@[simp] theorem exec_fltqAcc (d a) (s : State) : exec (.fltqAcc d a) s = execFltqAcc d a s := rfl
@[simp] theorem exec_fltqTpop (d) (s : State) : exec (.fltqTpop d) s = execFltqTpop d s := rfl
@[simp] theorem exec_claimResume (w sp) (s : State) : exec (.claimResume w sp) s = execClaimResume w sp s := rfl
@[simp] theorem exec_himm (im) (s : State) : exec (.himm im) s = execHimm im s := rfl
@[simp] theorem exec_hgrd (n k) (s : State) : exec (.hgrd n k) s = execHgrd n k s := rfl
@[simp] theorem exec_hstl (bs) (s : State) : exec (.hstl bs) s = execHstl bs s := rfl
@[simp] theorem exec_hmod (m vo bs r v t) (s : State) : exec (.hmod m vo bs r v t) s = execHmod m vo bs r v t s := rfl
@[simp] theorem exec_hfe (t) (s : State) : exec (.hfe t) s = execHfe t s := rfl
@[simp] theorem exec_hfil (f v) (s : State) : exec (.hfil f v) s = execHfil f v s := rfl
@[simp] theorem exec_hadd (b a) (s : State) : exec (.hadd b a) s = execHadd b a s := rfl
@[simp] theorem exec_cpy (na dst src len) (s : State) : exec (.cpy na dst src len) s = execCpy na dst src len s := rfl
@[simp] theorem exec_cpy2 (na dst src rowb rows dstr sstr) (s : State) : exec (.cpy2 na dst src rowb rows dstr sstr) s = execCpy2 na dst src rowb rows dstr sstr s := rfl
@[simp] theorem exec_cgath (rb iw na dst src idx count) (s : State) : exec (.cgath rb iw na dst src idx count) s = execCgath rb iw na dst src idx count s := rfl
@[simp] theorem exec_cscat (rb iw na dst src idx count) (s : State) : exec (.cscat rb iw na dst src idx count) s = execCscat rb iw na dst src idx count s := rfl
@[simp] theorem exec_cfill (psz dst pat len) (s : State) : exec (.cfill psz dst pat len) s = execCfill psz dst pat len s := rfl
@[simp] theorem exec_cconv (sf tf rm sat dst src count) (s : State) : exec (.cconv sf tf rm sat dst src count) s = execCconv sf tf rm sat dst src count s := rfl
@[simp] theorem exec_csems (set sem value) (s : State) : exec (.csems set sem value) s = execCsems set sem value s := rfl
@[simp] theorem exec_csemw (sem threshold) (s : State) : exec (.csemw sem threshold) s = execCsemw sem threshold s := rfl
@[simp] theorem exec_csemwSatisfied (n) (s : State) : exec (.csemwSatisfied n) s = execCsemwSatisfied n s := rfl
@[simp] theorem exec_cloop (back count) (s : State) : exec (.cloop back count) s = execCloop back count s := rfl
@[simp] theorem exec_cjmp (target) (s : State) : exec (.cjmp target) s = execCjmp target s := rfl
@[simp] theorem exec_chalt (s : State) : exec .chalt s = execChalt s := rfl
@[simp] theorem exec_splitPromotion (w sp) (s : State) : exec (.splitPromotion w sp) s = execSplitPromotion w sp s := rfl
@[simp] theorem exec_multicycleResult (n) (s : State) : exec (.multicycleResult n) s = execMulticycleResult n s := rfl
@[simp] theorem exec_loadComplete (n) (s : State) : exec (.loadComplete n) s = execLoadComplete n s := rfl
@[simp] theorem exec_storePerformed (n) (s : State) : exec (.storePerformed n) s = execStorePerformed n s := rfl
@[simp] theorem exec_atomicPerformed (n) (s : State) : exec (.atomicPerformed n) s = execAtomicPerformed n s := rfl
@[simp] theorem exec_remoteLocalComplete (n) (s : State) : exec (.remoteLocalComplete n) s = execRemoteLocalComplete n s := rfl
@[simp] theorem exec_tcopyRowLanded (n) (s : State) : exec (.tcopyRowLanded n) s = execTcopyRowLanded n s := rfl
@[simp] theorem exec_writeApply (die n) (s : State) : exec (.writeApply die n) s = execWriteApply die n s := rfl
@[simp] theorem exec_pageWalk (die ctx va) (s : State) : exec (.pageWalk die ctx va) s = execPageWalk die ctx va s := rfl
@[simp] theorem exec_faultHeldRelease (die) (s : State) : exec (.faultHeldRelease die) s = execFaultHeldRelease die s := rfl
@[simp] theorem exec_faultReplay (w) (s : State) : exec (.faultReplay w) s = execFaultReplay w s := rfl
@[simp] theorem exec_skidStop (w cyc) (s : State) : exec (.skidStop w cyc) s = execSkidStop w cyc s := rfl
@[simp] theorem exec_trapDelivery (g) (s : State) : exec (.trapDelivery g) s = execTrapDelivery g s := rfl
@[simp] theorem exec_forcedSave (w) (s : State) : exec (.forcedSave w) s = execForcedSave w s := rfl
@[simp] theorem exec_watchdog (g) (s : State) : exec (.watchdog g) s = execWatchdog g s := rfl
@[simp] theorem exec_contextSave (g) (s : State) : exec (.contextSave g) s = execContextSave g s := rfl
@[simp] theorem exec_sttArrival (n die) (s : State) : exec (.sttArrival n die) s = execSttArrival n die s := rfl
@[simp] theorem exec_sttVisible (n die) (s : State) : exec (.sttVisible n die) s = execSttVisible n die s := rfl
@[simp] theorem exec_tensedStoreAdmit (n die) (s : State) : exec (.tensedStoreAdmit n die) s = execTensedStoreAdmit n die s := rfl
@[simp] theorem exec_ldtArrival (n die) (s : State) : exec (.ldtArrival n die) s = execLdtArrival n die s := rfl
@[simp] theorem exec_ldtPerformed (n die) (s : State) : exec (.ldtPerformed n die) s = execLdtPerformed n die s := rfl
@[simp] theorem exec_lateNotice (n) (s : State) : exec (.lateNotice n) s = execLateNotice n s := rfl
@[simp] theorem exec_outboundAccessAbort (n) (s : State) : exec (.outboundAccessAbort n) s = execOutboundAccessAbort n s := rfl
@[simp] theorem exec_inboundAccessTimeout (n) (s : State) : exec (.inboundAccessTimeout n) s = execInboundAccessTimeout n s := rfl
@[simp] theorem exec_syncExchange (die peer) (s : State) : exec (.syncExchange die peer) s = execSyncExchange die peer s := rfl
@[simp] theorem exec_syncReceive (die peer) (s : State) : exec (.syncReceive die peer) s = execSyncReceive die peer s := rfl
@[simp] theorem exec_syncReply (die peer) (s : State) : exec (.syncReply die peer) s = execSyncReply die peer s := rfl
@[simp] theorem exec_exchangeMissed (die peer) (s : State) : exec (.exchangeMissed die peer) s = execExchangeMissed die peer s := rfl
@[simp] theorem exec_flitReplay (die peer) (s : State) : exec (.flitReplay die peer) s = execFlitReplay die peer s := rfl
@[simp] theorem exec_scheduleInstall (die peer) (s : State) : exec (.scheduleInstall die peer) s = execScheduleInstall die peer s := rfl
@[simp] theorem exec_declensionInterval (die ctx) (s : State) : exec (.declensionInterval die ctx) s = execDeclensionInterval die ctx s := rfl
@[simp] theorem exec_recordSweep (n) (s : State) : exec (.recordSweep n) s = execRecordSweep n s := rfl
@[simp] theorem exec_frameSwap (n) (s : State) : exec (.frameSwap n) s = execFrameSwap n s := rfl
@[simp] theorem exec_readerEpochAdvance (die) (s : State) : exec (.readerEpochAdvance die) s = execReaderEpochAdvance die s := rfl
@[simp] theorem exec_oldFrameFree (n) (s : State) : exec (.oldFrameFree n) s = execOldFrameFree n s := rfl
@[simp] theorem exec_dispatchStep (die) (s : State) : exec (.dispatchStep die) s = execDispatchStep die s := rfl
@[simp] theorem exec_workgroupRetire (g) (s : State) : exec (.workgroupRetire g) s = execWorkgroupRetire g s := rfl
@[simp] theorem exec_gridComplete (g) (s : State) : exec (.gridComplete g) s = execGridComplete g s := rfl
@[simp] theorem exec_gridPromotion (g) (s : State) : exec (.gridPromotion g) s = execGridPromotion g s := rfl
@[simp] theorem exec_coreGate (c) (s : State) : exec (.coreGate c) s = execCoreGate c s := rfl
@[simp] theorem exec_hbmSelfRefresh (stack ch) (s : State) : exec (.hbmSelfRefresh stack ch) s = execHbmSelfRefresh stack ch s := rfl
@[simp] theorem exec_launchRecord (q) (s : State) : exec (.launchRecord q) s = execLaunchRecord q s := rfl
@[simp] theorem exec_streamStartRecord (q) (s : State) : exec (.streamStartRecord q) s = execStreamStartRecord q s := rfl
@[simp] theorem exec_waitRecord (q) (s : State) : exec (.waitRecord q) s = execWaitRecord q s := rfl
@[simp] theorem exec_waitSatisfied (q) (s : State) : exec (.waitSatisfied q) s = execWaitSatisfied q s := rfl
@[simp] theorem exec_signalRecord (q) (s : State) : exec (.signalRecord q) s = execSignalRecord q s := rfl
@[simp] theorem exec_signalPerform (q) (s : State) : exec (.signalPerform q) s = execSignalPerform q s := rfl
@[simp] theorem exec_nopRecord (q) (s : State) : exec (.nopRecord q) s = execNopRecord q s := rfl
@[simp] theorem exec_mrd (port tag addr len) (s : State) : exec (.mrd port tag addr len) s = execMrd port tag addr len s := rfl
@[simp] theorem exec_mwr (port addr data) (s : State) : exec (.mwr port addr data) s = execMwr port addr data s := rfl
@[simp] theorem exec_cpl (port tag abort data) (s : State) : exec (.cpl port tag abort data) s = execCpl port tag abort data s := rfl
@[simp] theorem exec_tail (port arg) (s : State) : exec (.tail port arg) s = execTail port arg s := rfl
@[simp] theorem exec_qctlResume (port arg) (s : State) : exec (.qctlResume port arg) s = execQctlResume port arg s := rfl
@[simp] theorem exec_qctlStop (port arg) (s : State) : exec (.qctlStop port arg) s = execQctlStop port arg s := rfl
@[simp] theorem exec_rrd (port tag arg) (s : State) : exec (.rrd port tag arg) s = execRrd port tag arg s := rfl
@[simp] theorem exec_rwr (port arg value) (s : State) : exec (.rwr port arg value) s = execRwr port arg value s := rfl
@[simp] theorem exec_boot (offset data) (s : State) : exec (.boot offset data) s = execBoot offset data s := rfl
@[simp] theorem exec_bootend (s : State) : exec .bootend s = execBootend s := rfl
@[simp] theorem exec_powerOnReset (s : State) : exec .powerOnReset s = execPowerOnReset s := rfl
@[simp] theorem exec_cxlViral (port) (s : State) : exec (.cxlViral port) s = execCxlViral port s := rfl
@[simp] theorem exec_enumerate (port base size lanes) (s : State) : exec (.enumerate port base size lanes) s = execEnumerate port base size lanes s := rfl
@[simp] theorem exec_online (port) (s : State) : exec (.online port) s = execOnline port s := rfl
@[simp] theorem exec_evacuate (port) (s : State) : exec (.evacuate port) s = execEvacuate port s := rfl
@[simp] theorem exec_offline (port) (s : State) : exec (.offline port) s = execOffline port s := rfl
@[simp] theorem exec_test (stack ch value fail) (s : State) : exec (.test stack ch value fail) s = execTest stack ch value fail s := rfl
@[simp] theorem exec_apply (stack ch) (s : State) : exec (.apply stack ch) s = execApply stack ch s := rfl
@[simp] theorem exec_repair (stack ch value) (s : State) : exec (.repair stack ch value) s = execRepair stack ch value s := rfl
@[simp] theorem exec_channelRelease (stack ch) (s : State) : exec (.channelRelease stack ch) s = execChannelRelease stack ch s := rfl
@[simp] theorem exec_commit (die peer) (s : State) : exec (.commit die peer) s = execCommit die peer s := rfl
@[simp] theorem exec_mcmd (die) (s : State) : exec (.mcmd die) s = execMcmd die s := rfl
@[simp] theorem exec_pageMove (die) (s : State) : exec (.pageMove die) s = execPageMove die s := rfl
@[simp] theorem exec_drain (die value) (s : State) : exec (.drain die value) s = execDrain die value s := rfl
@[simp] theorem exec_coreEmpty (die) (s : State) : exec (.coreEmpty die) s = execCoreEmpty die s := rfl
@[simp] theorem exec_selfTestDone (die pass) (s : State) : exec (.selfTestDone die pass) s = execSelfTestDone die pass s := rfl
@[simp] theorem exec_freeze (die) (s : State) : exec (.freeze die) s = execFreeze die s := rfl
@[simp] theorem exec_thaw (die) (s : State) : exec (.thaw die) s = execThaw die s := rfl
@[simp] theorem exec_drop (die) (s : State) : exec (.drop die) s = execDrop die s := rfl
@[simp] theorem exec_elstatRetire (die count) (s : State) : exec (.elstatRetire die count) s = execElstatRetire die count s := rfl
@[simp] theorem exec_ctxWord0Write (ctx value) (s : State) : exec (.ctxWord0Write ctx value) s = execCtxWord0Write ctx value s := rfl
@[simp] theorem exec_cbmagWrite (ctx index value) (s : State) : exec (.cbmagWrite ctx index value) s = execCbmagWrite ctx index value s := rfl
@[simp] theorem exec_faultQueueEnable (die value) (s : State) : exec (.faultQueueEnable die value) s = execFaultQueueEnable die value s := rfl
@[simp] theorem exec_trapRingEnable (die value) (s : State) : exec (.trapRingEnable die value) s = execTrapRingEnable die value s := rfl
@[simp] theorem exec_regWrite (addr value) (s : State) : exec (.regWrite addr value) s = execRegWrite addr value s := rfl
@[simp] theorem exec_dtimeEnWrite (die value) (s : State) : exec (.dtimeEnWrite die value) s = execDtimeEnWrite die value s := rfl
@[simp] theorem exec_linkControlFlit (die peer) (s : State) : exec (.linkControlFlit die peer) s = execLinkControlFlit die peer s := rfl
@[simp] theorem exec_diePowerLimit (die watts) (s : State) : exec (.diePowerLimit die watts) s = execDiePowerLimit die watts s := rfl
@[simp] theorem exec_matrixSelfTest (c path) (s : State) : exec (.matrixSelfTest c path) s = execMatrixSelfTest c path s := rfl
@[simp] theorem exec_clusterRelease (die cl) (s : State) : exec (.clusterRelease die cl) s = execClusterRelease die cl s := rfl
@[simp] theorem exec_engineInstructionDone (w sp) (s : State) : exec (.engineInstructionDone w sp) s = execEngineInstructionDone w sp s := rfl
@[simp] theorem exec_trmodeWrite (stack ch value) (s : State) : exec (.trmodeWrite stack ch value) s = execTrmodeWrite stack ch value s := rfl

end Sys2Proof.Machine
end

