-- ==== Sys2Proof/Laws/Tables.lean ====
section
/-! SUPPORT. What the sparse tables do: reads after writes, and that every operation keeps the canonical form. -/

namespace Sys2Proof.Machine

variable {α : Type}

@[simp] theorem tfind_tput_same (m : Table α) (n : Nat) (x : α) : tfind (tput m n x) n = some x := by
  induction m with
  | nil => simp [tput, tfind]
  | cons e r ih =>
    obtain ⟨k, y⟩ := e
    simp only [tput]
    split
    · simp [tfind]
    · split
      · simp [tfind]
      · rename_i h1 h2
        simp [tfind, Ne.symm h2, ih]

theorem tfind_tput_other (m : Table α) {n j : Nat} (x : α) (h : j ≠ n) : tfind (tput m n x) j = tfind m j := by
  induction m with
  | nil => simp [tput, tfind, Ne.symm h]
  | cons e r ih =>
    obtain ⟨k, y⟩ := e
    simp only [tput]
    split
    · simp [tfind, Ne.symm h]
    · split
      · rename_i h1 h2; subst h2; simp [tfind, Ne.symm h]
      · simp [tfind, ih]

@[simp] theorem tput_tput (m : Table α) (n : Nat) (x y : α) : tput (tput m n x) n y = tput m n y := by
  induction m with
  | nil => simp [tput]
  | cons e r ih =>
    obtain ⟨k, z⟩ := e
    by_cases h1 : n < k
    · simp [tput, h1]
    · by_cases h2 : n = k
      · simp [tput, h2]
      · simp [tput, h1, h2, ih]

@[simp] theorem tfind_terase_same (m : Table α) (n : Nat) : tfind (terase m n) n = none := by
  induction m with
  | nil => rfl
  | cons e r ih =>
    obtain ⟨k, y⟩ := e
    by_cases h : k = n
    · simpa [terase, List.filter_cons, h] using ih
    · simpa [terase, List.filter_cons, h, tfind] using ih

theorem tfind_terase_other (m : Table α) {n j : Nat} (h : j ≠ n) : tfind (terase m n) j = tfind m j := by
  induction m with
  | nil => rfl
  | cons e r ih =>
    obtain ⟨k, y⟩ := e
    by_cases hk : k = n
    · subst hk
      simpa [terase, List.filter_cons, tfind, Ne.symm h] using ih
    · by_cases hj : k = j
      · subst hj; simp [terase, hk, tfind]
      · simpa [terase, List.filter_cons, hk, tfind, hj] using ih

/-- What a table reads after a write of one key. -/
theorem tget_tset [DecidableEq α] (d : α) (m : Table α) (n j : Nat) (x : α) :
    tget d (tset d m n x) j = if j = n then x else tget d m j := by
  by_cases h : j = n
  · subst h
    by_cases hx : x = d <;> simp [tget, tset, hx]
  · by_cases hx : x = d <;> simp [tget, tset, hx, h, tfind_terase_other, tfind_tput_other]

@[simp] theorem tget_tset_same [DecidableEq α] (d : α) (m : Table α) (n : Nat) (x : α) : tget d (tset d m n x) n = x := by
  simp [tget_tset]

theorem tget_tset_other [DecidableEq α] (d : α) (m : Table α) {n j : Nat} (x : α) (h : j ≠ n) :
    tget d (tset d m n x) j = tget d m j := by
  simp [tget_tset, h]

/-- Keys rise exactly where they rise pairwise. -/
theorem tsorted_iff (m : Table α) : tsorted m = true ↔ m.Pairwise (fun a b => a.1 < b.1) := by
  induction m with
  | nil => simp [tsorted]
  | cons e r ih =>
    cases r with
    | nil => simp [tsorted]
    | cons f q =>
      obtain ⟨k, x⟩ := e
      obtain ⟨j, y⟩ := f
      rw [List.pairwise_cons, ← ih]
      simp only [tsorted, Bool.and_eq_true, decide_eq_true_eq]
      constructor
      · rintro ⟨h1, h2⟩
        refine ⟨?_, h2⟩
        intro z hz
        rcases List.mem_cons.mp hz with rfl | hz
        · exact h1
        · have := (List.pairwise_cons.mp (ih.mp h2)).1 z hz
          simp only at this ⊢; omega
      · rintro ⟨h1, h2⟩
        exact ⟨h1 (j, y) (by simp), h2⟩

theorem tsorted_terase {m : Table α} (n : Nat) (h : tsorted m = true) : tsorted (terase m n) = true := by
  rw [tsorted_iff] at *
  exact h.filter _

theorem tput_key {m : Table α} {n : Nat} {x : α} {e : Nat × α} (h : e ∈ tput m n x) : e = (n, x) ∨ e ∈ m := by
  induction m with
  | nil => simp [tput] at h; simp [h]
  | cons f r ih =>
    obtain ⟨k, y⟩ := f
    simp only [tput] at h
    split at h
    · rcases List.mem_cons.mp h with h | h <;> simp [h]
    · split at h
      · rcases List.mem_cons.mp h with h | h
        · simp [h]
        · right; simp [h]
      · rcases List.mem_cons.mp h with h | h
        · right; simp [h]
        · rcases ih h with h | h <;> simp [h]

theorem tsorted_tput {m : Table α} (n : Nat) (x : α) (h : tsorted m = true) : tsorted (tput m n x) = true := by
  rw [tsorted_iff] at *
  induction m with
  | nil => simp [tput]
  | cons f r ih =>
    obtain ⟨k, y⟩ := f
    obtain ⟨h1, h2⟩ := List.pairwise_cons.mp h
    simp only [tput]
    split
    · rename_i hk
      refine List.pairwise_cons.mpr ⟨?_, h⟩
      intro e he
      rcases List.mem_cons.mp he with rfl | he
      · exact hk
      · have := h1 e he; simp only at this ⊢; omega
    · split
      · rename_i hk; subst hk
        exact List.pairwise_cons.mpr ⟨h1, h2⟩
      · rename_i ha hb
        refine List.pairwise_cons.mpr ⟨?_, ih h2⟩
        intro e he
        rcases tput_key he with rfl | he
        · simp only; omega
        · exact h1 e he

/-- A table in canonical form keeps it when one key is written. -/
theorem twf_tset [DecidableEq α] {d : α} {m : Table α} (n : Nat) (x : α) (h : twf d m = true) : twf d (tset d m n x) = true := by
  simp only [twf, Bool.and_eq_true, List.all_eq_true, Bool.not_eq_true', decide_eq_false_iff_not] at *
  unfold tset
  split
  · exact ⟨tsorted_terase n h.1, fun e he => h.2 e (List.mem_filter.mp he).1⟩
  · rename_i hx
    refine ⟨tsorted_tput n x h.1, fun e he => ?_⟩
    rcases tput_key he with rfl | he
    · exact hx
    · exact h.2 e he

end Sys2Proof.Machine
end

