-- ==== Sys2Proof/Laws/State.lean ====
section
/-! SUPPORT. What each update of the state leaves as it was: one lemma for each field. -/

namespace Sys2Proof.Machine

variable (s : State)

@[simp] theorem setDie_agenda (d : Nat) (f : Die → Die) : (s.setDie d f).agenda = s.agenda := rfl
@[simp] theorem setDie_cur (d : Nat) (f : Die → Die) : (s.setDie d f).cur = s.cur := rfl
@[simp] theorem setDie_warps (d : Nat) (f : Die → Die) : (s.setDie d f).warps = s.warps := rfl
@[simp] theorem setDie_groups (d : Nat) (f : Die → Die) : (s.setDie d f).groups = s.groups := rfl
@[simp] theorem setDie_grids (d : Nat) (f : Die → Die) : (s.setDie d f).grids = s.grids := rfl
@[simp] theorem setDie_streams (d : Nat) (f : Die → Die) : (s.setDie d f).streams = s.streams := rfl
@[simp] theorem setDie_ops (d : Nat) (f : Die → Die) : (s.setDie d f).ops = s.ops := rfl
@[simp] theorem setDie_posted (d : Nat) (f : Die → Die) : (s.setDie d f).posted = s.posted := rfl
@[simp] theorem setDie_wlog (d : Nat) (f : Die → Die) : (s.setDie d f).wlog = s.wlog := rfl
@[simp] theorem setDie_mem (d : Nat) (f : Die → Die) : (s.setDie d f).mem = s.mem := rfl
@[simp] theorem setDie_memP (d : Nat) (f : Die → Die) : (s.setDie d f).memP = s.memP := rfl
@[simp] theorem setDie_dirty (d : Nat) (f : Die → Die) : (s.setDie d f).dirty = s.dirty := rfl
@[simp] theorem setDie_privMem (d : Nat) (f : Die → Die) : (s.setDie d f).privMem = s.privMem := rfl
@[simp] theorem setDie_privP (d : Nat) (f : Die → Die) : (s.setDie d f).privP = s.privP := rfl
@[simp] theorem setDie_privNext (d : Nat) (f : Die → Die) : (s.setDie d f).privNext = s.privNext := rfl
@[simp] theorem setDie_kept (d : Nat) (f : Die → Die) : (s.setDie d f).kept = s.kept := rfl
@[simp] theorem setDie_icache (d : Nat) (f : Die → Die) : (s.setDie d f).icache = s.icache := rfl
@[simp] theorem setDie_l1 (d : Nat) (f : Die → Die) : (s.setDie d f).l1 = s.l1 := rfl
@[simp] theorem setDie_ctxs (d : Nat) (f : Die → Die) : (s.setDie d f).ctxs = s.ctxs := rfl
@[simp] theorem setDie_ports (d : Nat) (f : Die → Die) : (s.setDie d f).ports = s.ports := rfl
@[simp] theorem setDie_chans (d : Nat) (f : Die → Die) : (s.setDie d f).chans = s.chans := rfl
@[simp] theorem setDie_queues (d : Nat) (f : Die → Die) : (s.setDie d f).queues = s.queues := rfl
@[simp] theorem setDie_acts (d : Nat) (f : Die → Die) : (s.setDie d f).acts = s.acts := rfl
@[simp] theorem setDie_regions (d : Nat) (f : Die → Die) : (s.setDie d f).regions = s.regions := rfl
@[simp] theorem setDie_cyc (d : Nat) (f : Die → Die) : (s.setDie d f).cyc = s.cyc := rfl
@[simp] theorem setDie_ohl1 (d : Nat) (f : Die → Die) : (s.setDie d f).ohl1 = s.ohl1 := rfl
@[simp] theorem setDie_fp6 (d : Nat) (f : Die → Die) : (s.setDie d f).fp6 = s.fp6 := rfl
@[simp] theorem setDie_fp4 (d : Nat) (f : Die → Die) : (s.setDie d f).fp4 = s.fp4 := rfl
@[simp] theorem setDie_fmtTop (d : Nat) (f : Die → Die) : (s.setDie d f).fmtTop = s.fmtTop := rfl
@[simp] theorem setDie_live (d : Nat) (f : Die → Die) : (s.setDie d f).live = s.live := rfl
@[simp] theorem setDie_clockMhz (d : Nat) (f : Die → Die) : (s.setDie d f).clockMhz = s.clockMhz := rfl
@[simp] theorem setDie_booted (d : Nat) (f : Die → Die) : (s.setDie d f).booted = s.booted := rfl
@[simp] theorem setDie_sent (d : Nat) (f : Die → Die) : (s.setDie d f).sent = s.sent := rfl
@[simp] theorem setDie_completions (d : Nat) (f : Die → Die) : (s.setDie d f).completions = s.completions := rfl
@[simp] theorem setDie_outstanding (d : Nat) (f : Die → Die) : (s.setDie d f).outstanding = s.outstanding := rfl
@[simp] theorem setDie_asks (d : Nat) (f : Die → Die) : (s.setDie d f).asks = s.asks := rfl
@[simp] theorem setDie_uid (d : Nat) (f : Die → Die) : (s.setDie d f).uid = s.uid := rfl
@[simp] theorem setDie_free (d : Nat) (f : Die → Die) : (s.setDie d f).free = s.free := rfl

@[simp] theorem setCtx_agenda (c : Nat) (f : Ctx → Ctx) : (s.setCtx c f).agenda = s.agenda := rfl
@[simp] theorem setCtx_cur (c : Nat) (f : Ctx → Ctx) : (s.setCtx c f).cur = s.cur := rfl
@[simp] theorem setCtx_warps (c : Nat) (f : Ctx → Ctx) : (s.setCtx c f).warps = s.warps := rfl
@[simp] theorem setCtx_groups (c : Nat) (f : Ctx → Ctx) : (s.setCtx c f).groups = s.groups := rfl
@[simp] theorem setCtx_grids (c : Nat) (f : Ctx → Ctx) : (s.setCtx c f).grids = s.grids := rfl
@[simp] theorem setCtx_streams (c : Nat) (f : Ctx → Ctx) : (s.setCtx c f).streams = s.streams := rfl
@[simp] theorem setCtx_ops (c : Nat) (f : Ctx → Ctx) : (s.setCtx c f).ops = s.ops := rfl
@[simp] theorem setCtx_posted (c : Nat) (f : Ctx → Ctx) : (s.setCtx c f).posted = s.posted := rfl
@[simp] theorem setCtx_wlog (c : Nat) (f : Ctx → Ctx) : (s.setCtx c f).wlog = s.wlog := rfl
@[simp] theorem setCtx_mem (c : Nat) (f : Ctx → Ctx) : (s.setCtx c f).mem = s.mem := rfl
@[simp] theorem setCtx_memP (c : Nat) (f : Ctx → Ctx) : (s.setCtx c f).memP = s.memP := rfl
@[simp] theorem setCtx_dirty (c : Nat) (f : Ctx → Ctx) : (s.setCtx c f).dirty = s.dirty := rfl
@[simp] theorem setCtx_privMem (c : Nat) (f : Ctx → Ctx) : (s.setCtx c f).privMem = s.privMem := rfl
@[simp] theorem setCtx_privP (c : Nat) (f : Ctx → Ctx) : (s.setCtx c f).privP = s.privP := rfl
@[simp] theorem setCtx_privNext (c : Nat) (f : Ctx → Ctx) : (s.setCtx c f).privNext = s.privNext := rfl
@[simp] theorem setCtx_kept (c : Nat) (f : Ctx → Ctx) : (s.setCtx c f).kept = s.kept := rfl
@[simp] theorem setCtx_icache (c : Nat) (f : Ctx → Ctx) : (s.setCtx c f).icache = s.icache := rfl
@[simp] theorem setCtx_l1 (c : Nat) (f : Ctx → Ctx) : (s.setCtx c f).l1 = s.l1 := rfl
@[simp] theorem setCtx_dies (c : Nat) (f : Ctx → Ctx) : (s.setCtx c f).dies = s.dies := rfl
@[simp] theorem setCtx_ports (c : Nat) (f : Ctx → Ctx) : (s.setCtx c f).ports = s.ports := rfl
@[simp] theorem setCtx_chans (c : Nat) (f : Ctx → Ctx) : (s.setCtx c f).chans = s.chans := rfl
@[simp] theorem setCtx_queues (c : Nat) (f : Ctx → Ctx) : (s.setCtx c f).queues = s.queues := rfl
@[simp] theorem setCtx_acts (c : Nat) (f : Ctx → Ctx) : (s.setCtx c f).acts = s.acts := rfl
@[simp] theorem setCtx_regions (c : Nat) (f : Ctx → Ctx) : (s.setCtx c f).regions = s.regions := rfl
@[simp] theorem setCtx_cyc (c : Nat) (f : Ctx → Ctx) : (s.setCtx c f).cyc = s.cyc := rfl
@[simp] theorem setCtx_ohl1 (c : Nat) (f : Ctx → Ctx) : (s.setCtx c f).ohl1 = s.ohl1 := rfl
@[simp] theorem setCtx_fp6 (c : Nat) (f : Ctx → Ctx) : (s.setCtx c f).fp6 = s.fp6 := rfl
@[simp] theorem setCtx_fp4 (c : Nat) (f : Ctx → Ctx) : (s.setCtx c f).fp4 = s.fp4 := rfl
@[simp] theorem setCtx_fmtTop (c : Nat) (f : Ctx → Ctx) : (s.setCtx c f).fmtTop = s.fmtTop := rfl
@[simp] theorem setCtx_live (c : Nat) (f : Ctx → Ctx) : (s.setCtx c f).live = s.live := rfl
@[simp] theorem setCtx_clockMhz (c : Nat) (f : Ctx → Ctx) : (s.setCtx c f).clockMhz = s.clockMhz := rfl
@[simp] theorem setCtx_booted (c : Nat) (f : Ctx → Ctx) : (s.setCtx c f).booted = s.booted := rfl
@[simp] theorem setCtx_sent (c : Nat) (f : Ctx → Ctx) : (s.setCtx c f).sent = s.sent := rfl
@[simp] theorem setCtx_completions (c : Nat) (f : Ctx → Ctx) : (s.setCtx c f).completions = s.completions := rfl
@[simp] theorem setCtx_outstanding (c : Nat) (f : Ctx → Ctx) : (s.setCtx c f).outstanding = s.outstanding := rfl
@[simp] theorem setCtx_asks (c : Nat) (f : Ctx → Ctx) : (s.setCtx c f).asks = s.asks := rfl
@[simp] theorem setCtx_uid (c : Nat) (f : Ctx → Ctx) : (s.setCtx c f).uid = s.uid := rfl
@[simp] theorem setCtx_free (c : Nat) (f : Ctx → Ctx) : (s.setCtx c f).free = s.free := rfl

@[simp] theorem setPort_agenda (e : Nat) (f : Port → Port) : (s.setPort e f).agenda = s.agenda := rfl
@[simp] theorem setPort_cur (e : Nat) (f : Port → Port) : (s.setPort e f).cur = s.cur := rfl
@[simp] theorem setPort_warps (e : Nat) (f : Port → Port) : (s.setPort e f).warps = s.warps := rfl
@[simp] theorem setPort_groups (e : Nat) (f : Port → Port) : (s.setPort e f).groups = s.groups := rfl
@[simp] theorem setPort_grids (e : Nat) (f : Port → Port) : (s.setPort e f).grids = s.grids := rfl
@[simp] theorem setPort_streams (e : Nat) (f : Port → Port) : (s.setPort e f).streams = s.streams := rfl
@[simp] theorem setPort_ops (e : Nat) (f : Port → Port) : (s.setPort e f).ops = s.ops := rfl
@[simp] theorem setPort_posted (e : Nat) (f : Port → Port) : (s.setPort e f).posted = s.posted := rfl
@[simp] theorem setPort_wlog (e : Nat) (f : Port → Port) : (s.setPort e f).wlog = s.wlog := rfl
@[simp] theorem setPort_mem (e : Nat) (f : Port → Port) : (s.setPort e f).mem = s.mem := rfl
@[simp] theorem setPort_memP (e : Nat) (f : Port → Port) : (s.setPort e f).memP = s.memP := rfl
@[simp] theorem setPort_dirty (e : Nat) (f : Port → Port) : (s.setPort e f).dirty = s.dirty := rfl
@[simp] theorem setPort_privMem (e : Nat) (f : Port → Port) : (s.setPort e f).privMem = s.privMem := rfl
@[simp] theorem setPort_privP (e : Nat) (f : Port → Port) : (s.setPort e f).privP = s.privP := rfl
@[simp] theorem setPort_privNext (e : Nat) (f : Port → Port) : (s.setPort e f).privNext = s.privNext := rfl
@[simp] theorem setPort_kept (e : Nat) (f : Port → Port) : (s.setPort e f).kept = s.kept := rfl
@[simp] theorem setPort_icache (e : Nat) (f : Port → Port) : (s.setPort e f).icache = s.icache := rfl
@[simp] theorem setPort_l1 (e : Nat) (f : Port → Port) : (s.setPort e f).l1 = s.l1 := rfl
@[simp] theorem setPort_dies (e : Nat) (f : Port → Port) : (s.setPort e f).dies = s.dies := rfl
@[simp] theorem setPort_ctxs (e : Nat) (f : Port → Port) : (s.setPort e f).ctxs = s.ctxs := rfl
@[simp] theorem setPort_chans (e : Nat) (f : Port → Port) : (s.setPort e f).chans = s.chans := rfl
@[simp] theorem setPort_queues (e : Nat) (f : Port → Port) : (s.setPort e f).queues = s.queues := rfl
@[simp] theorem setPort_acts (e : Nat) (f : Port → Port) : (s.setPort e f).acts = s.acts := rfl
@[simp] theorem setPort_regions (e : Nat) (f : Port → Port) : (s.setPort e f).regions = s.regions := rfl
@[simp] theorem setPort_cyc (e : Nat) (f : Port → Port) : (s.setPort e f).cyc = s.cyc := rfl
@[simp] theorem setPort_ohl1 (e : Nat) (f : Port → Port) : (s.setPort e f).ohl1 = s.ohl1 := rfl
@[simp] theorem setPort_fp6 (e : Nat) (f : Port → Port) : (s.setPort e f).fp6 = s.fp6 := rfl
@[simp] theorem setPort_fp4 (e : Nat) (f : Port → Port) : (s.setPort e f).fp4 = s.fp4 := rfl
@[simp] theorem setPort_fmtTop (e : Nat) (f : Port → Port) : (s.setPort e f).fmtTop = s.fmtTop := rfl
@[simp] theorem setPort_live (e : Nat) (f : Port → Port) : (s.setPort e f).live = s.live := rfl
@[simp] theorem setPort_clockMhz (e : Nat) (f : Port → Port) : (s.setPort e f).clockMhz = s.clockMhz := rfl
@[simp] theorem setPort_booted (e : Nat) (f : Port → Port) : (s.setPort e f).booted = s.booted := rfl
@[simp] theorem setPort_sent (e : Nat) (f : Port → Port) : (s.setPort e f).sent = s.sent := rfl
@[simp] theorem setPort_completions (e : Nat) (f : Port → Port) : (s.setPort e f).completions = s.completions := rfl
@[simp] theorem setPort_outstanding (e : Nat) (f : Port → Port) : (s.setPort e f).outstanding = s.outstanding := rfl
@[simp] theorem setPort_asks (e : Nat) (f : Port → Port) : (s.setPort e f).asks = s.asks := rfl
@[simp] theorem setPort_uid (e : Nat) (f : Port → Port) : (s.setPort e f).uid = s.uid := rfl
@[simp] theorem setPort_free (e : Nat) (f : Port → Port) : (s.setPort e f).free = s.free := rfl

@[simp] theorem setChan_agenda (k : Nat) (f : Chan → Chan) : (s.setChan k f).agenda = s.agenda := rfl
@[simp] theorem setChan_cur (k : Nat) (f : Chan → Chan) : (s.setChan k f).cur = s.cur := rfl
@[simp] theorem setChan_warps (k : Nat) (f : Chan → Chan) : (s.setChan k f).warps = s.warps := rfl
@[simp] theorem setChan_groups (k : Nat) (f : Chan → Chan) : (s.setChan k f).groups = s.groups := rfl
@[simp] theorem setChan_grids (k : Nat) (f : Chan → Chan) : (s.setChan k f).grids = s.grids := rfl
@[simp] theorem setChan_streams (k : Nat) (f : Chan → Chan) : (s.setChan k f).streams = s.streams := rfl
@[simp] theorem setChan_ops (k : Nat) (f : Chan → Chan) : (s.setChan k f).ops = s.ops := rfl
@[simp] theorem setChan_posted (k : Nat) (f : Chan → Chan) : (s.setChan k f).posted = s.posted := rfl
@[simp] theorem setChan_wlog (k : Nat) (f : Chan → Chan) : (s.setChan k f).wlog = s.wlog := rfl
@[simp] theorem setChan_mem (k : Nat) (f : Chan → Chan) : (s.setChan k f).mem = s.mem := rfl
@[simp] theorem setChan_memP (k : Nat) (f : Chan → Chan) : (s.setChan k f).memP = s.memP := rfl
@[simp] theorem setChan_dirty (k : Nat) (f : Chan → Chan) : (s.setChan k f).dirty = s.dirty := rfl
@[simp] theorem setChan_privMem (k : Nat) (f : Chan → Chan) : (s.setChan k f).privMem = s.privMem := rfl
@[simp] theorem setChan_privP (k : Nat) (f : Chan → Chan) : (s.setChan k f).privP = s.privP := rfl
@[simp] theorem setChan_privNext (k : Nat) (f : Chan → Chan) : (s.setChan k f).privNext = s.privNext := rfl
@[simp] theorem setChan_kept (k : Nat) (f : Chan → Chan) : (s.setChan k f).kept = s.kept := rfl
@[simp] theorem setChan_icache (k : Nat) (f : Chan → Chan) : (s.setChan k f).icache = s.icache := rfl
@[simp] theorem setChan_l1 (k : Nat) (f : Chan → Chan) : (s.setChan k f).l1 = s.l1 := rfl
@[simp] theorem setChan_dies (k : Nat) (f : Chan → Chan) : (s.setChan k f).dies = s.dies := rfl
@[simp] theorem setChan_ctxs (k : Nat) (f : Chan → Chan) : (s.setChan k f).ctxs = s.ctxs := rfl
@[simp] theorem setChan_ports (k : Nat) (f : Chan → Chan) : (s.setChan k f).ports = s.ports := rfl
@[simp] theorem setChan_queues (k : Nat) (f : Chan → Chan) : (s.setChan k f).queues = s.queues := rfl
@[simp] theorem setChan_acts (k : Nat) (f : Chan → Chan) : (s.setChan k f).acts = s.acts := rfl
@[simp] theorem setChan_regions (k : Nat) (f : Chan → Chan) : (s.setChan k f).regions = s.regions := rfl
@[simp] theorem setChan_cyc (k : Nat) (f : Chan → Chan) : (s.setChan k f).cyc = s.cyc := rfl
@[simp] theorem setChan_ohl1 (k : Nat) (f : Chan → Chan) : (s.setChan k f).ohl1 = s.ohl1 := rfl
@[simp] theorem setChan_fp6 (k : Nat) (f : Chan → Chan) : (s.setChan k f).fp6 = s.fp6 := rfl
@[simp] theorem setChan_fp4 (k : Nat) (f : Chan → Chan) : (s.setChan k f).fp4 = s.fp4 := rfl
@[simp] theorem setChan_fmtTop (k : Nat) (f : Chan → Chan) : (s.setChan k f).fmtTop = s.fmtTop := rfl
@[simp] theorem setChan_live (k : Nat) (f : Chan → Chan) : (s.setChan k f).live = s.live := rfl
@[simp] theorem setChan_clockMhz (k : Nat) (f : Chan → Chan) : (s.setChan k f).clockMhz = s.clockMhz := rfl
@[simp] theorem setChan_booted (k : Nat) (f : Chan → Chan) : (s.setChan k f).booted = s.booted := rfl
@[simp] theorem setChan_sent (k : Nat) (f : Chan → Chan) : (s.setChan k f).sent = s.sent := rfl
@[simp] theorem setChan_completions (k : Nat) (f : Chan → Chan) : (s.setChan k f).completions = s.completions := rfl
@[simp] theorem setChan_outstanding (k : Nat) (f : Chan → Chan) : (s.setChan k f).outstanding = s.outstanding := rfl
@[simp] theorem setChan_asks (k : Nat) (f : Chan → Chan) : (s.setChan k f).asks = s.asks := rfl
@[simp] theorem setChan_uid (k : Nat) (f : Chan → Chan) : (s.setChan k f).uid = s.uid := rfl
@[simp] theorem setChan_free (k : Nat) (f : Chan → Chan) : (s.setChan k f).free = s.free := rfl

@[simp] theorem setQueue_agenda (q : Nat) (f : Queue → Queue) : (s.setQueue q f).agenda = s.agenda := rfl
@[simp] theorem setQueue_cur (q : Nat) (f : Queue → Queue) : (s.setQueue q f).cur = s.cur := rfl
@[simp] theorem setQueue_warps (q : Nat) (f : Queue → Queue) : (s.setQueue q f).warps = s.warps := rfl
@[simp] theorem setQueue_groups (q : Nat) (f : Queue → Queue) : (s.setQueue q f).groups = s.groups := rfl
@[simp] theorem setQueue_grids (q : Nat) (f : Queue → Queue) : (s.setQueue q f).grids = s.grids := rfl
@[simp] theorem setQueue_streams (q : Nat) (f : Queue → Queue) : (s.setQueue q f).streams = s.streams := rfl
@[simp] theorem setQueue_ops (q : Nat) (f : Queue → Queue) : (s.setQueue q f).ops = s.ops := rfl
@[simp] theorem setQueue_posted (q : Nat) (f : Queue → Queue) : (s.setQueue q f).posted = s.posted := rfl
@[simp] theorem setQueue_wlog (q : Nat) (f : Queue → Queue) : (s.setQueue q f).wlog = s.wlog := rfl
@[simp] theorem setQueue_mem (q : Nat) (f : Queue → Queue) : (s.setQueue q f).mem = s.mem := rfl
@[simp] theorem setQueue_memP (q : Nat) (f : Queue → Queue) : (s.setQueue q f).memP = s.memP := rfl
@[simp] theorem setQueue_dirty (q : Nat) (f : Queue → Queue) : (s.setQueue q f).dirty = s.dirty := rfl
@[simp] theorem setQueue_privMem (q : Nat) (f : Queue → Queue) : (s.setQueue q f).privMem = s.privMem := rfl
@[simp] theorem setQueue_privP (q : Nat) (f : Queue → Queue) : (s.setQueue q f).privP = s.privP := rfl
@[simp] theorem setQueue_privNext (q : Nat) (f : Queue → Queue) : (s.setQueue q f).privNext = s.privNext := rfl
@[simp] theorem setQueue_kept (q : Nat) (f : Queue → Queue) : (s.setQueue q f).kept = s.kept := rfl
@[simp] theorem setQueue_icache (q : Nat) (f : Queue → Queue) : (s.setQueue q f).icache = s.icache := rfl
@[simp] theorem setQueue_l1 (q : Nat) (f : Queue → Queue) : (s.setQueue q f).l1 = s.l1 := rfl
@[simp] theorem setQueue_dies (q : Nat) (f : Queue → Queue) : (s.setQueue q f).dies = s.dies := rfl
@[simp] theorem setQueue_ctxs (q : Nat) (f : Queue → Queue) : (s.setQueue q f).ctxs = s.ctxs := rfl
@[simp] theorem setQueue_ports (q : Nat) (f : Queue → Queue) : (s.setQueue q f).ports = s.ports := rfl
@[simp] theorem setQueue_chans (q : Nat) (f : Queue → Queue) : (s.setQueue q f).chans = s.chans := rfl
@[simp] theorem setQueue_acts (q : Nat) (f : Queue → Queue) : (s.setQueue q f).acts = s.acts := rfl
@[simp] theorem setQueue_regions (q : Nat) (f : Queue → Queue) : (s.setQueue q f).regions = s.regions := rfl
@[simp] theorem setQueue_cyc (q : Nat) (f : Queue → Queue) : (s.setQueue q f).cyc = s.cyc := rfl
@[simp] theorem setQueue_ohl1 (q : Nat) (f : Queue → Queue) : (s.setQueue q f).ohl1 = s.ohl1 := rfl
@[simp] theorem setQueue_fp6 (q : Nat) (f : Queue → Queue) : (s.setQueue q f).fp6 = s.fp6 := rfl
@[simp] theorem setQueue_fp4 (q : Nat) (f : Queue → Queue) : (s.setQueue q f).fp4 = s.fp4 := rfl
@[simp] theorem setQueue_fmtTop (q : Nat) (f : Queue → Queue) : (s.setQueue q f).fmtTop = s.fmtTop := rfl
@[simp] theorem setQueue_live (q : Nat) (f : Queue → Queue) : (s.setQueue q f).live = s.live := rfl
@[simp] theorem setQueue_clockMhz (q : Nat) (f : Queue → Queue) : (s.setQueue q f).clockMhz = s.clockMhz := rfl
@[simp] theorem setQueue_booted (q : Nat) (f : Queue → Queue) : (s.setQueue q f).booted = s.booted := rfl
@[simp] theorem setQueue_sent (q : Nat) (f : Queue → Queue) : (s.setQueue q f).sent = s.sent := rfl
@[simp] theorem setQueue_completions (q : Nat) (f : Queue → Queue) : (s.setQueue q f).completions = s.completions := rfl
@[simp] theorem setQueue_outstanding (q : Nat) (f : Queue → Queue) : (s.setQueue q f).outstanding = s.outstanding := rfl
@[simp] theorem setQueue_asks (q : Nat) (f : Queue → Queue) : (s.setQueue q f).asks = s.asks := rfl
@[simp] theorem setQueue_uid (q : Nat) (f : Queue → Queue) : (s.setQueue q f).uid = s.uid := rfl
@[simp] theorem setQueue_free (q : Nat) (f : Queue → Queue) : (s.setQueue q f).free = s.free := rfl

@[simp] theorem setOp_agenda (n : Nat) (k : OpKind) : (s.setOp n k).agenda = s.agenda := rfl
@[simp] theorem setOp_cur (n : Nat) (k : OpKind) : (s.setOp n k).cur = s.cur := rfl
@[simp] theorem setOp_warps (n : Nat) (k : OpKind) : (s.setOp n k).warps = s.warps := rfl
@[simp] theorem setOp_groups (n : Nat) (k : OpKind) : (s.setOp n k).groups = s.groups := rfl
@[simp] theorem setOp_grids (n : Nat) (k : OpKind) : (s.setOp n k).grids = s.grids := rfl
@[simp] theorem setOp_streams (n : Nat) (k : OpKind) : (s.setOp n k).streams = s.streams := rfl
@[simp] theorem setOp_posted (n : Nat) (k : OpKind) : (s.setOp n k).posted = s.posted := rfl
@[simp] theorem setOp_wlog (n : Nat) (k : OpKind) : (s.setOp n k).wlog = s.wlog := rfl
@[simp] theorem setOp_mem (n : Nat) (k : OpKind) : (s.setOp n k).mem = s.mem := rfl
@[simp] theorem setOp_memP (n : Nat) (k : OpKind) : (s.setOp n k).memP = s.memP := rfl
@[simp] theorem setOp_dirty (n : Nat) (k : OpKind) : (s.setOp n k).dirty = s.dirty := rfl
@[simp] theorem setOp_privMem (n : Nat) (k : OpKind) : (s.setOp n k).privMem = s.privMem := rfl
@[simp] theorem setOp_privP (n : Nat) (k : OpKind) : (s.setOp n k).privP = s.privP := rfl
@[simp] theorem setOp_privNext (n : Nat) (k : OpKind) : (s.setOp n k).privNext = s.privNext := rfl
@[simp] theorem setOp_kept (n : Nat) (k : OpKind) : (s.setOp n k).kept = s.kept := rfl
@[simp] theorem setOp_icache (n : Nat) (k : OpKind) : (s.setOp n k).icache = s.icache := rfl
@[simp] theorem setOp_l1 (n : Nat) (k : OpKind) : (s.setOp n k).l1 = s.l1 := rfl
@[simp] theorem setOp_dies (n : Nat) (k : OpKind) : (s.setOp n k).dies = s.dies := rfl
@[simp] theorem setOp_ctxs (n : Nat) (k : OpKind) : (s.setOp n k).ctxs = s.ctxs := rfl
@[simp] theorem setOp_ports (n : Nat) (k : OpKind) : (s.setOp n k).ports = s.ports := rfl
@[simp] theorem setOp_chans (n : Nat) (k : OpKind) : (s.setOp n k).chans = s.chans := rfl
@[simp] theorem setOp_queues (n : Nat) (k : OpKind) : (s.setOp n k).queues = s.queues := rfl
@[simp] theorem setOp_acts (n : Nat) (k : OpKind) : (s.setOp n k).acts = s.acts := rfl
@[simp] theorem setOp_regions (n : Nat) (k : OpKind) : (s.setOp n k).regions = s.regions := rfl
@[simp] theorem setOp_cyc (n : Nat) (k : OpKind) : (s.setOp n k).cyc = s.cyc := rfl
@[simp] theorem setOp_ohl1 (n : Nat) (k : OpKind) : (s.setOp n k).ohl1 = s.ohl1 := rfl
@[simp] theorem setOp_fp6 (n : Nat) (k : OpKind) : (s.setOp n k).fp6 = s.fp6 := rfl
@[simp] theorem setOp_fp4 (n : Nat) (k : OpKind) : (s.setOp n k).fp4 = s.fp4 := rfl
@[simp] theorem setOp_fmtTop (n : Nat) (k : OpKind) : (s.setOp n k).fmtTop = s.fmtTop := rfl
@[simp] theorem setOp_live (n : Nat) (k : OpKind) : (s.setOp n k).live = s.live := rfl
@[simp] theorem setOp_clockMhz (n : Nat) (k : OpKind) : (s.setOp n k).clockMhz = s.clockMhz := rfl
@[simp] theorem setOp_booted (n : Nat) (k : OpKind) : (s.setOp n k).booted = s.booted := rfl
@[simp] theorem setOp_sent (n : Nat) (k : OpKind) : (s.setOp n k).sent = s.sent := rfl
@[simp] theorem setOp_completions (n : Nat) (k : OpKind) : (s.setOp n k).completions = s.completions := rfl
@[simp] theorem setOp_outstanding (n : Nat) (k : OpKind) : (s.setOp n k).outstanding = s.outstanding := rfl
@[simp] theorem setOp_asks (n : Nat) (k : OpKind) : (s.setOp n k).asks = s.asks := rfl
@[simp] theorem setOp_uid (n : Nat) (k : OpKind) : (s.setOp n k).uid = s.uid := rfl
@[simp] theorem setOp_free (n : Nat) (k : OpKind) : (s.setOp n k).free = s.free := rfl

@[simp] theorem send_agenda (m : Msg) : (s.send m).agenda = s.agenda := rfl
@[simp] theorem send_cur (m : Msg) : (s.send m).cur = s.cur := rfl
@[simp] theorem send_warps (m : Msg) : (s.send m).warps = s.warps := rfl
@[simp] theorem send_groups (m : Msg) : (s.send m).groups = s.groups := rfl
@[simp] theorem send_grids (m : Msg) : (s.send m).grids = s.grids := rfl
@[simp] theorem send_streams (m : Msg) : (s.send m).streams = s.streams := rfl
@[simp] theorem send_ops (m : Msg) : (s.send m).ops = s.ops := rfl
@[simp] theorem send_posted (m : Msg) : (s.send m).posted = s.posted := rfl
@[simp] theorem send_wlog (m : Msg) : (s.send m).wlog = s.wlog := rfl
@[simp] theorem send_mem (m : Msg) : (s.send m).mem = s.mem := rfl
@[simp] theorem send_memP (m : Msg) : (s.send m).memP = s.memP := rfl
@[simp] theorem send_dirty (m : Msg) : (s.send m).dirty = s.dirty := rfl
@[simp] theorem send_privMem (m : Msg) : (s.send m).privMem = s.privMem := rfl
@[simp] theorem send_privP (m : Msg) : (s.send m).privP = s.privP := rfl
@[simp] theorem send_privNext (m : Msg) : (s.send m).privNext = s.privNext := rfl
@[simp] theorem send_kept (m : Msg) : (s.send m).kept = s.kept := rfl
@[simp] theorem send_icache (m : Msg) : (s.send m).icache = s.icache := rfl
@[simp] theorem send_l1 (m : Msg) : (s.send m).l1 = s.l1 := rfl
@[simp] theorem send_dies (m : Msg) : (s.send m).dies = s.dies := rfl
@[simp] theorem send_ctxs (m : Msg) : (s.send m).ctxs = s.ctxs := rfl
@[simp] theorem send_ports (m : Msg) : (s.send m).ports = s.ports := rfl
@[simp] theorem send_chans (m : Msg) : (s.send m).chans = s.chans := rfl
@[simp] theorem send_queues (m : Msg) : (s.send m).queues = s.queues := rfl
@[simp] theorem send_acts (m : Msg) : (s.send m).acts = s.acts := rfl
@[simp] theorem send_regions (m : Msg) : (s.send m).regions = s.regions := rfl
@[simp] theorem send_cyc (m : Msg) : (s.send m).cyc = s.cyc := rfl
@[simp] theorem send_ohl1 (m : Msg) : (s.send m).ohl1 = s.ohl1 := rfl
@[simp] theorem send_fp6 (m : Msg) : (s.send m).fp6 = s.fp6 := rfl
@[simp] theorem send_fp4 (m : Msg) : (s.send m).fp4 = s.fp4 := rfl
@[simp] theorem send_fmtTop (m : Msg) : (s.send m).fmtTop = s.fmtTop := rfl
@[simp] theorem send_live (m : Msg) : (s.send m).live = s.live := rfl
@[simp] theorem send_clockMhz (m : Msg) : (s.send m).clockMhz = s.clockMhz := rfl
@[simp] theorem send_booted (m : Msg) : (s.send m).booted = s.booted := rfl
@[simp] theorem send_completions (m : Msg) : (s.send m).completions = s.completions := rfl
@[simp] theorem send_outstanding (m : Msg) : (s.send m).outstanding = s.outstanding := rfl
@[simp] theorem send_asks (m : Msg) : (s.send m).asks = s.asks := rfl
@[simp] theorem send_uid (m : Msg) : (s.send m).uid = s.uid := rfl
@[simp] theorem send_free (m : Msg) : (s.send m).free = s.free := rfl

@[simp] theorem pend_agenda (c : Cx) (r : List RegRef) (p : Option (Path × Nat)) (k : OpKind) : (s.pend c r p k).agenda = s.agenda := rfl
@[simp] theorem pend_cur (c : Cx) (r : List RegRef) (p : Option (Path × Nat)) (k : OpKind) : (s.pend c r p k).cur = s.cur := rfl
@[simp] theorem pend_warps (c : Cx) (r : List RegRef) (p : Option (Path × Nat)) (k : OpKind) : (s.pend c r p k).warps = s.warps := rfl
@[simp] theorem pend_groups (c : Cx) (r : List RegRef) (p : Option (Path × Nat)) (k : OpKind) : (s.pend c r p k).groups = s.groups := rfl
@[simp] theorem pend_grids (c : Cx) (r : List RegRef) (p : Option (Path × Nat)) (k : OpKind) : (s.pend c r p k).grids = s.grids := rfl
@[simp] theorem pend_streams (c : Cx) (r : List RegRef) (p : Option (Path × Nat)) (k : OpKind) : (s.pend c r p k).streams = s.streams := rfl
@[simp] theorem pend_posted (c : Cx) (r : List RegRef) (p : Option (Path × Nat)) (k : OpKind) : (s.pend c r p k).posted = s.posted := rfl
@[simp] theorem pend_wlog (c : Cx) (r : List RegRef) (p : Option (Path × Nat)) (k : OpKind) : (s.pend c r p k).wlog = s.wlog := rfl
@[simp] theorem pend_mem (c : Cx) (r : List RegRef) (p : Option (Path × Nat)) (k : OpKind) : (s.pend c r p k).mem = s.mem := rfl
@[simp] theorem pend_memP (c : Cx) (r : List RegRef) (p : Option (Path × Nat)) (k : OpKind) : (s.pend c r p k).memP = s.memP := rfl
@[simp] theorem pend_dirty (c : Cx) (r : List RegRef) (p : Option (Path × Nat)) (k : OpKind) : (s.pend c r p k).dirty = s.dirty := rfl
@[simp] theorem pend_privMem (c : Cx) (r : List RegRef) (p : Option (Path × Nat)) (k : OpKind) : (s.pend c r p k).privMem = s.privMem := rfl
@[simp] theorem pend_privP (c : Cx) (r : List RegRef) (p : Option (Path × Nat)) (k : OpKind) : (s.pend c r p k).privP = s.privP := rfl
@[simp] theorem pend_privNext (c : Cx) (r : List RegRef) (p : Option (Path × Nat)) (k : OpKind) : (s.pend c r p k).privNext = s.privNext := rfl
@[simp] theorem pend_kept (c : Cx) (r : List RegRef) (p : Option (Path × Nat)) (k : OpKind) : (s.pend c r p k).kept = s.kept := rfl
@[simp] theorem pend_icache (c : Cx) (r : List RegRef) (p : Option (Path × Nat)) (k : OpKind) : (s.pend c r p k).icache = s.icache := rfl
@[simp] theorem pend_l1 (c : Cx) (r : List RegRef) (p : Option (Path × Nat)) (k : OpKind) : (s.pend c r p k).l1 = s.l1 := rfl
@[simp] theorem pend_dies (c : Cx) (r : List RegRef) (p : Option (Path × Nat)) (k : OpKind) : (s.pend c r p k).dies = s.dies := rfl
@[simp] theorem pend_ctxs (c : Cx) (r : List RegRef) (p : Option (Path × Nat)) (k : OpKind) : (s.pend c r p k).ctxs = s.ctxs := rfl
@[simp] theorem pend_ports (c : Cx) (r : List RegRef) (p : Option (Path × Nat)) (k : OpKind) : (s.pend c r p k).ports = s.ports := rfl
@[simp] theorem pend_chans (c : Cx) (r : List RegRef) (p : Option (Path × Nat)) (k : OpKind) : (s.pend c r p k).chans = s.chans := rfl
@[simp] theorem pend_queues (c : Cx) (r : List RegRef) (p : Option (Path × Nat)) (k : OpKind) : (s.pend c r p k).queues = s.queues := rfl
@[simp] theorem pend_acts (c : Cx) (r : List RegRef) (p : Option (Path × Nat)) (k : OpKind) : (s.pend c r p k).acts = s.acts := rfl
@[simp] theorem pend_regions (c : Cx) (r : List RegRef) (p : Option (Path × Nat)) (k : OpKind) : (s.pend c r p k).regions = s.regions := rfl
@[simp] theorem pend_cyc (c : Cx) (r : List RegRef) (p : Option (Path × Nat)) (k : OpKind) : (s.pend c r p k).cyc = s.cyc := rfl
@[simp] theorem pend_ohl1 (c : Cx) (r : List RegRef) (p : Option (Path × Nat)) (k : OpKind) : (s.pend c r p k).ohl1 = s.ohl1 := rfl
@[simp] theorem pend_fp6 (c : Cx) (r : List RegRef) (p : Option (Path × Nat)) (k : OpKind) : (s.pend c r p k).fp6 = s.fp6 := rfl
@[simp] theorem pend_fp4 (c : Cx) (r : List RegRef) (p : Option (Path × Nat)) (k : OpKind) : (s.pend c r p k).fp4 = s.fp4 := rfl
@[simp] theorem pend_fmtTop (c : Cx) (r : List RegRef) (p : Option (Path × Nat)) (k : OpKind) : (s.pend c r p k).fmtTop = s.fmtTop := rfl
@[simp] theorem pend_live (c : Cx) (r : List RegRef) (p : Option (Path × Nat)) (k : OpKind) : (s.pend c r p k).live = s.live := rfl
@[simp] theorem pend_clockMhz (c : Cx) (r : List RegRef) (p : Option (Path × Nat)) (k : OpKind) : (s.pend c r p k).clockMhz = s.clockMhz := rfl
@[simp] theorem pend_booted (c : Cx) (r : List RegRef) (p : Option (Path × Nat)) (k : OpKind) : (s.pend c r p k).booted = s.booted := rfl
@[simp] theorem pend_sent (c : Cx) (r : List RegRef) (p : Option (Path × Nat)) (k : OpKind) : (s.pend c r p k).sent = s.sent := rfl
@[simp] theorem pend_completions (c : Cx) (r : List RegRef) (p : Option (Path × Nat)) (k : OpKind) : (s.pend c r p k).completions = s.completions := rfl
@[simp] theorem pend_outstanding (c : Cx) (r : List RegRef) (p : Option (Path × Nat)) (k : OpKind) : (s.pend c r p k).outstanding = s.outstanding := rfl
@[simp] theorem pend_asks (c : Cx) (r : List RegRef) (p : Option (Path × Nat)) (k : OpKind) : (s.pend c r p k).asks = s.asks := rfl
@[simp] theorem pend_free (c : Cx) (r : List RegRef) (p : Option (Path × Nat)) (k : OpKind) : (s.pend c r p k).free = s.free := rfl

@[simp] theorem after_agenda (c : Cx) (f : Warp → Warp) : (s.after c f).agenda = s.agenda := rfl
@[simp] theorem after_cur (c : Cx) (f : Warp → Warp) : (s.after c f).cur = s.cur := rfl
@[simp] theorem after_groups (c : Cx) (f : Warp → Warp) : (s.after c f).groups = s.groups := rfl
@[simp] theorem after_grids (c : Cx) (f : Warp → Warp) : (s.after c f).grids = s.grids := rfl
@[simp] theorem after_streams (c : Cx) (f : Warp → Warp) : (s.after c f).streams = s.streams := rfl
@[simp] theorem after_ops (c : Cx) (f : Warp → Warp) : (s.after c f).ops = s.ops := rfl
@[simp] theorem after_posted (c : Cx) (f : Warp → Warp) : (s.after c f).posted = s.posted := rfl
@[simp] theorem after_wlog (c : Cx) (f : Warp → Warp) : (s.after c f).wlog = s.wlog := rfl
@[simp] theorem after_mem (c : Cx) (f : Warp → Warp) : (s.after c f).mem = s.mem := rfl
@[simp] theorem after_memP (c : Cx) (f : Warp → Warp) : (s.after c f).memP = s.memP := rfl
@[simp] theorem after_dirty (c : Cx) (f : Warp → Warp) : (s.after c f).dirty = s.dirty := rfl
@[simp] theorem after_privMem (c : Cx) (f : Warp → Warp) : (s.after c f).privMem = s.privMem := rfl
@[simp] theorem after_privP (c : Cx) (f : Warp → Warp) : (s.after c f).privP = s.privP := rfl
@[simp] theorem after_privNext (c : Cx) (f : Warp → Warp) : (s.after c f).privNext = s.privNext := rfl
@[simp] theorem after_kept (c : Cx) (f : Warp → Warp) : (s.after c f).kept = s.kept := rfl
@[simp] theorem after_icache (c : Cx) (f : Warp → Warp) : (s.after c f).icache = s.icache := rfl
@[simp] theorem after_l1 (c : Cx) (f : Warp → Warp) : (s.after c f).l1 = s.l1 := rfl
@[simp] theorem after_dies (c : Cx) (f : Warp → Warp) : (s.after c f).dies = s.dies := rfl
@[simp] theorem after_ctxs (c : Cx) (f : Warp → Warp) : (s.after c f).ctxs = s.ctxs := rfl
@[simp] theorem after_ports (c : Cx) (f : Warp → Warp) : (s.after c f).ports = s.ports := rfl
@[simp] theorem after_chans (c : Cx) (f : Warp → Warp) : (s.after c f).chans = s.chans := rfl
@[simp] theorem after_queues (c : Cx) (f : Warp → Warp) : (s.after c f).queues = s.queues := rfl
@[simp] theorem after_acts (c : Cx) (f : Warp → Warp) : (s.after c f).acts = s.acts := rfl
@[simp] theorem after_regions (c : Cx) (f : Warp → Warp) : (s.after c f).regions = s.regions := rfl
@[simp] theorem after_ohl1 (c : Cx) (f : Warp → Warp) : (s.after c f).ohl1 = s.ohl1 := rfl
@[simp] theorem after_fp6 (c : Cx) (f : Warp → Warp) : (s.after c f).fp6 = s.fp6 := rfl
@[simp] theorem after_fp4 (c : Cx) (f : Warp → Warp) : (s.after c f).fp4 = s.fp4 := rfl
@[simp] theorem after_fmtTop (c : Cx) (f : Warp → Warp) : (s.after c f).fmtTop = s.fmtTop := rfl
@[simp] theorem after_live (c : Cx) (f : Warp → Warp) : (s.after c f).live = s.live := rfl
@[simp] theorem after_clockMhz (c : Cx) (f : Warp → Warp) : (s.after c f).clockMhz = s.clockMhz := rfl
@[simp] theorem after_booted (c : Cx) (f : Warp → Warp) : (s.after c f).booted = s.booted := rfl
@[simp] theorem after_sent (c : Cx) (f : Warp → Warp) : (s.after c f).sent = s.sent := rfl
@[simp] theorem after_completions (c : Cx) (f : Warp → Warp) : (s.after c f).completions = s.completions := rfl
@[simp] theorem after_outstanding (c : Cx) (f : Warp → Warp) : (s.after c f).outstanding = s.outstanding := rfl
@[simp] theorem after_asks (c : Cx) (f : Warp → Warp) : (s.after c f).asks = s.asks := rfl
@[simp] theorem after_uid (c : Cx) (f : Warp → Warp) : (s.after c f).uid = s.uid := rfl
@[simp] theorem after_free (c : Cx) (f : Warp → Warp) : (s.after c f).free = s.free := rfl

@[simp] theorem setWarp_agenda (w : Nat) (f : Warp → Warp) : (s.setWarp w f).agenda = s.agenda := by unfold State.setWarp; split <;> rfl
@[simp] theorem setWarp_cur (w : Nat) (f : Warp → Warp) : (s.setWarp w f).cur = s.cur := by unfold State.setWarp; split <;> rfl
@[simp] theorem setWarp_groups (w : Nat) (f : Warp → Warp) : (s.setWarp w f).groups = s.groups := by unfold State.setWarp; split <;> rfl
@[simp] theorem setWarp_grids (w : Nat) (f : Warp → Warp) : (s.setWarp w f).grids = s.grids := by unfold State.setWarp; split <;> rfl
@[simp] theorem setWarp_streams (w : Nat) (f : Warp → Warp) : (s.setWarp w f).streams = s.streams := by unfold State.setWarp; split <;> rfl
@[simp] theorem setWarp_ops (w : Nat) (f : Warp → Warp) : (s.setWarp w f).ops = s.ops := by unfold State.setWarp; split <;> rfl
@[simp] theorem setWarp_posted (w : Nat) (f : Warp → Warp) : (s.setWarp w f).posted = s.posted := by unfold State.setWarp; split <;> rfl
@[simp] theorem setWarp_wlog (w : Nat) (f : Warp → Warp) : (s.setWarp w f).wlog = s.wlog := by unfold State.setWarp; split <;> rfl
@[simp] theorem setWarp_mem (w : Nat) (f : Warp → Warp) : (s.setWarp w f).mem = s.mem := by unfold State.setWarp; split <;> rfl
@[simp] theorem setWarp_memP (w : Nat) (f : Warp → Warp) : (s.setWarp w f).memP = s.memP := by unfold State.setWarp; split <;> rfl
@[simp] theorem setWarp_dirty (w : Nat) (f : Warp → Warp) : (s.setWarp w f).dirty = s.dirty := by unfold State.setWarp; split <;> rfl
@[simp] theorem setWarp_privMem (w : Nat) (f : Warp → Warp) : (s.setWarp w f).privMem = s.privMem := by unfold State.setWarp; split <;> rfl
@[simp] theorem setWarp_privP (w : Nat) (f : Warp → Warp) : (s.setWarp w f).privP = s.privP := by unfold State.setWarp; split <;> rfl
@[simp] theorem setWarp_privNext (w : Nat) (f : Warp → Warp) : (s.setWarp w f).privNext = s.privNext := by unfold State.setWarp; split <;> rfl
@[simp] theorem setWarp_kept (w : Nat) (f : Warp → Warp) : (s.setWarp w f).kept = s.kept := by unfold State.setWarp; split <;> rfl
@[simp] theorem setWarp_icache (w : Nat) (f : Warp → Warp) : (s.setWarp w f).icache = s.icache := by unfold State.setWarp; split <;> rfl
@[simp] theorem setWarp_l1 (w : Nat) (f : Warp → Warp) : (s.setWarp w f).l1 = s.l1 := by unfold State.setWarp; split <;> rfl
@[simp] theorem setWarp_dies (w : Nat) (f : Warp → Warp) : (s.setWarp w f).dies = s.dies := by unfold State.setWarp; split <;> rfl
@[simp] theorem setWarp_ctxs (w : Nat) (f : Warp → Warp) : (s.setWarp w f).ctxs = s.ctxs := by unfold State.setWarp; split <;> rfl
@[simp] theorem setWarp_ports (w : Nat) (f : Warp → Warp) : (s.setWarp w f).ports = s.ports := by unfold State.setWarp; split <;> rfl
@[simp] theorem setWarp_chans (w : Nat) (f : Warp → Warp) : (s.setWarp w f).chans = s.chans := by unfold State.setWarp; split <;> rfl
@[simp] theorem setWarp_queues (w : Nat) (f : Warp → Warp) : (s.setWarp w f).queues = s.queues := by unfold State.setWarp; split <;> rfl
@[simp] theorem setWarp_acts (w : Nat) (f : Warp → Warp) : (s.setWarp w f).acts = s.acts := by unfold State.setWarp; split <;> rfl
@[simp] theorem setWarp_regions (w : Nat) (f : Warp → Warp) : (s.setWarp w f).regions = s.regions := by unfold State.setWarp; split <;> rfl
@[simp] theorem setWarp_cyc (w : Nat) (f : Warp → Warp) : (s.setWarp w f).cyc = s.cyc := by unfold State.setWarp; split <;> rfl
@[simp] theorem setWarp_ohl1 (w : Nat) (f : Warp → Warp) : (s.setWarp w f).ohl1 = s.ohl1 := by unfold State.setWarp; split <;> rfl
@[simp] theorem setWarp_fp6 (w : Nat) (f : Warp → Warp) : (s.setWarp w f).fp6 = s.fp6 := by unfold State.setWarp; split <;> rfl
@[simp] theorem setWarp_fp4 (w : Nat) (f : Warp → Warp) : (s.setWarp w f).fp4 = s.fp4 := by unfold State.setWarp; split <;> rfl
@[simp] theorem setWarp_fmtTop (w : Nat) (f : Warp → Warp) : (s.setWarp w f).fmtTop = s.fmtTop := by unfold State.setWarp; split <;> rfl
@[simp] theorem setWarp_live (w : Nat) (f : Warp → Warp) : (s.setWarp w f).live = s.live := by unfold State.setWarp; split <;> rfl
@[simp] theorem setWarp_clockMhz (w : Nat) (f : Warp → Warp) : (s.setWarp w f).clockMhz = s.clockMhz := by unfold State.setWarp; split <;> rfl
@[simp] theorem setWarp_booted (w : Nat) (f : Warp → Warp) : (s.setWarp w f).booted = s.booted := by unfold State.setWarp; split <;> rfl
@[simp] theorem setWarp_sent (w : Nat) (f : Warp → Warp) : (s.setWarp w f).sent = s.sent := by unfold State.setWarp; split <;> rfl
@[simp] theorem setWarp_completions (w : Nat) (f : Warp → Warp) : (s.setWarp w f).completions = s.completions := by unfold State.setWarp; split <;> rfl
@[simp] theorem setWarp_outstanding (w : Nat) (f : Warp → Warp) : (s.setWarp w f).outstanding = s.outstanding := by unfold State.setWarp; split <;> rfl
@[simp] theorem setWarp_asks (w : Nat) (f : Warp → Warp) : (s.setWarp w f).asks = s.asks := by unfold State.setWarp; split <;> rfl
@[simp] theorem setWarp_uid (w : Nat) (f : Warp → Warp) : (s.setWarp w f).uid = s.uid := by unfold State.setWarp; split <;> rfl
@[simp] theorem setWarp_free (w : Nat) (f : Warp → Warp) : (s.setWarp w f).free = s.free := by unfold State.setWarp; split <;> rfl

@[simp] theorem setGroup_agenda (g : Nat) (f : Group → Group) : (s.setGroup g f).agenda = s.agenda := by unfold State.setGroup; split <;> rfl
@[simp] theorem setGroup_cur (g : Nat) (f : Group → Group) : (s.setGroup g f).cur = s.cur := by unfold State.setGroup; split <;> rfl
@[simp] theorem setGroup_warps (g : Nat) (f : Group → Group) : (s.setGroup g f).warps = s.warps := by unfold State.setGroup; split <;> rfl
@[simp] theorem setGroup_grids (g : Nat) (f : Group → Group) : (s.setGroup g f).grids = s.grids := by unfold State.setGroup; split <;> rfl
@[simp] theorem setGroup_streams (g : Nat) (f : Group → Group) : (s.setGroup g f).streams = s.streams := by unfold State.setGroup; split <;> rfl
@[simp] theorem setGroup_ops (g : Nat) (f : Group → Group) : (s.setGroup g f).ops = s.ops := by unfold State.setGroup; split <;> rfl
@[simp] theorem setGroup_posted (g : Nat) (f : Group → Group) : (s.setGroup g f).posted = s.posted := by unfold State.setGroup; split <;> rfl
@[simp] theorem setGroup_wlog (g : Nat) (f : Group → Group) : (s.setGroup g f).wlog = s.wlog := by unfold State.setGroup; split <;> rfl
@[simp] theorem setGroup_mem (g : Nat) (f : Group → Group) : (s.setGroup g f).mem = s.mem := by unfold State.setGroup; split <;> rfl
@[simp] theorem setGroup_memP (g : Nat) (f : Group → Group) : (s.setGroup g f).memP = s.memP := by unfold State.setGroup; split <;> rfl
@[simp] theorem setGroup_dirty (g : Nat) (f : Group → Group) : (s.setGroup g f).dirty = s.dirty := by unfold State.setGroup; split <;> rfl
@[simp] theorem setGroup_privMem (g : Nat) (f : Group → Group) : (s.setGroup g f).privMem = s.privMem := by unfold State.setGroup; split <;> rfl
@[simp] theorem setGroup_privP (g : Nat) (f : Group → Group) : (s.setGroup g f).privP = s.privP := by unfold State.setGroup; split <;> rfl
@[simp] theorem setGroup_privNext (g : Nat) (f : Group → Group) : (s.setGroup g f).privNext = s.privNext := by unfold State.setGroup; split <;> rfl
@[simp] theorem setGroup_kept (g : Nat) (f : Group → Group) : (s.setGroup g f).kept = s.kept := by unfold State.setGroup; split <;> rfl
@[simp] theorem setGroup_icache (g : Nat) (f : Group → Group) : (s.setGroup g f).icache = s.icache := by unfold State.setGroup; split <;> rfl
@[simp] theorem setGroup_l1 (g : Nat) (f : Group → Group) : (s.setGroup g f).l1 = s.l1 := by unfold State.setGroup; split <;> rfl
@[simp] theorem setGroup_dies (g : Nat) (f : Group → Group) : (s.setGroup g f).dies = s.dies := by unfold State.setGroup; split <;> rfl
@[simp] theorem setGroup_ctxs (g : Nat) (f : Group → Group) : (s.setGroup g f).ctxs = s.ctxs := by unfold State.setGroup; split <;> rfl
@[simp] theorem setGroup_ports (g : Nat) (f : Group → Group) : (s.setGroup g f).ports = s.ports := by unfold State.setGroup; split <;> rfl
@[simp] theorem setGroup_chans (g : Nat) (f : Group → Group) : (s.setGroup g f).chans = s.chans := by unfold State.setGroup; split <;> rfl
@[simp] theorem setGroup_queues (g : Nat) (f : Group → Group) : (s.setGroup g f).queues = s.queues := by unfold State.setGroup; split <;> rfl
@[simp] theorem setGroup_acts (g : Nat) (f : Group → Group) : (s.setGroup g f).acts = s.acts := by unfold State.setGroup; split <;> rfl
@[simp] theorem setGroup_regions (g : Nat) (f : Group → Group) : (s.setGroup g f).regions = s.regions := by unfold State.setGroup; split <;> rfl
@[simp] theorem setGroup_cyc (g : Nat) (f : Group → Group) : (s.setGroup g f).cyc = s.cyc := by unfold State.setGroup; split <;> rfl
@[simp] theorem setGroup_ohl1 (g : Nat) (f : Group → Group) : (s.setGroup g f).ohl1 = s.ohl1 := by unfold State.setGroup; split <;> rfl
@[simp] theorem setGroup_fp6 (g : Nat) (f : Group → Group) : (s.setGroup g f).fp6 = s.fp6 := by unfold State.setGroup; split <;> rfl
@[simp] theorem setGroup_fp4 (g : Nat) (f : Group → Group) : (s.setGroup g f).fp4 = s.fp4 := by unfold State.setGroup; split <;> rfl
@[simp] theorem setGroup_fmtTop (g : Nat) (f : Group → Group) : (s.setGroup g f).fmtTop = s.fmtTop := by unfold State.setGroup; split <;> rfl
@[simp] theorem setGroup_live (g : Nat) (f : Group → Group) : (s.setGroup g f).live = s.live := by unfold State.setGroup; split <;> rfl
@[simp] theorem setGroup_clockMhz (g : Nat) (f : Group → Group) : (s.setGroup g f).clockMhz = s.clockMhz := by unfold State.setGroup; split <;> rfl
@[simp] theorem setGroup_booted (g : Nat) (f : Group → Group) : (s.setGroup g f).booted = s.booted := by unfold State.setGroup; split <;> rfl
@[simp] theorem setGroup_sent (g : Nat) (f : Group → Group) : (s.setGroup g f).sent = s.sent := by unfold State.setGroup; split <;> rfl
@[simp] theorem setGroup_completions (g : Nat) (f : Group → Group) : (s.setGroup g f).completions = s.completions := by unfold State.setGroup; split <;> rfl
@[simp] theorem setGroup_outstanding (g : Nat) (f : Group → Group) : (s.setGroup g f).outstanding = s.outstanding := by unfold State.setGroup; split <;> rfl
@[simp] theorem setGroup_asks (g : Nat) (f : Group → Group) : (s.setGroup g f).asks = s.asks := by unfold State.setGroup; split <;> rfl
@[simp] theorem setGroup_uid (g : Nat) (f : Group → Group) : (s.setGroup g f).uid = s.uid := by unfold State.setGroup; split <;> rfl
@[simp] theorem setGroup_free (g : Nat) (f : Group → Group) : (s.setGroup g f).free = s.free := by unfold State.setGroup; split <;> rfl

@[simp] theorem setGrid_agenda (g : Nat) (f : Grid → Grid) : (s.setGrid g f).agenda = s.agenda := by unfold State.setGrid; split <;> rfl
@[simp] theorem setGrid_cur (g : Nat) (f : Grid → Grid) : (s.setGrid g f).cur = s.cur := by unfold State.setGrid; split <;> rfl
@[simp] theorem setGrid_warps (g : Nat) (f : Grid → Grid) : (s.setGrid g f).warps = s.warps := by unfold State.setGrid; split <;> rfl
@[simp] theorem setGrid_groups (g : Nat) (f : Grid → Grid) : (s.setGrid g f).groups = s.groups := by unfold State.setGrid; split <;> rfl
@[simp] theorem setGrid_streams (g : Nat) (f : Grid → Grid) : (s.setGrid g f).streams = s.streams := by unfold State.setGrid; split <;> rfl
@[simp] theorem setGrid_ops (g : Nat) (f : Grid → Grid) : (s.setGrid g f).ops = s.ops := by unfold State.setGrid; split <;> rfl
@[simp] theorem setGrid_posted (g : Nat) (f : Grid → Grid) : (s.setGrid g f).posted = s.posted := by unfold State.setGrid; split <;> rfl
@[simp] theorem setGrid_wlog (g : Nat) (f : Grid → Grid) : (s.setGrid g f).wlog = s.wlog := by unfold State.setGrid; split <;> rfl
@[simp] theorem setGrid_mem (g : Nat) (f : Grid → Grid) : (s.setGrid g f).mem = s.mem := by unfold State.setGrid; split <;> rfl
@[simp] theorem setGrid_memP (g : Nat) (f : Grid → Grid) : (s.setGrid g f).memP = s.memP := by unfold State.setGrid; split <;> rfl
@[simp] theorem setGrid_dirty (g : Nat) (f : Grid → Grid) : (s.setGrid g f).dirty = s.dirty := by unfold State.setGrid; split <;> rfl
@[simp] theorem setGrid_privMem (g : Nat) (f : Grid → Grid) : (s.setGrid g f).privMem = s.privMem := by unfold State.setGrid; split <;> rfl
@[simp] theorem setGrid_privP (g : Nat) (f : Grid → Grid) : (s.setGrid g f).privP = s.privP := by unfold State.setGrid; split <;> rfl
@[simp] theorem setGrid_privNext (g : Nat) (f : Grid → Grid) : (s.setGrid g f).privNext = s.privNext := by unfold State.setGrid; split <;> rfl
@[simp] theorem setGrid_kept (g : Nat) (f : Grid → Grid) : (s.setGrid g f).kept = s.kept := by unfold State.setGrid; split <;> rfl
@[simp] theorem setGrid_icache (g : Nat) (f : Grid → Grid) : (s.setGrid g f).icache = s.icache := by unfold State.setGrid; split <;> rfl
@[simp] theorem setGrid_l1 (g : Nat) (f : Grid → Grid) : (s.setGrid g f).l1 = s.l1 := by unfold State.setGrid; split <;> rfl
@[simp] theorem setGrid_dies (g : Nat) (f : Grid → Grid) : (s.setGrid g f).dies = s.dies := by unfold State.setGrid; split <;> rfl
@[simp] theorem setGrid_ctxs (g : Nat) (f : Grid → Grid) : (s.setGrid g f).ctxs = s.ctxs := by unfold State.setGrid; split <;> rfl
@[simp] theorem setGrid_ports (g : Nat) (f : Grid → Grid) : (s.setGrid g f).ports = s.ports := by unfold State.setGrid; split <;> rfl
@[simp] theorem setGrid_chans (g : Nat) (f : Grid → Grid) : (s.setGrid g f).chans = s.chans := by unfold State.setGrid; split <;> rfl
@[simp] theorem setGrid_queues (g : Nat) (f : Grid → Grid) : (s.setGrid g f).queues = s.queues := by unfold State.setGrid; split <;> rfl
@[simp] theorem setGrid_acts (g : Nat) (f : Grid → Grid) : (s.setGrid g f).acts = s.acts := by unfold State.setGrid; split <;> rfl
@[simp] theorem setGrid_regions (g : Nat) (f : Grid → Grid) : (s.setGrid g f).regions = s.regions := by unfold State.setGrid; split <;> rfl
@[simp] theorem setGrid_cyc (g : Nat) (f : Grid → Grid) : (s.setGrid g f).cyc = s.cyc := by unfold State.setGrid; split <;> rfl
@[simp] theorem setGrid_ohl1 (g : Nat) (f : Grid → Grid) : (s.setGrid g f).ohl1 = s.ohl1 := by unfold State.setGrid; split <;> rfl
@[simp] theorem setGrid_fp6 (g : Nat) (f : Grid → Grid) : (s.setGrid g f).fp6 = s.fp6 := by unfold State.setGrid; split <;> rfl
@[simp] theorem setGrid_fp4 (g : Nat) (f : Grid → Grid) : (s.setGrid g f).fp4 = s.fp4 := by unfold State.setGrid; split <;> rfl
@[simp] theorem setGrid_fmtTop (g : Nat) (f : Grid → Grid) : (s.setGrid g f).fmtTop = s.fmtTop := by unfold State.setGrid; split <;> rfl
@[simp] theorem setGrid_live (g : Nat) (f : Grid → Grid) : (s.setGrid g f).live = s.live := by unfold State.setGrid; split <;> rfl
@[simp] theorem setGrid_clockMhz (g : Nat) (f : Grid → Grid) : (s.setGrid g f).clockMhz = s.clockMhz := by unfold State.setGrid; split <;> rfl
@[simp] theorem setGrid_booted (g : Nat) (f : Grid → Grid) : (s.setGrid g f).booted = s.booted := by unfold State.setGrid; split <;> rfl
@[simp] theorem setGrid_sent (g : Nat) (f : Grid → Grid) : (s.setGrid g f).sent = s.sent := by unfold State.setGrid; split <;> rfl
@[simp] theorem setGrid_completions (g : Nat) (f : Grid → Grid) : (s.setGrid g f).completions = s.completions := by unfold State.setGrid; split <;> rfl
@[simp] theorem setGrid_outstanding (g : Nat) (f : Grid → Grid) : (s.setGrid g f).outstanding = s.outstanding := by unfold State.setGrid; split <;> rfl
@[simp] theorem setGrid_asks (g : Nat) (f : Grid → Grid) : (s.setGrid g f).asks = s.asks := by unfold State.setGrid; split <;> rfl
@[simp] theorem setGrid_uid (g : Nat) (f : Grid → Grid) : (s.setGrid g f).uid = s.uid := by unfold State.setGrid; split <;> rfl
@[simp] theorem setGrid_free (g : Nat) (f : Grid → Grid) : (s.setGrid g f).free = s.free := by unfold State.setGrid; split <;> rfl

@[simp] theorem setStream_agenda (n : Nat) (f : Stream → Stream) : (s.setStream n f).agenda = s.agenda := by unfold State.setStream; split <;> rfl
@[simp] theorem setStream_cur (n : Nat) (f : Stream → Stream) : (s.setStream n f).cur = s.cur := by unfold State.setStream; split <;> rfl
@[simp] theorem setStream_warps (n : Nat) (f : Stream → Stream) : (s.setStream n f).warps = s.warps := by unfold State.setStream; split <;> rfl
@[simp] theorem setStream_groups (n : Nat) (f : Stream → Stream) : (s.setStream n f).groups = s.groups := by unfold State.setStream; split <;> rfl
@[simp] theorem setStream_grids (n : Nat) (f : Stream → Stream) : (s.setStream n f).grids = s.grids := by unfold State.setStream; split <;> rfl
@[simp] theorem setStream_ops (n : Nat) (f : Stream → Stream) : (s.setStream n f).ops = s.ops := by unfold State.setStream; split <;> rfl
@[simp] theorem setStream_posted (n : Nat) (f : Stream → Stream) : (s.setStream n f).posted = s.posted := by unfold State.setStream; split <;> rfl
@[simp] theorem setStream_wlog (n : Nat) (f : Stream → Stream) : (s.setStream n f).wlog = s.wlog := by unfold State.setStream; split <;> rfl
@[simp] theorem setStream_mem (n : Nat) (f : Stream → Stream) : (s.setStream n f).mem = s.mem := by unfold State.setStream; split <;> rfl
@[simp] theorem setStream_memP (n : Nat) (f : Stream → Stream) : (s.setStream n f).memP = s.memP := by unfold State.setStream; split <;> rfl
@[simp] theorem setStream_dirty (n : Nat) (f : Stream → Stream) : (s.setStream n f).dirty = s.dirty := by unfold State.setStream; split <;> rfl
@[simp] theorem setStream_privMem (n : Nat) (f : Stream → Stream) : (s.setStream n f).privMem = s.privMem := by unfold State.setStream; split <;> rfl
@[simp] theorem setStream_privP (n : Nat) (f : Stream → Stream) : (s.setStream n f).privP = s.privP := by unfold State.setStream; split <;> rfl
@[simp] theorem setStream_privNext (n : Nat) (f : Stream → Stream) : (s.setStream n f).privNext = s.privNext := by unfold State.setStream; split <;> rfl
@[simp] theorem setStream_kept (n : Nat) (f : Stream → Stream) : (s.setStream n f).kept = s.kept := by unfold State.setStream; split <;> rfl
@[simp] theorem setStream_icache (n : Nat) (f : Stream → Stream) : (s.setStream n f).icache = s.icache := by unfold State.setStream; split <;> rfl
@[simp] theorem setStream_l1 (n : Nat) (f : Stream → Stream) : (s.setStream n f).l1 = s.l1 := by unfold State.setStream; split <;> rfl
@[simp] theorem setStream_dies (n : Nat) (f : Stream → Stream) : (s.setStream n f).dies = s.dies := by unfold State.setStream; split <;> rfl
@[simp] theorem setStream_ctxs (n : Nat) (f : Stream → Stream) : (s.setStream n f).ctxs = s.ctxs := by unfold State.setStream; split <;> rfl
@[simp] theorem setStream_ports (n : Nat) (f : Stream → Stream) : (s.setStream n f).ports = s.ports := by unfold State.setStream; split <;> rfl
@[simp] theorem setStream_chans (n : Nat) (f : Stream → Stream) : (s.setStream n f).chans = s.chans := by unfold State.setStream; split <;> rfl
@[simp] theorem setStream_queues (n : Nat) (f : Stream → Stream) : (s.setStream n f).queues = s.queues := by unfold State.setStream; split <;> rfl
@[simp] theorem setStream_acts (n : Nat) (f : Stream → Stream) : (s.setStream n f).acts = s.acts := by unfold State.setStream; split <;> rfl
@[simp] theorem setStream_regions (n : Nat) (f : Stream → Stream) : (s.setStream n f).regions = s.regions := by unfold State.setStream; split <;> rfl
@[simp] theorem setStream_cyc (n : Nat) (f : Stream → Stream) : (s.setStream n f).cyc = s.cyc := by unfold State.setStream; split <;> rfl
@[simp] theorem setStream_ohl1 (n : Nat) (f : Stream → Stream) : (s.setStream n f).ohl1 = s.ohl1 := by unfold State.setStream; split <;> rfl
@[simp] theorem setStream_fp6 (n : Nat) (f : Stream → Stream) : (s.setStream n f).fp6 = s.fp6 := by unfold State.setStream; split <;> rfl
@[simp] theorem setStream_fp4 (n : Nat) (f : Stream → Stream) : (s.setStream n f).fp4 = s.fp4 := by unfold State.setStream; split <;> rfl
@[simp] theorem setStream_fmtTop (n : Nat) (f : Stream → Stream) : (s.setStream n f).fmtTop = s.fmtTop := by unfold State.setStream; split <;> rfl
@[simp] theorem setStream_live (n : Nat) (f : Stream → Stream) : (s.setStream n f).live = s.live := by unfold State.setStream; split <;> rfl
@[simp] theorem setStream_clockMhz (n : Nat) (f : Stream → Stream) : (s.setStream n f).clockMhz = s.clockMhz := by unfold State.setStream; split <;> rfl
@[simp] theorem setStream_booted (n : Nat) (f : Stream → Stream) : (s.setStream n f).booted = s.booted := by unfold State.setStream; split <;> rfl
@[simp] theorem setStream_sent (n : Nat) (f : Stream → Stream) : (s.setStream n f).sent = s.sent := by unfold State.setStream; split <;> rfl
@[simp] theorem setStream_completions (n : Nat) (f : Stream → Stream) : (s.setStream n f).completions = s.completions := by unfold State.setStream; split <;> rfl
@[simp] theorem setStream_outstanding (n : Nat) (f : Stream → Stream) : (s.setStream n f).outstanding = s.outstanding := by unfold State.setStream; split <;> rfl
@[simp] theorem setStream_asks (n : Nat) (f : Stream → Stream) : (s.setStream n f).asks = s.asks := by unfold State.setStream; split <;> rfl
@[simp] theorem setStream_uid (n : Nat) (f : Stream → Stream) : (s.setStream n f).uid = s.uid := by unfold State.setStream; split <;> rfl
@[simp] theorem setStream_free (n : Nat) (f : Stream → Stream) : (s.setStream n f).free = s.free := by unfold State.setStream; split <;> rfl

/-- The tables that an update writes, read by key. -/
theorem die_setDie (d j : Nat) (f : Die → Die) (h : d < s.dies.length) :
    (s.setDie d f).die j = if j = d then f (s.die d) else s.die j := by
  have key : ∀ (l : List Die) (d j : Nat) (x y : Die), d < l.length → (lset l d x).getD j y = if j = d then x else l.getD j y := by
    intro l
    induction l with
    | nil => intro d j x y h; simp at h
    | cons a r ih =>
      intro d j x y h
      cases d with
      | zero => cases j <;> simp [lset]
      | succ d =>
        cases j with
        | zero => simp [lset]
        | succ j =>
          have := ih d j x y (by simpa using h)
          simpa [lset] using this
  unfold State.die State.setDie
  simp only [key s.dies d j _ _ h]
  by_cases hj : j = d <;> simp [hj, State.die]

theorem ctx_setCtx (c j : Nat) (f : Ctx → Ctx) : (s.setCtx c f).ctx j = if j = c then f (s.ctx c) else s.ctx j := by
  simp [State.ctx, State.setCtx, tget_tset]

theorem port_setPort (e j : Nat) (f : Port → Port) : (s.setPort e f).port j = if j = e then f (s.port e) else s.port j := by
  simp [State.port, State.setPort, tget_tset]

theorem chan_setChan (k j : Nat) (f : Chan → Chan) : (s.setChan k f).chan j = if j = k then f (s.chan k) else s.chan j := by
  simp [State.chan, State.setChan, tget_tset]

theorem queue_setQueue (q j : Nat) (f : Queue → Queue) : (s.setQueue q f).queue j = if j = q then f (s.queue q) else s.queue j := by
  simp [State.queue, State.setQueue, tget_tset]

theorem warps_setWarp (w j : Nat) (f : Warp → Warp) :
    tfind (s.setWarp w f).warps j = if j = w then (tfind s.warps w).map f else tfind s.warps j := by
  unfold State.setWarp
  by_cases hj : j = w
  · subst hj; split <;> simp_all
  · split <;> simp [hj, tfind_tput_other]

theorem groups_setGroup (g j : Nat) (f : Group → Group) :
    tfind (s.setGroup g f).groups j = if j = g then (tfind s.groups g).map f else tfind s.groups j := by
  unfold State.setGroup
  by_cases hj : j = g
  · subst hj; split <;> simp_all
  · split <;> simp [hj, tfind_tput_other]

theorem setDie_count (d : Nat) (f : Die → Die) : (s.setDie d f).dies.length = s.dies.length := by
  have key : ∀ (l : List Die) (d : Nat) (x : Die), (lset l d x).length = l.length := by
    intro l
    induction l with
    | nil => intros; rfl
    | cons a r ih => intro d x; cases d <;> simp [lset, ih]
  exact key _ _ _

end Sys2Proof.Machine
end

