-- ==== Sys2Proof/Laws/Issue.lean ====
section
/-! SUPPORT. What issuing does: a ready instruction runs its body, and what completing one leaves. -/

namespace Sys2Proof.Machine

theorem tget_tset_pos (m : Table Nat) (n x : Nat) (h : x ≠ 0) : tget 0 (tset 0 m n x) n = x := by
  simp [tget, tset, h]

/-- The context of a warp is read from the tables of the state. -/
theorem cxOf_warp {s : State} {w sp : Nat} {c : Cx} (h : s.cxOf w sp = some c) :
    c.w = w ∧ c.sp = sp ∧ tfind s.warps w = some c.warp ∧ c.split = c.warp.split sp ∧ c.gid = c.warp.group
      ∧ tfind s.groups c.gid = some c.group ∧ tfind s.grids c.group.grid = some c.grid ∧ c.ctx = s.ctx c.grid.ctx
      ∧ c.die = c.warp.core / Config.dieCores := by
  unfold State.cxOf at h
  split at h
  · cases h
  · rename_i x hx
    split at h
    · cases h
    · rename_i g hg
      split at h
      · cases h
      · rename_i gr hgr
        cases h
        exact ⟨rfl, rfl, hx, rfl, rfl, hg, hgr, rfl, rfl⟩

/-- A split that may issue is the selected one. -/
theorem issueCx_cxOf {s : State} {c : Cx} (h : issueCx s = some c) : s.cur = .warp c.w c.sp ∧ s.cxOf c.w c.sp = some c := by
  unfold issueCx at h
  split at h
  · rename_i w sp hc
    split at h
    · cases h
    · rename_i x hx
      split at h
      · cases h
        obtain ⟨h1, h2, -⟩ := cxOf_warp hx
        exact ⟨by rw [hc, h1, h2], by rw [h1, h2, hx]⟩
      · cases h
  · cases h

theorem issueCx_warp {s : State} {c : Cx} (h : issueCx s = some c) : tfind s.warps c.w = some c.warp :=
  (cxOf_warp (issueCx_cxOf h).2).2.2.1

theorem issueCx_split {s : State} {c : Cx} (h : issueCx s = some c) : c.split = c.warp.split c.sp :=
  (cxOf_warp (issueCx_cxOf h).2).2.2.2.1

theorem boundIn_nil {w : Warp} {l : List RegRef} (h : ∀ n, RegRef.v n ∈ l → w.bound.getLsbD n = false) : w.boundIn l = [] := by
  unfold Warp.boundIn
  rw [List.filterMap_eq_nil_iff]
  intro r hr
  cases r <;> simp
  exact h _ hr

/-- A full register keeps nothing from issuing. -/
theorem blocks_full {w : Warp} {r : RegRef} (h : w.isEmpty r = false) : w.blocks r = false := by simp [Warp.blocks, h]

/-- A ready instruction runs its body. -/
theorem issue_ready {s : State} {c : Cx} {f : Cx → Issue} (body : Cx → Out) (h : Ready s c (f c)) : issue s f body = body c := by
  have hh : c.split.hints.find? (fun x => !(f c).accepts x) = none := by
    rw [List.find?_eq_none]; intro x hx; simp [h.hints x hx]
  have hp : ¬((f c).priv = true ∧ c.ctx.priv = false) := by
    rintro ⟨h1, h2⟩; rw [h.priv h1] at h2; cases h2
  have hb : blocked c (f c) = false := by
    unfold blocked
    simp only [Bool.or_eq_false_iff, List.any_eq_false, Bool.not_eq_true]
    refine ⟨⟨⟨?_, ?_⟩, ?_⟩, ?_⟩
    · cases hg : c.guardReg with
      | none => rfl
      | some n => simpa using blocks_full (h.guard n hg).1
    · intro n _ r hr
      have : c.warp.blocks r = false := by
        apply blocks_full
        by_cases hm : n < (f c).srcs.length
        · have hx : (f c).srcs.getD n [] ∈ (f c).srcs := by
            rw [List.getD_eq_getElem?_getD, List.getElem?_eq_getElem hm]; simp
          exact h.srcs _ hx r hr
        · have hx : (f c).srcs.getD n [] = [] := by
            rw [List.getD_eq_getElem?_getD, List.getElem?_eq_none (by omega)]; rfl
          rw [hx] at hr; cases hr
      simp [this]
    · exact fun r hr => blocks_full (h.hid r hr)
    · exact fun r hr => blocks_full (h.dsts r hr)
  have he : emptyTrap c (f c) = false := by
    unfold emptyTrap
    simp only [List.any_eq_false, Bool.not_eq_true, Bool.and_eq_false_iff]
    intro n hn
    right
    intro r hr
    by_cases hm : n < (f c).srcs.length
    · have : (f c).srcs.getD n [] ∈ (f c).srcs := by
        rw [List.getD_eq_getElem?_getD, List.getElem?_eq_getElem hm]; simp
      right; exact blocks_full (h.srcs _ this r hr)
    · simp at hn; omega
  have hg : ((f c).guard && (c.guardReg.map (fun n => decide (n ≠ 0) && c.warp.kPois n)).getD false) = false := by
    cases hg : c.guardReg with
    | none => simp
    | some n =>
      have := (h.guard n hg).2
      by_cases h0 : n = 0
      · simp [h0]
      · cases hi : (f c).guard
        · simp
        · simp [this h0 hi]
  unfold issue
  rw [h.cx]
  simp only [h.enc, hh, hp, he, hb, hg, h.clean, if_false, ne_eq, not_true_eq_false, Bool.false_eq_true, Bool.true_eq_false]
  unfold withBound
  have h1 : c.warp.boundIn (f c).reads = [] := boundIn_nil (fun n hn => h.free n (Or.inl hn))
  have h2 : c.warp.boundIn (f c).dsts = [] := boundIn_nil (fun n hn => h.free n (Or.inr hn))
  have h3 : c.divided (f c) = false := by
    simp only [Cx.divided, h.firm, List.isEmpty_nil, Bool.not_true, Bool.false_or]
    rcases h.undiv with hd | hd
    · simp [hd]
    · have : (f c).dsts.any RegRef.shared = false := by
        rw [List.any_eq_false]; intro r hr; simp [hd r hr]
      simp [this]
  simp [h1, h2, h3]

/-- Changing a listed warp. -/
theorem setWarp_eq {s : State} {w : Nat} {x : Warp} (f : Warp → Warp) (h : tfind s.warps w = some x) :
    s.setWarp w f = { s with warps := tput s.warps w (f x) } := by
  simp [State.setWarp, h]

theorem moved_end {s : State} {c : Cx} (f : Warp → Warp) (h : tfind s.warps c.w = some c.warp) (r : Split → List LoopEnt × Nat) :
    (let t := (s.onWarp c f).tick c
     t.setWarp c.w (fun x => x.setSplit c.sp (fun p => p.moved (r p).2 (r p).1 (t.slotCyc c.warp.core c.warp.slot))))
      = s.afterAt c (r ((f c.warp).split c.sp)).1 (r ((f c.warp).split c.sp)).2 f := by
  simp [State.onWarp, State.tick, State.setWarp, h, State.afterAt, Cx.retire, Warp.setSplit, Warp.split, Split.moved, State.slotCyc,
    tget_tset_pos]

/-- The warp changed and the instruction complete. -/
theorem advance_eq {s : State} {c : Cx} (f : Warp → Warp) (h : tfind s.warps c.w = some c.warp) :
    (s.onWarp c f).advance c = s.after c f := by
  simpa [State.advance, State.after] using moved_end f h (fun _ => loopEnd c.split.loops c.split.pc)

theorem moved_now {s : State} {c : Cx} (h : tfind s.warps c.w = some c.warp) (r : Split → List LoopEnt × Nat) :
    (let t := s.tick c
     t.setWarp c.w (fun x => x.setSplit c.sp (fun p => p.moved (r p).2 (r p).1 (t.slotCyc c.warp.core c.warp.slot))))
      = s.afterAt c (r (c.warp.split c.sp)).1 (r (c.warp.split c.sp)).2 id := by
  simp [State.tick, State.setWarp, h, State.afterAt, Cx.retire, Warp.setSplit, Warp.split, Split.moved, State.slotCyc, tget_tset_pos]

theorem advance_id {s : State} {c : Cx} (h : tfind s.warps c.w = some c.warp) : s.advance c = s.after c id := by
  simpa [State.advance, State.after] using moved_now h (fun _ => loopEnd c.split.loops c.split.pc)

/-- A transfer unwinds the loop stack (R53). -/
theorem jump_eq {s : State} {c : Cx} (f : Warp → Warp) (t : Nat) (h : tfind s.warps c.w = some c.warp) :
    (s.onWarp c f).jump c t = s.afterAt c (unwind ((f c.warp).split c.sp).loops t) t f := by
  simpa [State.jump] using moved_end f h (fun p => (unwind p.loops t, t))

theorem jump_id {s : State} {c : Cx} (t : Nat) (h : tfind s.warps c.w = some c.warp) :
    s.jump c t = s.afterAt c (unwind (c.warp.split c.sp).loops t) t id := by
  simpa [State.jump] using moved_now h (fun p => (unwind p.loops t, t))

/-- A result of one cycle. -/
theorem now_eq {s : State} {c : Cx} (w : List RegWrite) (h : tfind s.warps c.w = some c.warp) :
    s.now c w = s.after c (fun x => x.writeAll c.grid.w w) := advance_eq _ h

/-- A result of several cycles. -/
theorem later_eq {s : State} {c : Cx} (full : List RegRef) (w : List RegWrite) (flags : BitVec 5)
    (h : tfind s.warps c.w = some c.warp) : s.later c full w flags = s.afterSlow c full w flags := by
  have h' : tfind (s.pend c full none (.result w flags)).warps c.w = some c.warp := h
  exact advance_eq (s := s.pend c full none (.result w flags)) (fun x => x.markAll true full) h'

/-- A change of the warp that leaves what completing an instruction changes may come before it. -/
theorem after_onWarp {s : State} {c : Cx} (f g : Warp → Warp) (hg : ∀ n l pc x, g (c.retire n l pc x) = c.retire n l pc (g x)) :
    (s.after c f).onWarp c g = s.after c (fun x => g (f x)) := by
  simp [State.after, State.afterAt, State.onWarp, State.setWarp, hg]

/-! ### What an issue and a trap can do -/

/-- Every way in which an issue ends: it waits, it traps, or its body runs. -/
theorem issue_ends {P : Out → Prop} {s : State} {f : Cx → Issue} {body : Cx → Out} (wait : P (.next s))
    (trap : ∀ c code pc m info, issueCx s = some c → P (.next (s.trapAt c code pc m info)))
    (run : ∀ c, issueCx s = some c → (f c).enc = true → ((f c).priv = true → c.ctx.priv = true) → P (withBound s c (f c) body)) :
    P (issue s f body) := by
  unfold issue
  split
  · exact wait
  · rename_i c hc
    simp only
    split
    · exact trap c _ _ _ _ hc
    · rename_i he
      split
      · exact trap c _ _ _ _ hc
      · split
        · exact trap c _ _ _ _ hc
        · rename_i hp
          split
          · exact wait
          · split
            · exact trap c _ _ _ _ hc
            · split
              · exact trap c _ _ _ _ hc
              · split
                · exact trap c _ _ _ _ hc
                · exact run c hc (by simpa using he) (fun h => by simpa [h] using hp)

/-- A body runs as it is, or on free values for registers that a batch binds or that R399 leaves undefined, with its writes marked
(R119, R399). -/
theorem withBound_ends {P : Out → Prop} {s : State} {c : Cx} {i : Issue} {body : Cx → Out}
    (run : ∀ x : Warp, P (body { c with warp := x }))
    (touch : ∀ (x : Warp) (t : State) (r w : List Nat), body { c with warp := x } = .next t →
      P (.next ((t.touchBound s c r w).touchLoose s c i))) :
    P (withBound s c i body) := by
  unfold withBound
  simp only
  split
  · exact run c.warp
  · split
    · rename_i t ht; exact touch _ t _ _ ht
    · exact run _

theorem foldl_keeps {α β : Type} (g : State → β) (f : State → α → State) (hf : ∀ s x, g (f s x) = g s) (l : List α) (s : State) :
    g (l.foldl f s) = g s := by
  induction l generalizing s with
  | nil => rfl
  | cons a r ih => simp [ih, hf]

/-- Stopping a warp changes warps, operations and dies only. -/
theorem haltWarp_keeps {β : Type} (g : State → β) (hw : ∀ s w f, g (s.setWarp w f) = g s) (hd : ∀ s d f, g (s.setDie d f) = g s)
    (ho : ∀ (s : State) l, g { s with ops := l } = g s) (s : State) (w : Nat) (l : Life) (b : Bool) : g (s.haltWarp w l b) = g s := by
  unfold State.haltWarp State.dropWork
  simp only [hw]
  rw [foldl_keeps g _ (fun s o => ?_)]
  · exact ho _ _
  · have hr : ∀ (s : State) a b, g (s.renumber a b) = g s := fun s a b => ho _ _
    cases o.kind <;> simp only [hw, hr]
    unfold State.readerOut
    split <;> simp only [hw, hd, hr]

/-- A trap changes warps, workgroups, operations and dies, and may send a note; all else stays. -/
theorem trapAt_keeps {β : Type} (g : State → β) (hw : ∀ s w f, g (s.setWarp w f) = g s) (hg : ∀ s w f, g (s.setGroup w f) = g s)
    (hd : ∀ s d f, g (s.setDie d f) = g s) (hs : ∀ s m, g (s.send m) = g s) (ho : ∀ (s : State) l, g { s with ops := l } = g s)
    (s : State) (c : Cx) (code : TrapCode) (pc : Nat) (m : Mask) (info : Nat) : g (s.trapAt c code pc m info) = g s := by
  have settle : ∀ (s : State) n, g (s.settle n) = g s := by
    intro s n
    unfold State.settle
    split
    · split
      · exact hg _ _ _
      · rfl
    · rfl
  have low : ∀ (n : Nat) (s : State) w p, g (s.lowerPath w p n) = g s := by
    intro n
    induction n with
    | zero => intro s w p; rfl
    | succ n ih =>
      intro s w p
      unfold State.lowerPath
      split
      · split
        · simp only [ih, hw]; exact ho _ _
        · rfl
      · rfl
  have up : ∀ (s : State) w, g (s.giveUp w) = g s := by
    intro s w
    unfold State.giveUp State.dropRows State.disown
    simp only [low]
    exact (ho _ _).trans (by simp only [hw])
  have mark : ∀ (s : State) x, g (s.markHalt x) = g s := fun s x => foldl_keeps g _ (fun _ _ => hw _ _ _) _ _
  have prim : ∀ (s : State) x r, g (s.settlePrimary x r).1 = g s := by
    intro s x r
    unfold State.settlePrimary
    split
    · split
      · exact hw _ _ _
      · rfl
    · rfl
  have stop : ∀ (s : State) w r, g (s.stopWarp w r) = g s := fun s w r => haltWarp_keeps g hw hd ho _ _ _ _
  unfold State.trapAt
  simp only [settle, hg]
  have fin : ∀ s : State, g (if c.group.st = .running then s.markHalt c.group else s) = g s := by
    intro s; split
    · exact mark _ _
    · rfl
  rw [fin, hw, stop]
  have rest : ∀ s : State, g (if c.warp.tm = true then s.machineCheck c.die 1 c.grid.ctx else s) = g s := by
    intro s; split
    · unfold State.machineCheck State.note; simp only [hs, hd]
    · rfl
  split
  · rw [up, prim, rest]
  · rw [prim, rest]

@[simp] theorem trapAt_mem (s : State) (c : Cx) (k : TrapCode) (pc : Nat) (m : Mask) (i : Nat) : (s.trapAt c k pc m i).mem = s.mem :=
  trapAt_keeps State.mem (by simp) (by simp) (by simp) (by simp) (fun _ _ => rfl) s c k pc m i

@[simp] theorem trapAt_posted (s : State) (c : Cx) (k : TrapCode) (pc : Nat) (m : Mask) (i : Nat) :
    (s.trapAt c k pc m i).posted = s.posted :=
  trapAt_keeps State.posted (by simp) (by simp) (by simp) (by simp) (fun _ _ => rfl) s c k pc m i

@[simp] theorem trapAt_ctxs (s : State) (c : Cx) (k : TrapCode) (pc : Nat) (m : Mask) (i : Nat) : (s.trapAt c k pc m i).ctxs = s.ctxs :=
  trapAt_keeps State.ctxs (by simp) (by simp) (by simp) (by simp) (fun _ _ => rfl) s c k pc m i

@[simp] theorem trapAt_uid (s : State) (c : Cx) (k : TrapCode) (pc : Nat) (m : Mask) (i : Nat) : (s.trapAt c k pc m i).uid = s.uid :=
  trapAt_keeps State.uid (by simp) (by simp) (by simp) (by simp) (fun _ _ => rfl) s c k pc m i

end Sys2Proof.Machine
end

