-- ==== Sys2Proof/Laws/Memory.lean ====
section
/-! SUPPORT. What the memory operations do: reads after writes, what leaves memory as it was, and that every operation on memory
keeps its canonical form. -/

namespace Sys2Proof.Machine

theorem memByte_memSet (m : List Host.Cell) (a b : Nat) (x : Byte) :
    memByte (memSet m a x) b = if b = a then x else memByte m b := tget_tset 0 m a b x

theorem memSetAll_cons (m : List Host.Cell) (c : Host.Cell) (l : List Host.Cell) :
    memSetAll m (c :: l) = memSetAll (memSet m c.1 c.2) l := rfl

/-- An address that no cell names reads as before. -/
theorem memByte_memSetAll_other {l : List Host.Cell} {a : Nat} (h : ∀ c ∈ l, c.1 ≠ a) (m : List Host.Cell) :
    memByte (memSetAll m l) a = memByte m a := by
  induction l generalizing m with
  | nil => rfl
  | cons c r ih =>
    rw [memSetAll_cons, ih (fun e he => h e (List.mem_cons_of_mem _ he)), memByte_memSet,
      if_neg (fun e => h c (by simp) e.symm)]

/-- Of cells in rising order, each is read back. -/
theorem memByte_memSetAll {l : List Host.Cell} (h : tsorted l = true) (m : List Host.Cell) (a : Nat) :
    memByte (memSetAll m l) a = (tfind l a).getD (memByte m a) := by
  induction l generalizing m with
  | nil => rfl
  | cons c r ih =>
    obtain ⟨k, x⟩ := c
    have hp := (tsorted_iff _).mp h
    obtain ⟨h1, h2⟩ := List.pairwise_cons.mp hp
    rw [memSetAll_cons, ih ((tsorted_iff r).mpr h2), memByte_memSet]
    by_cases ha : k = a
    · subst ha
      have hn : tfind r k = none := by
        have : ∀ q : List Host.Cell, (∀ e ∈ q, k < e.1) → tfind q k = none := by
          intro q
          induction q with
          | nil => intro _; rfl
          | cons e q ihq =>
            intro hq
            obtain ⟨j, y⟩ := e
            have hj := hq (j, y) (by simp)
            have : j ≠ k := by simp only at hj; omega
            simp [tfind, this, ihq (fun e he => hq e (by simp [he]))]
        exact this r h1
      simp [tfind, hn]
    · simp [tfind, ha, Ne.symm ha]

theorem mem_cellsAt {a : Nat} {l : List Byte} {c : Host.Cell} (h : c ∈ cellsAt a l) : a ≤ c.1 ∧ c.1 < a + l.length := by
  induction l generalizing a with
  | nil => simp [cellsAt] at h
  | cons b r ih =>
    simp only [cellsAt, List.mem_cons] at h
    rcases h with rfl | h
    · simp
    · have := ih h; simp only [List.length_cons]; omega

theorem tsorted_cellsAt (a : Nat) (l : List Byte) : tsorted (cellsAt a l) = true := by
  rw [tsorted_iff]
  induction l generalizing a with
  | nil => simp [cellsAt]
  | cons b r ih =>
    refine List.pairwise_cons.mpr ⟨fun c hc => ?_, ih (a + 1)⟩
    have := mem_cellsAt hc; simp only; omega

/-- A byte string placed at an address is what is read there. -/
theorem memByte_cellsAt (m : List Host.Cell) (a : Nat) (l : List Byte) (k : Nat) (h : k < l.length) :
    memByte (memSetAll m (cellsAt a l)) (a + k) = l.getD k 0 := by
  have hf : tfind (cellsAt a l) (a + k) = some (l.getD k 0) := by
    induction l generalizing a k with
    | nil => simp at h
    | cons b r ih =>
      cases k with
      | zero => simp [cellsAt, tfind]
      | succ k =>
        have := ih (a + 1) k (by simpa using h)
        rw [show a + (k + 1) = a + 1 + k by omega]
        simp [cellsAt, tfind, this, show a ≠ a + 1 + k by omega]
  rw [memByte_memSetAll (tsorted_cellsAt a l), hf]; rfl

/-! ### What leaves memory as it was -/

theorem foldl_mem {α : Type} (f : State → α → State) (hf : ∀ s x, (f s x).mem = s.mem) (l : List α) (s : State) :
    (l.foldl f s).mem = s.mem := by
  induction l generalizing s with
  | nil => rfl
  | cons a r ih => simp [ih, hf]

@[simp] theorem logError_mem (s : State) (d a : Nat) (u i p : Bool) (c x y z w : Nat) : (s.logError d a u i p c x y z w).mem = s.mem := rfl

@[simp] theorem inject_mem (s : State) (d a p : Nat) : (s.inject d a p).mem = s.mem := by
  unfold State.inject
  simp only
  split
  · rfl
  · split <;> rfl

@[simp] theorem wakeChans_mem (s : State) (p n : Nat) : (s.wakeChans p n).mem = s.mem := by
  unfold State.wakeChans
  split
  · exact foldl_mem _ (fun s i => by split <;> rfl) _ _
  · rfl

@[simp] theorem injectOn_mem (s : State) (l : List Nat) (p n : Nat) (r : Bool) : (s.injectOn l p n r).mem = s.mem := by
  unfold State.injectOn
  exact (foldl_mem _ (fun s d => by simp only; split <;> simp) _ _).trans (wakeChans_mem _ _ _)

@[simp] theorem injectMem_mem (s : State) (p n : Nat) (r : Bool) : (s.injectMem p n r).mem = s.mem := injectOn_mem s _ p n r

@[simp] theorem countApplied_mem (s : State) (w : Write) (h : Nat) : (s.countApplied w h).mem = s.mem := rfl

@[simp] theorem seeWrite_mem (s : State) (n h : Nat) : (s.seeWrite n h).mem = s.mem := rfl

@[simp] theorem post_mem (s : State) (d : Nat) (b : List Host.Cell) (p : List (Nat × Nat × Bool)) : (s.post d b p).1.mem = s.mem := rfl

@[simp] theorem pruneLog_mem (s : State) : s.pruneLog.mem = s.mem := by unfold State.pruneLog; split <;> rfl

@[simp] theorem applyWrite_mem (s : State) (d n : Nat) : (s.applyWrite d n).mem = s.mem := by
  unfold State.applyWrite
  split
  · rfl
  · split
    · rfl
    · simp

@[simp] theorem applyOld_mem (s : State) (d : Nat) : (s.applyOld d).mem = s.mem := by
  unfold State.applyOld
  exact foldl_mem _ (fun s n => by simp) _ _

@[simp] theorem applyAll_mem (s : State) (d : Nat) : (s.applyAll d).mem = s.mem := by simp [State.applyAll]

@[simp] theorem writeBack_mem (s : State) (d l n : Nat) : (s.writeBack d l n).mem = s.mem := rfl

@[simp] theorem draw_mem (s : State) : s.draw.2.mem = s.mem := rfl

@[simp] theorem l2Trim_mem (n d : Nat) (s : State) : (s.l2Trim d n).mem = s.mem := by
  induction n generalizing s with
  | zero => rfl
  | succ n ih => unfold State.l2Trim; simp only; split <;> simp [ih]

@[simp] theorem l2Fit_mem (s : State) (d n : Nat) : (s.l2Fit d n).mem = s.mem := by unfold State.l2Fit; split <;> simp

/-! ### The canonical form -/

theorem wf_memSet {m : List Host.Cell} (a : Nat) (b : Byte) (h : Memory.wf m = true) : Memory.wf (memSet m a b) = true := twf_tset a b h

theorem wf_memSetAll (l : List Host.Cell) {m : List Host.Cell} (h : Memory.wf m = true) : Memory.wf (memSetAll m l) = true := by
  induction l generalizing m with
  | nil => exact h
  | cons c r ih => exact ih (wf_memSet c.1 c.2 h)

theorem wf_reset : MemoryOk State.reset := by unfold MemoryOk; rfl

/-- Home memory after a write is performed: its bytes at addresses with memory are placed, in order (R104, R124). -/
theorem perform_mem (s : State) (w : Write) : (s.perform w).mem = memSetAll s.mem (w.bytes.filter (fun c => s.installed c.1)) := by
  unfold State.perform
  simp only [l2Fit_mem, pruneLog_mem]
  rw [foldl_mem (fun (s : State) (p : Nat × Nat × Bool) => s.injectMem p.1 p.2.1 false) (fun s p => by simp)]
  rw [foldl_mem _ (fun s h => by rfl), foldl_mem _ (fun s h => by split <;> rfl)]

theorem wf_perform {s : State} (w : Write) (h : MemoryOk s) : MemoryOk (s.perform w) := by
  unfold MemoryOk at *
  rw [perform_mem]; exact wf_memSetAll _ h

theorem foldl_ok {α : Type} (f : State → α → State) (hf : ∀ s x, MemoryOk s → MemoryOk (f s x)) (l : List α) {s : State}
    (h : MemoryOk s) : MemoryOk (l.foldl f s) := by
  induction l generalizing s with
  | nil => exact h
  | cons a r ih => exact ih (hf _ _ h)

theorem ok_of_mem {s t : State} (e : t.mem = s.mem) (h : MemoryOk s) : MemoryOk t := by unfold MemoryOk at *; rw [e]; exact h

theorem wf_flushTo {s : State} (d n : Nat) (h : MemoryOk s) : MemoryOk (s.flushTo d n) := by
  unfold State.flushTo
  refine foldl_ok _ (fun s w hs => ?_) _ h
  apply wf_perform
  exact ok_of_mem (foldl_mem _ (fun s k => by simp) _ _) hs

theorem wf_writeNow {s : State} (d : Nat) (b : List Host.Cell) (p : List (Nat × Nat × Bool)) (h : MemoryOk s) :
    MemoryOk (s.writeNow d b p) := wf_flushTo _ _ (ok_of_mem (post_mem s d b p) h)

theorem wf_writeAt {s : State} (d a : Nat) (l : List Byte) (h : MemoryOk s) : MemoryOk (s.writeAt d a l) := wf_writeNow _ _ _ h

theorem wf_hostWrite {s : State} (b : List Host.Cell) (h : MemoryOk s) : MemoryOk (s.hostWrite b) := wf_memSetAll b h

@[simp] theorem freeBytes_mem (n : Nat) (s : State) : (s.freeBytes n).1.mem = s.mem := by
  induction n generalizing s with
  | zero => rfl
  | succ n ih => simp [State.freeBytes, ih]

@[simp] theorem spillPriv_mem (s : State) (l : List (Nat × Nat)) : (s.spillPriv l).mem = s.mem := by
  unfold State.spillPriv; simp only; split <;> rfl

theorem wf_looseBlock {s : State} (d : Nat) (b : WinBlock) (h : MemoryOk s) : MemoryOk (s.looseBlock d b) :=
  wf_writeNow _ _ _ (ok_of_mem (freeBytes_mem _ s) h)

theorem wf_raceWindow {s : State} (w : Nat) (l : List (Nat × Nat)) (h : MemoryOk s) : MemoryOk (s.raceWindow w l) := by
  unfold State.raceWindow
  refine foldl_ok _ (fun s x hs => ?_) _ h
  split
  · exact hs
  · exact ok_of_mem (freeBytes_mem _ _) (wf_looseBlock _ _ hs)

theorem wf_meetWrite {s : State} (w : Nat) (l : List (Nat × Nat)) (h : MemoryOk s) : MemoryOk (s.meetWrite w l) :=
  ok_of_mem (spillPriv_mem _ _) (wf_raceWindow _ _ h)

theorem wf_inboundWrite {s : State} (a : Nat) (l : List Byte) (h : MemoryOk s) : MemoryOk (s.inboundWrite a l) :=
  ok_of_mem (s := (s.meetWrite 0 [(a, l.length)]).hostWrite (cellsAt a l)) (by simp [State.inboundWrite])
    (wf_hostWrite _ (wf_meetWrite _ _ h))

theorem wf_putCode {s : State} (l : List Byte) (h : MemoryOk s) : MemoryOk (s.putCode l) := wf_memSetAll _ h

end Sys2Proof.Machine
end

