-- ==== Sys2Proof/Tests/Slice0.lean ====
section
/-! SUPPORT. Tests of the decoder, the encoder and the static checks on words written out from the encodings of the manual, small
tests of one step each, and the witnesses that the hypotheses of the statements can be met. -/

namespace Sys2Proof.Tests

open Sys2Proof.Machine

set_option Elab.async false

/-! ### Small states -/

/-- The warp that the probe places: 64 lanes, all registers 0 but the argument pair. -/
def start : Warp := Warp.start 0 0 768 0 false (fullMask 64) 0 0

/-- A machine with one lone warp on core 2.0.0 under slot 0, its registers as f leaves them, of a launch gr and a workgroup g,
under a slot k. -/
def lone (f : Warp → Warp) (gr : Grid := Grid.firmware) (g : Group := Group.lone) (k : Ctx := Ctx.firmware) : State :=
  { State.reset with
    ctxs := [(0, k)]
    grids := [(8, gr)]
    groups := [(0, g)]
    warps := [(0, f start)]
    cur := .warp 0 0 }

/-- Its context. -/
def cx (f : Warp → Warp) (gr : Grid := Grid.firmware) (g : Group := Group.lone) (k : Ctx := Ctx.firmware) : Cx :=
  ⟨0, 0, f start, (f start).split 0, 0, g, gr, k, 2⟩

/-- The warp may issue. -/
def runs (x : Warp) (gr : Grid) (g : Group) : Bool :=
  x.group == 0 && x.core == 768 && x.life == .running && x.fault.isNone && x.replay.isNone && (x.split 0).st == .run &&
    (x.split 0).wait == .ready && (x.split 0).stall == 0 && g.st == .running && g.grid == 8 && gr.ctx == 0

/-- The hints are accepted, every register is full, no batch binds one, and i passes the checks of its word and operands. -/
def fits (x : Warp) (i : Issue) : Bool :=
  (x.split 0).hints.all i.accepts && x.kP == 0 && x.vE == 0 && x.sE == 0 && x.kE == 0 && x.tE == 0 && x.hE == 0 &&
    x.bound == 0 && x.loose == [] && (x.split 0).div == 0 && i.enc && i.poison == 0

theorem cxOf_lone {f : Warp → Warp} {gr : Grid} {g : Group} {k : Ctx} (h : runs (f start) gr g = true) :
    (lone f gr g k).cxOf 0 0 = some (cx f gr g k) := by
  simp only [runs, Bool.and_eq_true, beq_iff_eq] at h
  obtain ⟨⟨⟨⟨⟨⟨⟨⟨⟨⟨h1, h2⟩, -⟩, -⟩, -⟩, -⟩, -⟩, -⟩, -⟩, h3⟩, h4⟩ := h
  simp [State.cxOf, lone, tfind, h1, h2, cx, State.ctx, tget, h3, h4, Config.dieCores]

theorem issueCx_in {s : State} {f : Warp → Warp} {gr : Grid} {g : Group} {k : Ctx} (hs : s.cur = .warp 0 0)
    (hc : s.cxOf 0 0 = some (cx f gr g k)) (h : runs (f start) gr g = true)
    (hv : s.saveForced (cx f gr g k) = false := by rfl) : issueCx s = some (cx f gr g k) := by
  simp only [runs, Bool.and_eq_true, beq_iff_eq, Option.isNone_iff_eq_none] at h
  obtain ⟨⟨⟨⟨⟨⟨⟨⟨⟨⟨-, -⟩, h1⟩, h2⟩, h3⟩, h4⟩, h5⟩, h7⟩, h6⟩, -⟩, -⟩ := h
  simp [issueCx, hs, hc, hv]
  simp [cx, h1, h2, h3, h4, h5, h6, h7]

/-- In a machine where the lone warp stands ready, an instruction that fits is ready. -/
theorem ready_in {s : State} {f : Warp → Warp} {gr : Grid} {g : Group} {k : Ctx} {i : Issue} (hs : s.cur = .warp 0 0)
    (hc : s.cxOf 0 0 = some (cx f gr g k)) (h : runs (f start) gr g = true ∧ fits (f start) i = true)
    (hk : k.priv = true := by rfl) (hv : s.saveForced (cx f gr g k) = false := by rfl) : Ready s (cx f gr g k) i := by
  have hi := issueCx_in hs hc h.1 hv
  have h := h.2
  simp only [fits, Bool.and_eq_true, List.all_eq_true, beq_iff_eq] at h
  obtain ⟨⟨⟨⟨⟨⟨⟨⟨⟨⟨⟨q1, q8⟩, q2⟩, q3⟩, q4⟩, q5⟩, q6⟩, q7⟩, q9⟩, q10⟩, enc⟩, poison⟩ := h
  have full : ∀ r, (cx f gr g k).warp.isEmpty r = false := by
    intro r
    cases r <;> simp [Warp.isEmpty, cx, q2, q3, q4, q5, q6]
  exact ⟨hi, enc, q1, fun _ => hk, fun n _ => ⟨full _, fun _ => by simp [Warp.kPois, cx, q8]⟩,
    fun _ _ r _ => full r, fun r _ => full r, fun r _ => full r, poison, fun n _ => by simp [cx, q7],
    by simpa [cx] using q9, .inl (by simpa [cx] using q10)⟩

theorem ready {f : Warp → Warp} {gr : Grid} {g : Group} {k : Ctx} {i : Issue} (h : runs (f start) gr g = true ∧ fits (f start) i = true)
    (hk : k.priv = true := by rfl) (hv : (lone f gr g k).saveForced (cx f gr g k) = false := by rfl) :
    Ready (lone f gr g k) (cx f gr g k) i := ready_in rfl (cxOf_lone h.1) h hk hv

/-- The state agrees with a lone warp's machine in the selection, the warp, and its workgroup, launch and slot. -/
def Here (s : State) (f : Warp → Warp) (gr : Grid) (g : Group) (k : Ctx) : Prop :=
  s.cur = .warp 0 0 ∧ tfind s.warps 0 = some (f start) ∧ tfind s.groups 0 = some g ∧ tfind s.grids 8 = some gr ∧ tfind s.ctxs 0 = some k

theorem cxOf_here {s : State} {f : Warp → Warp} {gr : Grid} {g : Group} {k : Ctx} (e : Here s f gr g k)
    (h : runs (f start) gr g = true) : s.cxOf 0 0 = some (cx f gr g k) := by
  simp only [runs, Bool.and_eq_true, beq_iff_eq] at h
  obtain ⟨⟨⟨⟨⟨⟨⟨⟨⟨⟨h1, h2⟩, -⟩, -⟩, -⟩, -⟩, -⟩, -⟩, -⟩, h3⟩, h4⟩ := h
  obtain ⟨-, e2, e3, e4, e5⟩ := e
  simp [State.cxOf, e2, e3, e4, h1, h2, cx, State.ctx, tget, h3, h4, Config.dieCores, e5]

/-- In such a state an instruction that fits is ready. -/
theorem ready_here {s : State} {f : Warp → Warp} {gr : Grid} {g : Group} {k : Ctx} {i : Issue} (e : Here s f gr g k)
    (h : runs (f start) gr g = true ∧ fits (f start) i = true) (hk : k.priv = true := by rfl)
    (hv : s.saveForced (cx f gr g k) = false := by rfl) : Ready s (cx f gr g k) i :=
  ready_in e.1 (cxOf_here e h.1) h hk hv

/-- Where the lone warp stands, running or waiting. -/
def placed (x : Warp) (gr : Grid) (g : Group) : Bool :=
  x.group == 0 && x.core == 768 && x.life == .running && x.fault.isNone && (x.split 0).st == .run && x.skidRoom 1 && g.grid == 8 && gr.ctx == 0

/-- Its context where it waits. -/
theorem waiting_here {s : State} {f : Warp → Warp} {gr : Grid} {g : Group} {k : Ctx} (e : Here s f gr g k)
    (h : placed (f start) gr g = true) : s.cxOf 0 0 = some (cx f gr g k) ∧ s.waiting 0 0 = some (cx f gr g k) := by
  simp only [placed, Bool.and_eq_true, beq_iff_eq, Option.isNone_iff_eq_none] at h
  obtain ⟨⟨⟨⟨⟨⟨⟨h1, h2⟩, h3⟩, h4⟩, h5⟩, h8⟩, h6⟩, h7⟩ := h
  obtain ⟨-, e2, e3, e4, e5⟩ := e
  have hc : s.cxOf 0 0 = some (cx f gr g k) := by simp [State.cxOf, e2, e3, e4, h1, h2, cx, State.ctx, tget, h6, h7, Config.dieCores, e5]
  exact ⟨hc, by simp [State.waiting, hc]; simp [cx, h3, h4, h5, h8]⟩

/-- The hint of a kind before the instruction, whose word is the second of its group. -/
def hinted (kind : Nat) (p : BitVec 23) (x : Warp) : Warp := x.setSplit 0 (fun q => { q with pc := 4, hints := [⟨0, kind, p⟩] })

/-- HMOD with MOD8 alone (R219). -/
def mod8 (m : BitVec 8) (x : Warp) : Warp := hinted 3 (0#2 ++ m ++ 0#13) x

/-! ### Witnesses: states and operands that meet the hypotheses of the statements -/

theorem witness_ScalarWordResults (op : AluOp) : Ready (lone id) (cx id) (scalarIssue true false op 3 1 2 (cx id)) := by
  cases op <;> first | exact ready (by decide +kernel) | (rename_i k; cases k <;> exact ready (by decide +kernel))

theorem witness_ScalarPairResults (op : AluOp) : Ready (lone id) (cx id) (scalarIssue true true op 4 2 6 (cx id)) := by
  cases op <;> first | exact ready (by decide +kernel) | (rename_i k; cases k <;> exact ready (by decide +kernel))

theorem witness_ScalarImmediateResults : Ready (lone id) (cx id) (once true accImm (cx id) [[.s 1]] [.s 127]) ∧
    Ready (lone id) (cx id) (once true accImm (cx id) [] [.s 0]) ∧ (cx id).ihi = none := ⟨ready (by decide +kernel), ready (by decide +kernel), rfl⟩

theorem witness_MaskResults : kdst 15 = true ∧ kreg 0 = true ∧ even (126 : BitVec 7) = true ∧
    Ready (lone id) (cx id) (once true Accept.none (cx id) [[.k 0], [.k 15]] [.k 15]) ∧
    Ready (lone id) (cx id) { once true Accept.none (cx id) [[.k 0]] [.k 1] with poison := 0 } ∧
    Ready (lone id) (cx id) { once true Accept.none (cx id) [qref 126] [.k 1] with poison := 0 } ∧
    Ready (lone id) (cx id) { once true Accept.none (cx id) [[.k 0]] (qref 126) with poison := 0 } ∧
    Ready (lone id) (cx id) (once true Accept.none (cx id) [[.k 0]] [.s 5]) := by
  and_intros
  any_goals rfl
  any_goals exact ready (by decide +kernel)

theorem witness_VectorWordResults (op : AluOp) : Ready (lone id) (cx id) (vecIssue true false op 127 1 2 false (cx id)) ∧
    Ready (lone id) (cx id) (vecIssue true false op 0 1 127 true (cx id)) := by
  cases op <;> first | exact ⟨ready (by decide +kernel), ready (by decide +kernel)⟩ | (rename_i k; cases k <;> exact ⟨ready (by decide +kernel), ready (by decide +kernel)⟩)

/-- The broadcast of both widths: lane 0 of a clean source. -/
theorem witness_broadcasts : (cx id).warp.sPois 2 = false ∧ (cx id).warp.vPois 1 0 = false ∧ (cx id).warp.vPois 4 0 = false ∧
    (cx id).warp.vPois 5 0 = false ∧
    Ready (lone id) (cx id) { perLane true (accVec noMod8 false) (cx id) [[.v 1], [.s 2]] [.v 3] with poison := 0 } ∧
    Ready (lone id) (cx id) { perLane true (accVec noMod8 false) (cx id) [vref 4 2, [.s 2]] (vref 6 2) with poison := 0 } := by
  and_intros
  any_goals decide +kernel
  any_goals exact ready (by decide +kernel)

theorem witness_VectorPairResults (op : AluOp) : Ready (lone id) (cx id) (vecIssue true true op 126 2 4 false (cx id)) ∧
    Ready (lone id) (cx id) (vecIssue true true op 0 2 126 true (cx id)) := by
  cases op <;> first | exact ⟨ready (by decide +kernel), ready (by decide +kernel)⟩ | (rename_i k; cases k <;> exact ⟨ready (by decide +kernel), ready (by decide +kernel)⟩)

theorem witness_VectorCompareResults : kdst 1 = true ∧ (cx id).vok 127 1 = true ∧ (cx id).vok 126 2 = true ∧
    Ready (lone id) (cx id) (perLane true (accVec noMod8 false) (cx id) [[.v 127], [.v 2]] [.k 1]) ∧
    Ready (lone id) (cx id) (perLane true (accVec noMod8 false) (cx id) [vref 126 2, qref 4] [.k 15]) := by
  and_intros
  any_goals rfl
  any_goals exact ready (by decide +kernel)

theorem witness_VectorImmediateResults :
    Ready (lone id) (cx id) (perLane true (accVecImm (intMod8 .add)) (cx id) [[.v 1]] [.v 2]) ∧
    Ready (lone id) (cx id) (perLane true (accVecImm noMod8) (cx id) [[.v 1]] [.v 127]) ∧
    Ready (lone id) (cx id) (perLane true (accVecImm noMod8) (cx id) [] [.v 127]) ∧ (cx id).ihi = none :=
  ⟨ready (by decide +kernel), ready (by decide +kernel), ready (by decide +kernel), rfl⟩

/-- No lane raises an enabled flag where none is enabled. -/
theorem witness_flags (f : Flags) : f &&& (cx id).ten = 0 := by
  have : (cx id).ten = 0 := by decide +kernel
  rw [this]; simp

theorem witness_VectorFloatResults :
    Ready (lone id) (cx id) (floatIssue true (cx id) [[.v 1], [.v 2]] [.v 3]) ∧
    Ready (lone id) (cx id) (floatIssue true (cx id) [[.s 2]] [.v 3]) ∧
    Ready (lone id) (cx id) (perLane true (accFloat true) (cx id) [[.v 1], [.v 2], ((cx id).addendRef false 3).1] [.v 3]) ∧
    Ready (lone id) (cx id) (floatIssue true (cx id) [[.v 1], [.v 2]] [.k 1]) :=
  ⟨ready (by decide +kernel), ready (by decide +kernel), ready (by decide +kernel), ready (by decide +kernel)⟩

theorem witness_VectorDoubleResults : even (126 : BitVec 7) = true ∧
    Ready (lone id) (cx id) (floatIssue true (cx id) [vref 2 2, vref 4 2] (vref 126 2)) ∧
    Ready (lone id) (cx id) (floatIssue true (cx id) [qref 4] (vref 126 2)) ∧
    Ready (lone id) (cx id) (perLane true (accFloat true) (cx id) [vref 2 2, vref 4 2, ((cx id).addendRef true 6).1] (vref 6 2)) ∧
    Ready (lone id) (cx id) (floatIssue true (cx id) [vref 2 2, vref 4 2] [.k 1]) := by
  and_intros
  any_goals rfl
  any_goals exact ready (by decide +kernel)

theorem witness_ConversionResults :
    Ready (lone id) (cx id) (perLane ((cx id).codesOk (fun m => cvtCode (bits m 0 4) && cvtCode (bits m 4 4)))
      (accConv true (fun m => cvtCode (bits m 0 4) && cvtCode (bits m 4 4))) (cx id) [vref 1 1] (vref 2 1)) ∧
    (let f := mod8 0x20
     let ok := fun (m : Nat) => decide (bits m 0 4 ≤ 1) && decide (2 ≤ bits m 4 4) && decide (bits m 4 4 ≤ 5)
     Ready (lone f) (cx f) (perLane ((cx f).codesOk ok && decide (32 ≤ (cx f).grid.w) && (cx f).vok 2 1 && (cx f).vok 127 1)
       (accConv false ok) (cx f) [[.v 127]] [.v 2])) ∧
    (let f := mod8 0x15
     let ok := fun (m : Nat) => decide (2 ≤ bits m 0 4) && decide (bits m 0 4 ≤ 5) && decide (bits m 4 4 ≤ 1)
     Ready (lone f) (cx f) (perLane ((cx f).codesOk ok && (cx f).vok 2 1 && (cx f).vok 1 1) (accConv false ok) (cx f) [[.v 1]] [.v 2])) ∧
    (let f := mod8 0x17
     let ok := fun (m : Nat) => bits m 0 4 == 7 && decide (bits m 4 4 ≤ 1)
     Ready (lone f) (cx f) (perLane (mult 8 (120 : BitVec 7) && (cx f).codesOk ok && (cx f).vok 120 8 && (cx f).vok 1 1)
       (accConv false ok) (cx f) [[.v 1]] (vref 120 8))) :=
  ⟨ready (by decide +kernel), ready (by decide +kernel), ready (by decide +kernel), ready (by decide +kernel)⟩

theorem witness_CrossLaneMoves :
    Ready (lone id) (cx id) { perLane true (accCross (fun m => bits m 0 4 == 0 && bits m 5 3 == 0)) (cx id) [vref 1 1, vref 2 1] (vref 3 1)
      with poison := (cx id).movePoison (vref 1 1) (vref 2 1) (fun _ => 63) } ∧
    (let f := mod8 0xB3
     Ready (lone f) (cx f) { perLane true (accCross (shflMod8 (cx f))) (cx f) [vref 2 2, [.s 4]] (vref 6 2)
       with poison := (cx f).movePoison (vref 2 2) [.s 4] (fun _ => 64) }) :=
  ⟨ready (by decide +kernel), ready (by decide +kernel)⟩

theorem witness_CrossLaneReductions :
    (lanes (cx id).combined).all (fun l => !(cx id).lanePoison (vref 1 1) l) = true ∧
    Ready (lone id) (cx id) { perLane true (accCross (redMod8 false)) (cx id) [vref 1 1] (vref 2 1) with poison := 0 } ∧
    (let f := mod8 0x20
     Ready (lone f) (cx f) { perLane true (accCross (redMod8 true)) (cx f) [vref 1 1] (vref 2 1) with poison := 0 }) :=
  ⟨by decide +kernel, ready (by decide +kernel), ready (by decide +kernel)⟩

theorem witness_SortSelectRandom :
    Ready (lone id) (cx id) (perLane true (accVec sortMod8 false) (cx id) [[.v 1], [.v 2]] (vref 4 2)) ∧
    Ready (lone id) (cx id) (perLane true (accVec sortMod8 false) (cx id) [[.v 1], [.s 2]] (vref 4 2)) ∧
    Ready (lone id) (cx id) (perLane true (accVec (fun m => bits m 1 7 == 0) false) (cx id) [[.v 1], qref 2] (vref 3 1 ++ [.v 1])) ∧
    (let f := mod8 1
     Ready (lone f) (cx f) (perLane true (accVec (fun m => bits m 1 7 == 0) false) (cx f) [[.v 1], qref 2] (vref 2 2 ++ [.v 1]))) :=
  ⟨ready (by decide +kernel), ready (by decide +kernel), ready (by decide +kernel), ready (by decide +kernel)⟩

/-- The five predicates, over the register groups that they read; with finite coordinates, and with IV allowed to go on. -/
theorem witness_GeometricResults (k : Pred) :
    Ready (lone id) (cx id) (perLane ((cx id).vok 127 1 && (cx id).vok 0 (2 * k.points * k.dim))
      (accVec (fun m => bits m 6 2 == 0) false) (cx id) [vref 0 (2 * k.points * k.dim)] [.v 127]) ∧
    (∀ l ∈ lanes (cx id).combined, ((List.range k.points).any (fun p => (List.range k.dim).any (fun j =>
      !(fp64.decode ((cx id).warp.dreg (0 + 2 * (p * k.dim + j)) l).toNat).isFinite))) = false) := by
  cases k <;> exact ⟨ready (by decide +kernel), by decide +kernel⟩

/-- With an index for each point, a k register for the zero mask, and bit 5 set. -/
theorem witness_GeometricResults_indexed :
    (let f := mod8 0x31
     Ready (lone f) (cx f) (perLane ((cx f).vok 127 1 && (cx f).vok 0 (2 * 3 * 2 + 3)) (accVec (fun m => bits m 6 2 == 0) false) (cx f)
       [vref 0 15, qref 2] [.v 127, .k 1])) ∧ bit (cx (mod8 0x31)).mod8 4 = true ∧ bit (cx (mod8 0x31)).mod8 5 = true :=
  ⟨ready (by decide +kernel), by decide +kernel, by decide +kernel⟩

/-! ### Values -/

/-- A tie, a value past the last one, one below the least, and values the formats hold. -/
theorem witness_RoundingIsNearest :
    (let r := fun (f : Fmt) (rm m : Nat) (e : Int) => f.decode (roundTo f rm false (.fin false m e false)).1
     fp32 ∈ allFmts ∧ e4m3 ∈ allFmts ∧ e2m1 ∈ allFmts ∧ (0 : Nat) < 4 ∧ 0 < 0x1000001 ∧
     r fp32 0 0x1000001 0 = .fin false 0x800000 1 false ∧ r fp32 0 0x1FFFFFF 103 = .inf false ∧ r fp32 1 0x1FFFFFF 103 = .fin false 0xFFFFFF 104 false ∧
     r fp32 2 1 (-200) = .fin false 1 (-149) false ∧ fp32.inf = true ∧ e2m1.inf = false ∧ fp32.nan = true ∧ e2m1.nan = false ∧
     (fp32.decode 1).isFinite = true ∧ 1 < fp32.pats ∧ (fp32.decode 0x7F7FFFFF).isFinite = true ∧ 2 ^ (fp32.mb + 1) ≤ 0x1000001) := by
  decide +kernel

theorem witness_ArithmeticIsExact : (-3 : Int) ≤ 0 ∧ (-3 : Int) ≤ -3 ∧ 2 * (-3 : Int) ≤ -6 ∧ 0 < (3 : Nat) ∧ (100000 : Nat) ≤ 100000 ∧
    (divNum (.fin false 6 0 false) (.fin true 3 0 false)).2 = 0 := by decide +kernel

theorem witness_TreesAndPrefixes : ([1, 2, 3, 4] : List Nat).length = 2 ^ (1 + 1) ∧ (1 : Nat) < 2 ∧ (0 : Nat) < [1, 2, 3, 4].length ∧
    (0x80000000 : Nat) < 2 ^ 32 := by decide

/-- Conversions in and past range; a block with a value and a block of zeros; an index and a scale of the codebook. -/
theorem witness_ConversionsAreExact :
    (fmtOf 0 = some fp32 ∧ fmtOf 1 = some bf16 ∧ fmtOf 5 = some e2m1 ∧ 0x40200000 < fp32.pats ∧ (70 : Int) ≤ 70 ∧
     (floatToInt 0 8 (.fin false 5 (-1) false)).2 = flagNX ∧ (floatToInt 0 8 (.fin true 257 (-1) false)).2 ≠ flagIV ∧
     (floatToInt 0 8 (.fin false 128 0 false)).2 = flagIV ∧ (floatToInt 2 8 (.fin true 1281 (-1) false)).2 = flagIV ∧
     (toE8m0 (.fin false 1 0 false)) = (127, 0) ∧ (toE8m0 (.fin false 3 0 false)).2 = flagNX ∧ (toE8m0 (.fin false 1 (-128) false)).1 = 0 ∧
     (toE8m0 (.fin false 1 128 false)).1 = 254 ∧ (mxQuant 5 [.fin true 3 0 false, .fin false 0 0 false]).1 = 126 ∧
     (mxQuant 5 [.fin false 0 0 false]).1 = 127 ∧ (254 : Nat) < 255) := by decide +kernel

/-- A determinant of each kind, of either sign or 0, without indices and with a shared one. -/
theorem witness_DeterminantSigns :
    (let o := [0, 0]; let x := [1, 0]; let y := [0, 1]; let n := [0, -1]
     let p := [1, 0, 0]; let q := [0, 1, 0]; let r := [0, 0, 1]; let z := [0, 0, 0]; let m := [-1, 0, 0]
     (∀ v ∈ [o, x, y, n], v.length = Pred.inc.dim ∧ v.length = Pred.ori2.dim) ∧
     (∀ v ∈ [p, q, r, z, m], v.length = Pred.ins.dim ∧ v.length = Pred.ori3.dim) ∧
     geomSign .ori2 [o, x, y] none = (1, false) ∧ geomSign .ori2 [o, y, x] (some [0, 1, 2]) = (-1, false) ∧
     geomSign .ori2 [o, x, [2, 0]] none = (0, true) ∧ geomSign .ori2 [o, x, [2, 0]] (some [1, 1, 2]) = (0, true) ∧ ¬ [1, 1, 2].Nodup ∧
     geomSign .ori3 [p, q, r, z] none = (1, false) ∧ geomSign .inc [x, y, [-1, 0], o] none = (1, false) ∧
     geomSign .inc [x, y, [-1, 0], n] none = (0, true) ∧ (geomSign .ins [p, q, r, m, z] none).2 = false) := by decide +kernel

/-- Segments that cross, that touch, that lie apart, and that share an end; a coordinate. -/
theorem witness_SegmentsCross :
    geomSign .segx [[0, 0], [2, 2], [0, 2], [2, 0]] none = (1, false) ∧ geomSign .segx [[0, 0], [2, 2], [1, 1], [2, 0]] none = (0, true) ∧
    geomSign .segx [[0, 0], [2, 2], [3, 1], [4, 0]] none = (-1, true) ∧ geomSign .segx [[0, 0], [2, 2], [0, 0], [2, 0]] none = (0, true) ∧
    (fp64.decode 1).isFinite = true ∧ fp64Int 1 = 1 := by decide +kernel

theorem witness_GroupSumsAreExact : ∀ p ∈ [(Num.fin false 3 (-1) false, Num.fin true 5 (-2) false)], ∃ a i e b j f,
    p = (.fin a i e false, .fin b j f false) ∧ (-2 : Int) ≤ e ∧ (-2 : Int) ≤ f := by
  intro p hp; simp at hp; exact ⟨false, 3, -1, true, 5, -2, by simp [hp]⟩

theorem witness_SuffixElements : (List.replicate 64 0x3F800000 : List Nat).length = 64 ∧ fp32.decode 0x3F800000 = .fin false 0x800000 (-23) false ∧
    fp32.decode 0xFF800000 = .inf true ∧ (fp32.decode 0x7FC00000).isNan = true := by decide +kernel

/-! ### Control -/

theorem witness_HintsJoinTheGroup : issueCx (lone id) = some (cx id) ∧ (∀ e ∈ (cx id).split.loops.head?, e.stop ≠ (cx id).split.pc) ∧
    ((cx id).split.hints.length < 3 ∧ ∀ h ∈ (cx id).split.hints, h.kind ≠ 6) ∧
    issueCx (lone (hinted 6 5)) = some (cx (hinted 6 5)) ∧ ¬ (∀ h ∈ (cx (hinted 6 5)).split.hints, h.kind ≠ 6) :=
  ⟨issueCx_in rfl (cxOf_lone (by decide +kernel)) (by decide +kernel), by decide +kernel, by decide +kernel,
    issueCx_in rfl (cxOf_lone (by decide +kernel)) (by decide +kernel), by decide +kernel⟩

/-- The warp with scalar registers, and with mask registers. -/
def withS (l : Table Word) (x : Warp) : Warp := { x with s := l }
def withK (l : Table Mask) (x : Warp) : Warp := { x with k := l }
def withV (l : Table Word) (x : Warp) : Warp := { x with v := l }
def withSplit (f : Split → Split) (x : Warp) : Warp := x.setSplit 0 f

/-- BR: the mask conditions where one lane decides, the signs at their ends. -/
theorem witness_BranchesAndLoops_br :
    (let f := fun x => withK [(1, 1), (2, fullMask 64 &&& ~~~1)] (withS [(3, 0x80000000), (4, 1)] x)
     let c := cx f
     Ready (lone f) c (once true accImm c [] []) ∧ Ready (lone f) c (once true accImm c [[.k 1]] []) ∧
       Ready (lone f) c (once true accImm c [[.s 3]] []) ∧
       c.split.mask &&& c.k 1 ≠ 0 ∧ ¬ c.split.mask &&& c.k 3 ≠ 0 ∧ c.split.mask &&& ~~~(c.k 0) = 0 ∧ ¬ c.split.mask &&& ~~~(c.k 2) = 0 ∧
       c.split.mask &&& c.k 3 = 0 ∧ ¬ c.split.mask &&& c.k 1 = 0 ∧ c.split.mask &&& ~~~(c.k 2) ≠ 0 ∧ ¬ c.split.mask &&& ~~~(c.k 0) ≠ 0 ∧
       c.warp.sreg 0 = 0 ∧ ¬ c.warp.sreg 4 = 0 ∧ c.warp.sreg 4 ≠ 0 ∧ ¬ c.warp.sreg 0 ≠ 0 ∧
       (c.warp.sreg 3).toInt < 0 ∧ ¬ (c.warp.sreg 0).toInt < 0 ∧ 0 ≤ (c.warp.sreg 0).toInt ∧ ¬ 0 ≤ (c.warp.sreg 3).toInt) :=
  ⟨ready (by decide +kernel), ready (by decide +kernel), ready (by decide +kernel), by decide +kernel⟩

theorem witness_BranchesAndLoops_jmpi :
    (let f := withS [(2, 4), (4, 6)]
     Ready (lone f) (cx f) (once true Accept.none (cx f) [qref 2] []) ∧ Ready (lone f) (cx f) (once true Accept.none (cx f) [qref 4] []) ∧
       even (2 : BitVec 7) = true ∧ ((cx f).warp.qreg 2).toNat % 2 ^ 57 % 4 = 0 ∧ ((cx f).warp.qreg 4).toNat % 2 ^ 57 % 4 ≠ 0) :=
  ⟨ready (by decide +kernel), ready (by decide +kernel), by decide +kernel⟩

/-- A loop entry around the words 4 to 12. -/
def around : LoopEnt := ⟨4, 12, 2⟩

theorem witness_BranchesAndLoops_loop :
    (let f := withS [(1, 1)]
     let full := fun x => withSplit (fun q => { q with loops := [around, around, around, around] }) (withS [(1, 1)] x)
     let three := fun x => withSplit (fun q => { q with loops := [around, around, around] }) (withS [(1, 1)] x)
     Ready (lone f) (cx f) (once true accImm (cx f) [] [.v 0, .v 1]) ∧ 1 ≤ (1 : BitVec 18).toInt ∧
       Ready (lone f) (cx f) (once true accImm (cx f) [[.s 0]] []) ∧ ((cx f).warp.sreg 0).toNat = 0 ∧
       Ready (lone three) (cx three) (once true accImm (cx three) [[.s 1]] []) ∧ 0 < ((cx three).warp.sreg 1).toNat ∧
       (cx three).split.loops.length < 4 ∧
       Ready (lone full) (cx full) (once true accImm (cx full) [[.s 1]] []) ∧ 0 < ((cx full).warp.sreg 1).toNat ∧
       4 ≤ (cx full).split.loops.length ∧
       Ready (lone full) (cx full) (once true Accept.none (cx full) [] []) ∧ (cx full).split.loops = around :: [around, around, around] ∧
       Ready (lone id) (cx id) (once true Accept.none (cx id) [] []) ∧ (cx id).split.loops = []) := by
  and_intros
  any_goals decide +kernel
  any_goals exact ready (by decide +kernel)

theorem witness_LoopStackRules : around.stop ≠ 4 ∧ 1 < around.count ∧ ({ around with count := 1 } : LoopEnt).count ≤ 1 ∧
    around.start ≤ 12 ∧ 12 ≤ around.stop ∧ (around.start > 0 ∨ around.stop < 0) := by decide

/-- The four entries of a warp with none free. -/
def crowd (x : Warp) : Warp :=
  { x with splits := x.splits.map (fun q => { q with st := .run, mask := if q.mask = 0 then 0 else 0xF }) }

theorem witness_BrdDivides :
    (let f := withK [(1, 1), (2, 0xF)]
     let c := cx f
     let g := fun x => crowd (withK [(1, 1)] x)
     let h := fun x => withSplit (fun q => { q with defSt := .pending }) (g x)
     Ready (lone f) c (once true accImm c [[.k 3]] [.k 15]) ∧ c.split.mask &&& c.k 3 = 0 ∧
       c.split.mask &&& c.k 0 ≠ 0 ∧ c.split.mask &&& ~~~(c.split.mask &&& c.k 0) = 0 ∧
       c.split.mask &&& c.k 1 ≠ 0 ∧ c.split.mask &&& ~~~(c.split.mask &&& c.k 1) ≠ 0 ∧ freeEntry c.warp.splits = some 1 ∧
       Ready (lone g) (cx g) (once true accImm (cx g) [[.k 1]] [.k 15]) ∧ (cx g).split.mask &&& (cx g).k 1 ≠ 0 ∧
       (cx g).split.mask &&& ~~~((cx g).split.mask &&& (cx g).k 1) ≠ 0 ∧ freeEntry (cx g).warp.splits = none ∧ (cx g).split.defSt = .empty ∧
       Ready (lone h) (cx h) (once true accImm (cx h) [[.k 1]] [.k 15]) ∧ freeEntry (cx h).warp.splits = none ∧ (cx h).split.defSt ≠ .empty) := by
  and_intros
  any_goals decide +kernel
  any_goals exact ready (by decide +kernel)

/-- Two lanes. -/
def two (x : Warp) : Warp := withSplit (fun q => { q with mask := 3 }) x

theorem witness_CallsAndJoins_calli :
    (let f := fun x => two (withV [(64 * 2, 8), (64 * 2 + 1, 8), (64 * 4, 8), (64 * 4 + 1, 16), (64 * 6, 8), (64 * 6 + 1, 2)] x)
     let c := cx f
     let target := fun (a l : Nat) => (c.warp.dreg a l).toNat % 2 ^ 57
     let groups := fun (a : Nat) => groupLanes ((lanes c.split.mask).map (fun l => (l, target a l, 0)))
     Ready (lone f) c (perLane true Accept.none c [vref 2 2] [.v 0, .v 1]) ∧ Ready (lone f) c (perLane true Accept.none c [vref 4 2] [.v 0, .v 1]) ∧
       Ready (lone f) c (perLane true Accept.none c [vref 6 2] [.v 0, .v 1]) ∧
       c.split.mask ≠ 0 ∧ c.vok 6 2 = true ∧ (lanes c.split.mask).filter (fun l => decide (target 6 l % 4 ≠ 0)) ≠ [] ∧
       (lanes c.split.mask).filter (fun l => decide (target 2 l % 4 ≠ 0)) = [] ∧ (groups 2).length = 1 ∧
       (lanes c.split.mask).filter (fun l => decide (target 4 l % 4 ≠ 0)) = [] ∧ (groups 4).length = 2 ∧ c.split.mark = none ∧
       c.split.defSt = .empty) :=
  ⟨ready (by decide +kernel), ready (by decide +kernel), ready (by decide +kernel), by decide +kernel⟩

/-- CALLI to two targets where SPLITX follows: a marker of another address, and no place left. -/
theorem witness_CallsAndJoins_splitx :
    (let f := fun x => two (withV [(64 * 4, 8), (64 * 4 + 1, 16)] x)
     let g := fun x => withSplit (fun q => { q with mark := some (64, 3) }) (f x)
     let h := fun x => withSplit (fun q => { q with mask := 3, defSt := .pending }) (crowd (f x))
     let k := fun x => withSplit (fun q => { q with mask := 3, defSt := .pending }) (crowd (two (withV [(0, 8), (1, 16)] x)))
     let groups := fun (c : Cx) => groupLanes ((lanes c.split.mask).map (fun l => (l, (c.warp.dreg 4 l).toNat % 2 ^ 57, 0)))
     let backs := fun (c : Cx) => groupLanes ((lanes c.split.mask).map (fun l =>
       (l, (c.warp.vreg 0 l).toNat + (c.warp.vreg 1 l).toNat % 2 ^ 25 * 2 ^ 32, (c.warp.vreg 1 l).toNat / 2 ^ 25 % 8)))
     let free := fun (c : Cx) => entriesWith c.warp.splits (fun p => p.st == .free)
     Ready (lone g) (cx g) (perLane true Accept.none (cx g) [vref 4 2] [.v 0, .v 1]) ∧ (groups (cx g)).length = 2 ∧
       (∃ x ∈ (cx g).split.mark, x.1 ≠ ((cx g).split.pc + 4) % 2 ^ 57) ∧
       Ready (lone h) (cx h) (perLane true Accept.none (cx h) [vref 4 2] [.v 0, .v 1]) ∧ (groups (cx h)).length = 2 ∧
       (placeGroups (free (cx h)) ((groups (cx h)).drop 1)).2 ≠ 0 ∧ (cx h).split.defSt ≠ .empty ∧
       Ready (lone k) (cx k) { perLane true Accept.none (cx k) [] [] with
         hidden := [.v 0, .v 1], poison := (cx k).poisonLanes [[.v 0, .v 1]] } ∧ (backs (cx k)).length = 2 ∧
       (placeGroups (free (cx k)) ((backs (cx k)).drop 1)).2 ≠ 0 ∧ (cx k).split.defSt ≠ .empty) := by
  and_intros
  any_goals decide +kernel
  any_goals exact ready (by decide +kernel)

theorem witness_CallsAndJoins_ret :
    (let one := fun x => two (withV [(0, 8), (1, 8)] x)
     let more := fun x => two (withV [(0, 8), (1, 16)] x)
     let bad := fun x => two (withV [(0, 8), (1, 17)] x)
     let target := fun (c : Cx) (l : Nat) => (c.warp.vreg 0 l).toNat + (c.warp.vreg 1 l).toNat % 2 ^ 25 * 2 ^ 32
     let groups := fun (c : Cx) => groupLanes ((lanes c.split.mask).map (fun l => (l, target c l, (c.warp.vreg 1 l).toNat / 2 ^ 25 % 8)))
     let i := fun (c : Cx) => { perLane true Accept.none c [] [] with hidden := [.v 0, .v 1], poison := c.poisonLanes [[.v 0, .v 1]] }
     Ready (lone one) (cx one) (i (cx one)) ∧ (groups (cx one)).length = 1 ∧ (cx one).split.mark = none ∧
       Ready (lone more) (cx more) (i (cx more)) ∧ (groups (cx more)).length = 2 ∧
       (cx more).split.defSt = .empty ∧ (lanes (cx more).split.mask).filter (fun l => decide (target (cx more) l % 4 ≠ 0)) = [] ∧
       Ready (lone bad) (cx bad) (i (cx bad)) ∧
       (lanes (cx bad).split.mask).filter (fun l => decide (target (cx bad) l % 4 ≠ 0)) ≠ []) := by
  and_intros
  any_goals decide +kernel
  any_goals exact ready (by decide +kernel)

theorem witness_CallsAndJoins_join : kreg (15 : BitVec 7) = true ∧ Ready (lone id) (cx id) (once true Accept.none (cx id) [[.k 0]] []) ∧
    (cx id).k 0 &&& (cx id).warp.alive &&& ~~~(cx id).split.mask = 0 ∧
    (let f := fun x => (withK [(1, 3)] x).setSplit 1 (fun q => { q with st := .run, pc := 64, mask := 2 })
     let g := fun x => withSplit (fun q => { q with mask := 1 }) (f x)
     Ready (lone g) (cx g) (once true Accept.none (cx g) [[.k 1]] []) ∧ (cx g).k 1 &&& (cx g).warp.alive &&& ~~~(cx g).split.mask ≠ 0) := by
  and_intros
  any_goals decide +kernel
  any_goals exact ready (by decide +kernel)

theorem witness_WaitsAndEnds :
    (let f := fun x => { withS [(1, 1)] x with gld := 1 }
     let p := fun x : Warp => { x with peer := some (1, 64) }
     let l := fun x : Warp => { x with late := some 2 }
     Ready (lone f) (cx f) (once true Accept.none (cx f) [[.s 1]] []) ∧ (cx f).warp.peer = none ∧ (cx f).warp.late = none ∧
       (cx f).warp.gld ≤ ((cx f).warp.sreg 1).toNat ∧ ((cx f).warp.sreg 0).toNat < (cx f).warp.gld ∧
       Ready (lone p) (cx p) (once true Accept.none (cx p) [[.s 0]] []) ∧ (cx p).warp.peer = some (1, 64) ∧
       Ready (lone l) (cx l) (once true Accept.none (cx l) [[.s 0]] []) ∧ (cx l).warp.late = some 2 ∧
       Ready (lone p) (cx p) (once true Accept.none (cx p) [] []) ∧ (cx p).warp.gst = 0 ∧ (cx p).warp.tmd = 0 ∧
       Ready (lone l) (cx l) (once true Accept.none (cx l) [] []) ∧ (cx l).warp.gst = 0 ∧ (cx l).warp.tmd = 0 ∧ (cx l).warp.peer = none ∧
       Ready (lone id) (cx id) (once true Accept.none (cx id) [] []) ∧ (cx id).ctx.req = false ∧ (cx id).warp.gst = 0 ∧ (cx id).warp.tmd = 0 ∧
       (∀ q ∈ (cx id).warp.splits, q.wait = .ready)) := by
  and_intros
  any_goals decide +kernel
  any_goals exact ready (by decide +kernel)

/-- A cooperative launch at a barrier of all its workgroups, on a die with nothing in flight. -/
theorem witness_WaitsAndEnds_coop :
    (let gr := { Grid.firmware with coop := true }
     let f := fun x : Warp => { x with gst := 1 }
     Ready (lone id gr) (cx id gr) (once true Accept.none (cx id gr) [] []) ∧ (lone id gr).released 0 2 5 = true ∧
     ({ lone id gr with posted := [⟨1, 2, [(0, 7)], [], [(0, 1, false)], [0, 0, 1, 0], false, [2]⟩], uid := 2 } : State).released 0 2 5 = false ∧
     Ready (lone f gr) (cx f gr) (once true Accept.none (cx f gr) [] []) ∧ (cx f gr).warp.gst ≠ 0 ∧
     Ready (lone id gr Group.lone { Ctx.firmware with req := true }) (cx id gr Group.lone { Ctx.firmware with req := true })
       (once true Accept.none (cx id gr) [] [])) := by
  and_intros
  any_goals decide +kernel
  any_goals exact ready (by decide +kernel)

theorem witness_SpecialRegisterReads :
    Ready (lone id) (cx id) (once ((cx id).vok 127 1) Accept.none (cx id) [] [.v 127]) ∧
    Ready (lone id) (cx id) (once true Accept.none (cx id) [] [.s 127]) ∧ even (126 : BitVec 7) = true ∧
    Ready (lone id) (cx id) (once true Accept.none (cx id) [] (qref 126)) ∧ (lone id).resultPending 0 = false ∧
    Ready (lone id) (cx id) (once true Accept.none (cx id) [[.s 1]] (qref 126)) := by
  and_intros
  any_goals decide +kernel
  any_goals exact ready (by decide +kernel)

/-! ### Memory -/

/-- A translation register over the first 64 KiB, which F0's L2 serves. -/
def page0 (ac : Bool) : TReg := ⟨0, 0, true, false, 0, 65536, 0, true, true, ac, false⟩

/-- Two active lanes whose offsets are 0 and 16, with that register in t0. -/
def access (ac : Bool) (x : Warp) : Warp := two { withV [(64, 0), (65, 16)] x with t := [(0, page0 ac)] }

theorem witness_PlainLanes (n : Need) (hn : n ≠ .fetch) (z : Nat) (hz : z ∈ [1, 2, 4, 8, 16]) :
    PlainLanes (lone (access false)) (cx (access false)) (page0 false) n z (fun l => if l = 0 then 0 else 16)
      (fun l => if l = 0 then 0 else 16) (fun _ => 0) (fun _ => some 0) (fun _ => false) := by
  simp only [List.mem_cons, List.mem_nil_iff, or_false] at hz
  rcases hz with rfl | rfl | rfl | rfl | rfl <;> cases n <;>
    first
    | exact ⟨by decide +kernel, by decide +kernel, by decide +kernel, by decide +kernel⟩
    | exact absurd rfl hn

/-- The offsets of the two lanes, with an immediate of 0. -/
theorem witness_laneOff (z : Nat) (hz : z ∈ [1, 2, 4, 8, 16]) : ∀ l ∈ lanes (cx (access false)).combined,
    (cx (access false)).laneOff 1 0 z l = (if l = 0 then 0 else 16 : Int) := by
  simp only [List.mem_cons, List.mem_nil_iff, or_false] at hz
  rcases hz with rfl | rfl | rfl | rfl | rfl <;> decide +kernel

/-- An order and a scope (R219), for a release of the system scope. -/
def ordered (vo : BitVec 2) (sc : BitVec 3) (x : Warp) : Warp := hinted 3 (0#10 ++ vo ++ sc ++ 0#8) x

theorem witness_GlobalLoadsIssue :
    (let f := access false
     let off := withSplit (fun q => { q with mask := 0 })
     let full := fun x : Warp => { access false x with gld := 255 }
     let acq := fun x => ordered 1 5 (access false x)
     Ready (lone f) (cx f) (perLane (mult 4 (124 : BitVec 7) && (cx f).vok 1 1 && (cx f).vok 124 4) (accMem loadOrd naMod8) (cx f)
       [[.t 0], vref 1 1] (vref 124 4)) ∧ (cx f).room .gld 1 = true ∧ (cx f).combined ≠ 0 ∧
     Ready (lone off) (cx off) (perLane true (accMem loadOrd naMod8) (cx off) [[.t 0], vref 1 1] (vref 2 1)) ∧ (cx off).combined = 0 ∧
     Ready (lone full) (cx full) (perLane true (accMem loadOrd naMod8) (cx full) [[.t 0], vref 1 1] (vref 2 1)) ∧
     (cx full).room .gld 1 = false ∧
     Ready (lone acq) (cx acq) (perLane true (accMem loadOrd naMod8) (cx acq) [[.t 0], vref 1 1] (vref 2 1)) ∧ (cx acq).order = 1 ∧
     globalLoad (.ldQ 124 0 1 0) = some (mult 4 (124 : BitVec 7), 16, false, 124, 0, 1, 0)) := by
  and_intros
  any_goals decide +kernel
  any_goals rfl
  any_goals exact ready (by decide +kernel)

theorem witness_GlobalStoresIssue :
    (let f := access false
     let rel := fun x => ordered 2 6 (access false x)
     let full := fun x : Warp => { access false x with gst := 255 }
     let i := fun (c : Cx) => { perLane true (accMem storeOrd naMod8) c [[.t 0], vref 1 1, vref 2 1] [] with poison := c.poisonLanes [vref 1 1] }
     Ready (lone f) (cx f) (i (cx f)) ∧ (cx f).room .gst 1 = true ∧
     (lone f).behind 0 [⟨0, 0, 0, [0, 0, 0, 0], [], none, 0, none⟩, ⟨1, 16, 16, [0, 0, 0, 0], [], none, 0, none⟩] 4 = false ∧
     Ready (lone rel) (cx rel) (i (cx rel)) ∧ (cx rel).order = 2 ∧ (cx rel).scope = 6 ∧ (lone rel).released 0 2 6 = true ∧
     Ready (lone full) (cx full) (i (cx full)) ∧ (cx full).room .gst 1 = false ∧
     globalStore (.stW 2 0 1 0) = some (true, 4, 2, 0, 1, 0)) := by
  and_intros
  any_goals decide +kernel
  any_goals exact ready (by decide +kernel)

/-- An earlier load of the warp of the bytes that a store writes, and a release that waits for it. -/
theorem witness_GlobalStoresIssue_behind :
    (let o : Op := ⟨1, 0, 0, 2, 0, 0, [], some (.gld, 1), .atom .add [⟨0, 0, 0, [1, 0, 0, 0], [], none, 0, none⟩] 4 none 0 0, 2, 0⟩
     let s := { lone (access false) with ops := [o], uid := 2 }
     s.behind 0 [⟨0, 0, 0, [0, 0, 0, 0], [], none, 0, none⟩] 4 = true ∧ s.released 0 2 6 = false) := by decide +kernel

theorem witness_StoresAreSeenAtOnce : ([(4, 1), (5, 2), (4, 3)] : List Host.Cell) = [(4, 1), (5, 2)] ++ (4, 3) :: [] ∧
    (∀ x ∈ ([] : List Host.Cell), x.1 ≠ 4) ∧ (∀ x ∈ ([(4, 1), (5, 2), (4, 3)] : List Host.Cell), x.1 ≠ 6) ∧ (0 : Nat) ≠ 2 := by decide

theorem witness_AtomicsIssue :
    (let f := access true
     let sys := fun x => ordered 3 6 (access true x)
     let low := fun x => ordered 1 6 (access false x)
     let i := fun (c : Cx) (n : Nat) => perLane true (accMem atomOrd noMod8) c [[.t 0], vref 1 1, vref 8 n] (vref 8 n)
     Ready (lone f) (cx f) (i (cx f) 8) ∧ (cx f).room .gld 1 = true ∧ (cx f).order = 0 ∧
     PlainLanes (lone f) (cx f) (page0 true) .atomic 16 (fun l => if l = 0 then 0 else 16) (fun l => if l = 0 then 0 else 16) (fun _ => 0)
       (fun _ => some 0) (fun _ => true) ∧
     Ready (lone sys) (cx sys) (i (cx sys) 1) ∧ (cx sys).order = 3 ∧ (cx sys).scope = 6 ∧ (lone sys).released 0 2 6 = true ∧
     Ready (lone low) (cx low) (i (cx low) 1) ∧ (cx low).order ≠ 0 ∧ (cx low).scope = 6 ∧
     (lanes (cx low).combined).filter (fun _ => !false) ≠ [] ∧ atomicForm (.casQ 8 0 1 0) = some (mult 8 (8 : BitVec 7), .cas, 16, true, 8, 0, 1, 0)) := by
  refine ⟨ready (by decide +kernel), ?_, ?_, ⟨by decide +kernel, by decide +kernel, by decide +kernel, by decide +kernel⟩,
    ready (by decide +kernel), ?_, ?_, ?_, ready (by decide +kernel), ?_, ?_, ?_, rfl⟩ <;> decide +kernel

/-- An invalid register, a misaligned lane, and a lane in the BF16 window. -/
theorem witness_MemoryChecksInOrder :
    (let f := two
     let g := fun x => two { withV [(64, 0), (65, 2)] x with t := [(0, page0 false)] }
     Ready (lone f) (cx f) (perLane true (accMem loadOrd naMod8) (cx f) [[.t 0], vref 1 1] (vref 2 1)) ∧ (cx f).combined ≠ 0 ∧
     (cx f).room .gld 1 = true ∧ ((cx f).warp.treg 0).valid = false ∧
     Ready (lone g) (cx g) (perLane true (accMem loadOrd naMod8) (cx g) [[.t 0], vref 1 1] (vref 2 1)) ∧ ((cx g).warp.treg 0).valid = true ∧
     (lanes (cx g).combined).filter (fun l => decide (vaAt 0 ((cx g).laneOff 1 0 4 l) % 4 ≠ 0)) ≠ [] ∧
     (lanes (cx g).combined).filter (fun l => decide (vaAt 0 ((cx g).laneOff 1 0 2 l) % 2 ≠ 0)) = []) := by
  and_intros
  any_goals decide +kernel
  any_goals exact ready (by decide +kernel)

theorem witness_PrivateLoadsAndStores :
    (let gr := { Grid.firmware with priv := 32 }
     let f := access false
     let out := fun x => two (withV [(64, 28), (65, 32)] x)
     let low := fun x => two (withV [(64, 4), (65, 0xFFFFFFFC)] x)
     let odd := fun x => two (withV [(64, 0), (65, 3)] x)
     let off := fun (g : Warp → Warp) (l : Nat) => (cx g gr).laneOff 1 0 4 l
     let bad := fun (g : Warp → Warp) => (lanes (cx g gr).combined).filter (fun l => decide (off g l % 4 ≠ 0))
     let past := fun (g : Warp → Warp) => (lanes (cx g gr).combined).filter (fun l => decide (off g l < 0 ∨ ceilDiv 32 4 * 4 < off g l + 4))
     let i := fun (c : Cx) => perLane true (accMem loadOrd naMod8) c [vref 1 1] (vref 2 1)
     Ready (lone f gr) (cx f gr) (i (cx f gr)) ∧ bad f = [] ∧ past f = [] ∧
     Ready (lone out gr) (cx out gr) (i (cx out gr)) ∧ bad out = [] ∧ past out = [1] ∧
     Ready (lone low gr) (cx low gr) (i (cx low gr)) ∧ bad low = [] ∧ past low = [1] ∧
     Ready (lone odd gr) (cx odd gr) (i (cx odd gr)) ∧ bad odd = [1] ∧
     Ready (lone f gr) (cx f gr) { perLane true (accMem storeOrd naMod8) (cx f gr) [vref 1 1, vref 2 1] [] with
       poison := (cx f gr).poisonLanes [vref 1 1] } ∧ (lone f gr).privBehind 0 4 [(0, 0), (1, 16)] = false ∧
     privateLoad (.ldPrvW 2 1 0) = some (true, 4, false, 2, 1, 0) ∧ privateStore (.stPrvW 2 1 0) = some (true, 4, 2, 1, 0)) := by
  and_intros
  any_goals decide +kernel
  any_goals exact ready (by decide +kernel)

/-! ### Operations that end -/

/-- The lone warp with one operation pending, number 1. -/
def pending (k : OpKind) (path : Option (Path × Nat) := none) (f : Warp → Warp := id) : State :=
  { lone f with ops := [⟨1, 0, 0, 2, 0, 0, [], path, k, 2, 0⟩], uid := 2 }

theorem endsAlone {s : State} {n : Nat} {o : Op} (h : s.ops = [o]) (hn : o.id = n := by rfl) : EndsAlone s n o := by
  subst hn
  refine ⟨by simp [State.op, h], by simp [h], fun p k hp => ⟨by simp [State.oldestOn, h, hp], ?_⟩⟩
  intro x hx hne
  simp [h] at hx; subst hx; exact absurd rfl hne

/-- One lane's access to the first bytes of F0's L2. -/
def lane0 (data : List Byte) : LaneAcc := ⟨0, 0, 0, data, [], none, 0, none⟩

theorem witness_ResultsArrive : EndsAlone (pending (.result [.s 1 7 false] 1)) 1 ⟨1, 0, 0, 2, 0, 0, [], none, .result [.s 1 7 false] 1, 2, 0⟩ ∧
    (tfind (pending (.result [.s 1 7 false] 1)).warps 0).isSome = true := ⟨endsAlone rfl, rfl⟩

theorem witness_LoadsComplete :
    (let k := OpKind.load [lane0 []] 4 true 3 1 5 0 ⟨0, 0, false⟩
     let s := pending k (some (.gld, 1)) (fun x => { x with gld := 1 })
     EndsAlone s 1 ⟨1, 0, 0, 2, 0, 0, [], some (.gld, 1), k, 2, 0⟩ ∧ (∀ d < 4, bit (s.die d).injctl.toNat 0 = false) ∧
     (∀ a ∈ [lane0 []], a.win = none ∧ (a.pmode = 2 → s.poisoned a.pa 4 = false) ∧ s.inPriv a.pa 4 = false) ∧
     ([lane0 []].any (fun a => !s.installed a.pa || s.before 0 1 (some a.lane) a.pa 4) = false) ∧
     ([{ lane0 [] with pa := 2 ^ 40 }].any (fun a => !s.installed a.pa || s.before 0 1 (some a.lane) a.pa 4) = true)) :=
  ⟨endsAlone rfl, by decide +kernel⟩

/-- A pending result, a load that may be performed, and one of private memory. -/
theorem witness_ResultsAndLoadsEnd :
    (let r := OpKind.result [.s 1 7 false] 1
     let k := fun form => OpKind.load [lane0 []] 4 true 3 1 5 form ⟨0, 0, false⟩
     ((pending r).op 1).map (fun o => o.kind) = some r ∧ ((pending (k 0)).op 1).map (fun o => o.kind) = some (k 0) ∧
     ((pending (k 1)).op 1).map (fun o => o.kind) = some (k 1) ∧ (tfind (pending r).warps 0).isSome = true ∧
     ∀ a ∈ [lane0 []], a.win = none → (pending (k 0)).installed a.pa = true ∧ (pending (k 0)).before 0 1 (some a.lane) a.pa 4 = false) := by
  decide +kernel

/-- No die of the four, nor any other number, has an armed injector in the small machines, and no channel is in self-refresh. -/
theorem witness_quiet (f : Warp → Warp) : (lone f).quiet := by
  refine ⟨fun d => ?_, fun k hk => nomatch hk⟩
  have h : ((lone f).die d).injctl = 0 := by
    match d with
    | 0 => rfl
    | 1 => rfl
    | 2 => rfl
    | 3 => rfl
    | n + 4 => rfl
  rw [h]; decide

/-- The same of any machine whose dies and channels are as at reset. -/
theorem quiet_still {s : State} (hd : s.dies = State.reset.dies := by rfl) (hc : s.chans = [] := by rfl) : s.quiet := by
  refine ⟨fun d => ?_, fun k hk => by rw [hc] at hk; cases hk⟩
  have h : s.die d = (lone id).die d := by simp [State.die, hd, lone]
  rw [h]; exact (witness_quiet id).1 d

/-- A posted store of die 2, number 1, and its operation. -/
def storing : State :=
  { lone id with
    ops := [⟨2, 0, 0, 2, 0, 0, [], some (.gst, 1), .store 1 [lane0 [7]] 1 false, 2, 0⟩]
    posted := [⟨1, 2, [(0, 7)], [], [(0, 1, false)], [0, 0, 1, 0], false, [2]⟩]
    uid := 3 }

theorem witness_StoresPerform : EndsAlone storing 2 ⟨2, 0, 0, 2, 0, 0, [], some (.gst, 1), .store 1 [lane0 [7]] 1 false, 2, 0⟩ ∧ (1 : Nat) ≠ 0 ∧
    (∀ p ∈ storing.posted, tsorted p.bytes = true) ∧ (∀ a ∈ [lane0 [7]], a.win = none ∧ storing.installed a.pa = true) ∧
    (∀ p ∈ storing.ops, p.kind.winLanes = []) := ⟨endsAlone rfl, by decide +kernel⟩

/-- A performed write that die 0 has not applied and may apply; one that it has; one whose stamp it has not reached. -/
theorem witness_WritesApply :
    (let w : Write := ⟨5, 2, [(0, 7)], [(0, 0)], [], [0, 0, 1, 0], true, [2]⟩
     let later : Write := ⟨6, 2, [(0, 8)], [(0, 7)], [], [0, 0, 2, 0], true, [2, 1]⟩
     let s := { lone id with wlog := [later, w] }
     s.wlog = [later] ++ w :: [] ∧ w.applied.contains 0 = false ∧ s.mayApply w 0 = true ∧
     s.wlog.find? (fun w => w.id == 6) = some later ∧ later.applied.contains 1 = true ∧ s.mayApply later 0 = false ∧
     (∀ x ∈ [later], x.id ≠ 5) ∧ (tfind w.bytes 0).isSome = true ∧ tfind w.bytes 1 = none ∧ postedByte s.posted 0 0 = none) := by
  decide +kernel

theorem witness_PrivateStoresAndWriteBacksEnd :
    EndsAlone (pending .privStore (some (.gst, 1))) 1 ⟨1, 0, 0, 2, 0, 0, [], some (.gst, 1), .privStore, 2, 0⟩ ∧
    EndsAlone (pending (.cwb 0 64) (some (.gst, 1))) 1 ⟨1, 0, 0, 2, 0, 0, [], some (.gst, 1), .cwb 0 64, 2, 0⟩ := ⟨endsAlone rfl, endsAlone rfl⟩

theorem witness_AtomicOperations : (4 = 4 ∨ 4 = 8 ∨ 4 = 16) ∧ 0x80000000 < 2 ^ (8 * 4) ∧
    0x80000000 = ofBytes (([0, 0, 0, 0x80, 1, 0, 0, 0] : List Byte).take 4) ∧
    (5 : Nat) ≠ ofBytes (([0, 0, 0, 0x80, 1, 0, 0, 0] : List Byte).take 4) := by decide +kernel

theorem witness_AtomicsPerform :
    (let k := OpKind.atom .add [lane0 [1, 0, 0, 0], { lane0 [2, 0, 0, 0] with lane := 1 }] 4 (some 3) 1 5
     let s := pending k (some (.gld, 1))
     EndsAlone s 1 ⟨1, 0, 0, 2, 0, 0, [], some (.gld, 1), k, 2, 0⟩ ∧ (∀ p ∈ s.posted, tsorted p.bytes = true) ∧
     ∀ a ∈ [lane0 [1, 0, 0, 0], { lane0 [2, 0, 0, 0] with lane := 1 }],
       s.before 0 1 (some a.lane) a.pa 4 = false ∧ s.inPriv a.pa 4 = false ∧ (∀ k < 4, s.installed (a.pa + k) = true) ∧
         ∀ p ∈ s.ops, p.kind.winLanes = []) := ⟨endsAlone rfl, by decide +kernel⟩

theorem witness_AtomicsComplete :
    (let accs := [lane0 [1, 0, 0, 0], { lane0 [2, 0, 0, 0] with lane := 1 }]
     let k := fun f => OpKind.atom f accs 4 (some 3) 1 5
     let s := fun f => pending (k f) (some (.gld, 1))
     ((s .fadd).op 1).map (fun o => o.kind) = some (k .fadd) ∧ ((s .add).op 1).map (fun o => o.kind) = some (k .add) ∧
     ((s .fadd).op 1).map (s .fadd).inOrder = some true ∧ (tfind (s .fadd).warps 0).isSome = true ∧
     (∀ a ∈ accs, (s .fadd).installed a.pa = true ∧ (s .fadd).before 0 1 (some a.lane) a.pa 4 = false)) := by decide +kernel

/-- Die 0 has two writes of die 2 to apply, in the order of their stamps. -/
theorem witness_AcquiresApply :
    (let w : Write := ⟨5, 2, [(0, 7)], [(0, 0)], [], [0, 0, 1, 0], true, [2]⟩
     let later : Write := ⟨6, 2, [(0, 8)], [(0, 7)], [], [0, 0, 2, 0], true, [2]⟩
     ({ lone id with wlog := [later, w], mem := [(0, 8)] } : State).inTurn 0) ∧ (0 : Nat) < 4 ∧ (lone id).dies.length = 4 ∧
    ((lone id).die 0).clock.length = 4 := by
  refine ⟨⟨by decide, ?_⟩, by decide, rfl, rfl⟩
  intro newer w older h hw
  match newer, h with
  | [], h => simp at h; obtain ⟨rfl, rfl⟩ := h; decide +kernel
  | [_], h => simp at h; obtain ⟨rfl, rfl, rfl⟩ := h; decide +kernel
  | _ :: _ :: _, h => simp at h

/-! ### Local buffers, tiles, tensed accesses -/

/-- A workgroup of a cluster of two, with an A-buffer of 4 KiB. -/
def clustered : Grid := { Grid.firmware with agr := 1, cgr := 1, cluster := 2, total := 2 }

/-- The other workgroup of the cluster resides too. -/
def both (f : Warp → Warp) : State :=
  { lone f clustered with groups := [(0, Group.lone), (1, { Group.lone with lin := 1, warps := [] })] }

theorem witness_LocalLoadsAndStores :
    (let f := fun x => two (withV [(64, 0), (65, 4092)] x)
     let bad := fun x => two (withV [(64, 0), (65, 2)] x)
     let form := fun x => two (withV [(64, 0), (65, 0x40000)] x)
     let past := fun x => two (withV [(64, 0), (65, 4096)] x)
     let far := fun x => two (withV [(64, 0x10100000), (65, 0x10100004)] x)
     let addr := fun (g : Warp → Warp) (l : Nat) => toBits ((cx g clustered).laneOff 1 0 4 l) 32
     let i := fun (g : Warp → Warp) => perLane true accLocal (cx g clustered) [vref 1 1] (vref 2 1)
     let j := fun (g : Warp → Warp) => { perLane true accLocal (cx g clustered) [vref 1 1, vref 2 1] [] with
       poison := (cx g clustered).poisonLanes [vref 1 1] }
     Ready (lone f clustered) (cx f clustered) (i f) ∧ Ready (lone f clustered) (cx f clustered) (j f) ∧ (cx f clustered).combined ≠ 0 ∧
     (∀ l ∈ lanes (cx f clustered).combined, addr f l % 4 = 0 ∧ addr f l / 2 ^ 18 = 0 ∧ addr f l + 4 ≤ (cx f clustered).grid.bufSize 0) ∧
     (lone f clustered).noBatch (cx f clustered).group ∧
     Ready (lone bad clustered) (cx bad clustered) (i bad) ∧ addr bad 1 % 4 ≠ 0 ∧
     Ready (lone form clustered) (cx form clustered) (i form) ∧ addr form 1 % 4 = 0 ∧ addr form 1 / 2 ^ 18 % 4 ≠ 0 ∧
     Ready (lone past clustered) (cx past clustered) (i past) ∧ (cx past clustered).grid.bufSize 0 < addr past 1 % 2 ^ 18 + 4 ∧
     Ready (both far) (cx far clustered) (i far) ∧ (lanes (cx far clustered).combined).all (fun l => (addr far l).testBit 28) = true ∧
     (∀ l ∈ lanes (cx far clustered).combined, (both far).localTarget (cx far clustered) (addr far l) ≠ (cx far clustered).gid) ∧
     (cx far clustered).room .lrm 1 = true) := by
  refine ⟨ready (by decide +kernel), ready (by decide +kernel), by decide +kernel, by decide +kernel, ?_, ready (by decide +kernel),
    by decide +kernel, ready (by decide +kernel), by decide +kernel, by decide +kernel, ready (by decide +kernel), by decide +kernel,
    ready_here ⟨rfl, rfl, rfl, rfl, rfl⟩ (by decide +kernel), by decide +kernel, by decide +kernel, by decide +kernel⟩
  intro w hw x hx
  have h : w = 0 := by simpa [cx, Group.lone] using hw
  subst h
  have hx' : x = two (withV [(64, 0), (65, 4092)] start) := by simpa [lone, tfind] using hx.symm
  subst hx'
  exact ⟨rfl, rfl, rfl, rfl⟩

theorem witness_RemoteAccessesComplete :
    (let a : LaneAcc := ⟨0, 4, 0, [1, 2, 3, 4], [], none, 0, none⟩
     let k := fun st => OpKind.remote st [a] 4 2 ⟨0, 0, false⟩
     EndsAlone (pending (k true) (some (.lrm, 1))) 1 ⟨1, 0, 0, 2, 0, 0, [], some (.lrm, 1), k true, 2, 0⟩ ∧
     EndsAlone (pending (k false) (some (.lrm, 1))) 1 ⟨1, 0, 0, 2, 0, 0, [], some (.lrm, 1), k false, 2, 0⟩ ∧
     (tfind (pending (k true)).groups a.pa).isSome = true) := ⟨endsAlone rfl, endsAlone rfl, rfl⟩

/-- A descriptor of two rows of 16 bytes in s4 to s7, and t0. -/
def tile (x : Warp) : Warp := two { withS [(5, 2), (6, 16), (7, 16)] x with t := [(0, page0 false)] }

theorem witness_TileCopiesIssue :
    (let gr := { Grid.firmware with agr := 1 }
     let acc := accMem (fun o sc => o == 0 && sc == 0) naMod8
     let i := fun (f : Warp → Warp) => perLane true acc (cx f gr) [sgroup 4 4, [.t 0]] []
     let bare := fun x : Warp => { tile x with t := [] }
     let off := fun x => withSplit (fun q => { q with mask := 0 }) (tile x)
     let desc := fun x : Warp => { tile x with s := [(6, 16), (7, 16)] }
     let full := fun x : Warp => { tile x with tcp := 254 }
     Ready (lone tile gr) (cx tile gr) (i tile) ∧ (cx tile gr).room .tcp 2 = true ∧ 0 + 2 * 16 ≤ gr.bufSize 0 ∧ Grid.firmware.bufSize 0 < 0 + 2 * 16 ∧
     (∀ r < 2, (lone tile gr).rowPieces (cx tile gr) (page0 false) .load 16 r (r * 16) = [.ok ⟨r, r * 16, r * 16, [], [], none, 0, some 0⟩ false]) ∧
     Ready (lone bare gr) (cx bare gr) (i bare) ∧ ((cx bare gr).warp.treg 0).valid = false ∧
     Ready (lone off gr) (cx off gr) (i off) ∧ (cx off gr).combined = 0 ∧
     Ready (lone desc gr) (cx desc gr) (i desc) ∧ ((cx desc gr).warp.sreg 5).toNat % 2 ^ 8 = 0 ∧
     Ready (lone full gr) (cx full gr) (i full) ∧ (cx full gr).room .tcp 2 = false) := by
  and_intros
  any_goals decide +kernel
  any_goals exact ready (by decide +kernel)

/-- Each TCOPY form with its rows in reach, and a row that may land. -/
theorem witness_TileCopiesComplete :
    (let gr := { Grid.firmware with agr := 1 }
     let c := cx tile gr
     let i := fun (vo : List (List RegRef)) => perLane true (accMem (fun o sc => o == 0 && sc == 0) naMod8) c ([sgroup 4 4, [.t 0]] ++ vo) []
     let k := fun scat => OpKind.row 0 false 0 [lane0 []] scat
     let s := fun scat => pending (k scat) (some (.tcp, 1))
     Ready (lone tile gr) c (i []) ∧ Ready (lone tile gr) c (i [vref 1 1]) ∧ mult 4 (4 : BitVec 7) = true ∧ c.combined ≠ 0 ∧
     (c.warp.treg 0).valid = true ∧ (c.warp.sreg 4).toNat = 0 ∧ (c.warp.sreg 5).toNat = 2 ∧ (c.warp.sreg 6).toNat = 16 ∧
     (c.warp.sreg 7).toInt = 16 ∧ 0 + 2 * 16 ≤ c.grid.bufSize 0 ∧ c.warp.tcp + 2 ≤ 255 ∧ c.warp.replay = none ∧ c.vok 1 1 = true ∧ 2 ≤ c.grid.w ∧
     (∀ r < 2, (lone tile gr).rowPieces c (page0 false) .load 16 r (r * 16) = [.ok ⟨r, r * 16, r * 16, [], [], none, 0, some 0⟩ false] ∧
       (lone tile gr).rowPieces c (page0 false) .store 16 r 0 = [.ok ⟨r, 0, 0, [], [], none, 0, some 0⟩ false]) ∧
     (∀ b, ((s b).op 1).map (fun o => o.kind) = some (k b) ∧ (tfind (s b).groups 0).isSome = true ∧ (s b).installed 0 = true ∧
       (s b).beforeRow 0 1 0 = false ∧ (s b).before 0 1 none 0 16 = false ∧ (s b).ops.all (fun o => (s b).inOrder o) = true)) :=
  ⟨ready (by decide +kernel), ready (by decide +kernel), by decide +kernel⟩

theorem witness_TileRowsLand :
    (let k := fun scat => OpKind.row 0 false 0 [lane0 []] scat
     EndsAlone (pending (k false) (some (.tcp, 1))) 1 ⟨1, 0, 0, 2, 0, 0, [], some (.tcp, 1), k false, 2, 0⟩ ∧
     EndsAlone (pending (k true) (some (.tcp, 1))) 1 ⟨1, 0, 0, 2, 0, 0, [], some (.tcp, 1), k true, 2, 0⟩ ∧
     (tfind (pending (k true)).groups 0).isSome = true ∧
     (∀ a ∈ [lane0 []], a.win = none ∧ (pending (k true)).poisoned a.pa 16 = false ∧ (pending (k false)).beforeRow 0 1 a.pa = false ∧
       (pending (k true)).before 0 1 none a.pa 16 = false ∧ (pending (k true)).inPriv a.pa 16 = false ∧
       ∀ j < 16, (pending (k true)).installed (a.pa + j) = true) ∧ ∀ p ∈ (pending (k true)).ops, p.kind.winLanes = []) :=
  ⟨endsAlone rfl, endsAlone rfl, rfl, by decide +kernel⟩

/-- The same machine with die 2 LOCKED at time 1000. -/
def timed (s : State) : State := { s with dies := lset s.dies 2 { Die.reset 2 with tstate := .locked, time := 1000 } }

theorem witness_TensedAccessesIssue :
    (let f := fun x => mod8 1 { access false x with s := [(2, 1000 + 2 ^ 24)] }
     let far := fun x => mod8 1 { access false x with s := [(2, 1001 + 2 ^ 24)] }
     let acc := accMem (fun o sc => sc == 0 && (o == 0 || o == 2)) (fun m => bits m 7 1 == 0)
     let i := fun (g : Warp → Warp) => { perLane true acc (cx g) ([[.t 0], vref 1 1] ++ [vref 2 1] ++ [qref 2]) [] with
       poison := (cx g).poisonLanes [vref 1 1, qref 2] }
     Ready (timed (lone f)) (cx f) (i f) ∧ ((timed (lone f)).die 2).tstate = .locked ∧
     ((cx f).warp.qreg 2).toNat ≤ ((timed (lone f)).die 2).time + 2 ^ 24 ∧ (timed (lone f)).homeDie 0 = 2 ∧ (timed (lone f)).homeDie 16 = 2 ∧
     PlainLanes (timed (lone f)) (cx f) (page0 false) .store 4 (fun l => if l = 0 then 0 else 16) (fun l => if l = 0 then 0 else 16) (fun _ => 0)
       (fun _ => some 0) (fun _ => false) ∧ (cx f).room .tmd 1 = true ∧
     Ready (lone f) (cx f) (i f) ∧ ((lone f).die 2).tstate ≠ .locked ∧
     Ready (timed (lone far)) (cx far) (i far) ∧ ((timed (lone far)).die 2).time + 2 ^ 24 < ((cx far).warp.qreg 2).toNat) := by
  refine ⟨ready_here ⟨rfl, rfl, rfl, rfl, rfl⟩ (by decide +kernel), ?_, ?_, ?_, ?_,
    ⟨by decide +kernel, by decide +kernel, by decide +kernel, by decide +kernel⟩, ?_, ready (by decide +kernel), ?_,
    ready_here ⟨rfl, rfl, rfl, rfl, rfl⟩ (by decide +kernel), ?_⟩ <;> decide +kernel

/-- Lane 0 of a tensed store: due at the home's time, due before it, queued, held, or done with a late notice to give. -/
theorem witness_TensedStoresTakeEffect :
    (let l := [lane0 [1, 0, 0, 0]]
     let k := fun (t : Nat) (q : List Nat) (h : List (Nat × Nat)) (g : List Nat) (late : Mask) => OpKind.stt l 4 t false true q h g late false
     let s := fun (x : OpKind) => timed (pending x (some (.tmd, 1)))
     let new := s (k 1000 [] [] [] 0)
     let held := s (k 1000 [] [(0, 9)] [] 0)
     let past := s (k 999 [] [] [0] 1)
     new.laneOn l 2 0 = true ∧ new.laneOn l 1 0 = false ∧ (new.ops.all (fun o => new.sttReady o false)) = true ∧
     (({ new with ops := [⟨0, 0, 0, 2, 0, 0, [], none, .stt l 4 0 true true [] [] [] 0 false, 2, 0⟩] ++ new.ops } : State).ops.all
       (fun o => o.id != 1 || !({ new with ops := [⟨0, 0, 0, 2, 0, 0, [], none, .stt l 4 0 true true [] [] [] 0 false, 2, 0⟩] ++ new.ops } :
         State).sttReady o true)) = true ∧
     new.heldOn 2 < 65536 ∧ held.heldOn 2 = 1 ∧ (new.die 2).time ≤ 1000 ∧ 999 < (new.die 2).time ∧ (∀ a ∈ l, new.inPriv a.pa 4 = false) ∧
     (∀ x ∈ new.ops, x.kind.winLanes = []) ∧ held.sttBehind 2 1000 9 = false ∧ held.sttBehind 2 1001 9 = true ∧ new.dies.length = 4 ∧
     EndsAlone held 1 ⟨1, 0, 0, 2, 0, 0, [], some (.tmd, 1), k 1000 [] [(0, 9)] [] 0, 2, 0⟩ ∧
     EndsAlone past 1 ⟨1, 0, 0, 2, 0, 0, [], some (.tmd, 1), k 999 [] [] [0] 1, 2, 0⟩) := by
  and_intros
  any_goals decide +kernel
  any_goals exact endsAlone rfl

/-- Lane 0 of a tensed load: on its way, behind a store of its thread, or arrived, where a held store is due or is not. -/
theorem witness_TensedLoadsPerform :
    (let k := fun (a : List Nat) => OpKind.ldt [lane0 []] 4 3 1000 true a [] ⟨0, 0, false⟩
     let s := fun (x : OpKind) => timed (pending x (some (.tmd, 1)))
     let stt := fun (t : Nat) => (⟨5, 0, 0, 2, 0, 0, [], none, .stt [lane0 [1, 0, 0, 0]] 4 t false true [] [(0, 9)] [] 0 false, 2, 0⟩ : Op)
     let with' := fun (o : Op) (x : State) => { x with ops := o :: x.ops }
     let store : Op := ⟨0, 0, 0, 2, 0, 0, [], some (.gst, 1), .store 1 [lane0 [7, 0, 0, 0]] 4 false, 2, 0⟩
     (s (k [])).laneOn [lane0 []] 2 0 = true ∧ 1000 ≤ ((s (k [0])).die 2).time ∧
     (s (k [0])).before 0 1 (some 0) 0 4 = false ∧ (s (k [0])).storeBefore 0 1 (some 0) 0 4 = false ∧
     (with' store (s (k []))).storeBefore 0 1 (some 0) 0 4 = true ∧ (s (k [0])).homeDie 0 = 2 ∧ (s (k [0])).inPriv 0 4 = false ∧
     (s (k [0])).heldOver 2 1000 0 4 = false ∧ (with' (stt 1000) (s (k [0]))).heldOver 2 1000 0 4 = true ∧
     (with' (stt 1001) (s (k [0]))).heldOver 2 1000 0 4 = false ∧
     EndsAlone (s (k [0])) 1 ⟨1, 0, 0, 2, 0, 0, [], some (.tmd, 1), k [0], 2, 0⟩) := by
  and_intros
  any_goals decide +kernel
  any_goals exact endsAlone rfl

/-- A page of die 2 that maps its address to itself with the leaf bits p. -/
def mapped (va p : Nat) : TlbEnt := ⟨0, va, 0, BitVec.ofNat 64 (p + va), none⟩

/-- Tables of a slot, known to die 2 by these entries; any other address walks through memory that holds zeros. -/
def paged (e : List TlbEnt) (s : State) : State := { s with dies := lset s.dies 2 { Die.reset 2 with tlb := e } }

/-- A slot with page tables. -/
def tables : Ctx := { Ctx.firmware with ptroot := 0x100000 }

/-- A lane in the BF16 window, whose page is readable and writable. -/
theorem witness_MemoryChecksInOrder_window :
    (let f := fun x => two { withV [(64, 0), (65, 16)] x with t := [(0, { page0 false with base := 0x10000, limit := 0 })] }
     let s := paged [mapped 0x10000 0x40D] (lone f Grid.firmware Group.lone tables)
     let c := cx f Grid.firmware Group.lone tables
     Ready s c (perLane true (accMem loadOrd naMod8) c [[.t 0], vref 1 1] (vref 2 1)) ∧ (c.warp.treg 0).valid = true ∧
     (lanes c.combined).filter (fun l => decide (vaAt 0x10000 (c.laneOff 1 0 4 l) % 4 ≠ 0)) = [] ∧
     (lanes c.combined).filter (fun l => s.inWindow 772 0 (c.warp.treg 0) 4 (c.laneOff 1 0 4 l)) ≠ []) :=
  ⟨ready_here ⟨rfl, rfl, rfl, rfl, rfl⟩ (by decide +kernel), by decide +kernel⟩

/-! ### Fences, translation registers, semaphores, migration -/

/-- The fence waits behind an atomic, and as a release behind a write that is not applied everywhere. -/
theorem witness_FencesAndCacheControl :
    (let f := withS [(2, 64), (4, 64)]
     let full := fun x : Warp => { f x with gst := 255 }
     let o : Op := ⟨1, 0, 0, 2, 0, 0, [], some (.gld, 1), .atom .add [⟨0, 0, 0, [1, 0, 0, 0], [], none, 0, none⟩] 4 none 0 0, 2, 0⟩
     let s := { lone f with ops := [o] }
     let p := { lone f with posted := [⟨1, 2, [(0, 7)], [], [(0, 1, false)], [0, 0, 1, 0], false, [2]⟩] }
     let i := fun (g : Warp → Warp) => once (even (2 : BitVec 7)) accNoMod (cx g) [qref 2, sref 4] []
     Ready (lone f) (cx f) (once true accNoMod (cx f) [] []) ∧ ((lone f).ops.any (fun o => o.warp == 0 && o.kind.holdsRelease) = false) ∧
     (lone f).drained 2 = true ∧
     Ready s (cx f) (once true accNoMod (cx f) [] []) ∧ s.ops.any (fun o => o.warp == 0 && o.kind.holdsRelease) = true ∧
     Ready p (cx f) (once true accNoMod (cx f) [] []) ∧ p.drained 2 = false ∧
     Ready (lone f) (cx f) (i f) ∧ ((cx f).warp.sreg 4).toNat ≠ 0 ∧ (cx f).room .gst 1 = true ∧
     Ready (lone id) (cx id) (i id) ∧ ((cx id).warp.sreg 4).toNat = 0 ∧
     Ready (lone full) (cx full) (i full) ∧ (cx full).room .gst 1 = false) := by
  and_intros
  any_goals decide +kernel
  any_goals exact ready_here ⟨rfl, rfl, rfl, rfl, rfl⟩ (by decide +kernel)

/-- A page that is absent, one that is there, one that moves, and one of the BF16 window. -/
theorem witness_TranslationRegisters :
    (let f := withS [(2, 0x10010), (4, 256)]
     let s := fun (p : Nat) => paged [mapped 0x10000 p] (lone f Grid.firmware Group.lone tables)
     let c := cx f Grid.firmware Group.lone tables
     let pte := fun (p : Nat) => match (s p).leaf 772 0 0x10010 with | .ok x => x.pte | .error _ => 0
     Ready (lone f Grid.firmware Group.lone tables) c (once (even (2 : BitVec 7)) accNoMod c [qref 2, sref 4] [.t 0]) ∧
     (match (lone f Grid.firmware Group.lone tables).leaf 772 0 0x10010 with | .ok _ => false | .error x => x == (.notPresent, false)) = true ∧
     Ready (s 0x0D) c (once (even (2 : BitVec 7)) accNoMod c [qref 2, sref 4] [.t 7]) ∧ pte 0x0D = 0x1000D ∧ pte 0x8D = 0x1008D ∧
     pte 0x40D = 0x1040D ∧ (0x1008D : Nat).testBit 7 = true ∧ (0x1000D : Nat).testBit 7 = false ∧ (0x1040D : Nat).testBit 10 = true ∧
     Ready (lone id) (cx id) (once true accNoMod (cx id) [] [.t 7])) := by
  and_intros
  any_goals decide +kernel
  any_goals exact ready (by decide +kernel)
  any_goals exact ready_here ⟨rfl, rfl, rfl, rfl, rfl⟩ (by decide +kernel)

/-- A semaphore at 64, which holds 0: thresholds 0 and 1; one at 68; no room in GST; a store that a release waits for. -/
theorem witness_Semaphores :
    (let f := withS [(2, 64), (4, 1), (6, 68)]
     let full := fun x : Warp => { f x with gst := 255 }
     let wait := fun (n : Nat) (x : Warp) => withSplit (fun q => { q with wait := .sem 64 n }) x
     let p := { lone f with posted := [⟨1, 2, [(0, 7)], [], [(0, 1, false)], [0, 0, 1, 0], false, [2]⟩] }
     let absent := lone f Grid.firmware Group.lone tables
     let go := fun (s : State) (n : Need) => match s.translate 772 0 64 n with | .ok x => x.window == none && x.pa == 64 | .error _ => false
     Ready (lone f) (cx f) (once (even (2 : BitVec 7)) accNoMod (cx f) [qref 2, sref 4] []) ∧ (cx f).room .gst 1 = true ∧
     go (lone f) .atomic = true ∧ (lone f).released 0 2 5 = true ∧ p.released 0 2 5 = false ∧ go absent .atomic = false ∧
     ((cx f).warp.qreg 2).toNat % 2 ^ 57 % 8 = 0 ∧ ((cx f).warp.qreg 6).toNat % 2 ^ 57 % 8 ≠ 0 ∧
     Ready (lone full) (cx full) (once (even (2 : BitVec 7)) accNoMod (cx full) [qref 2, sref 4] []) ∧ (cx full).room .gst 1 = false ∧
     Ready (lone f) (cx f) (once (even (2 : BitVec 7) && even (4 : BitVec 7)) accNoMod (cx f) [qref 2, qref 4] []) ∧ go (lone f) .load = true ∧
     ((cx f).warp.qreg 8).toNat ≤ ofBytes ((List.range 8).map (fun i => memByte (lone f).mem (64 + i))) ∧
     ofBytes ((List.range 8).map (fun i => memByte (lone f).mem (64 + i))) < ((cx f).warp.qreg 4).toNat ∧
     (lone (wait 1)).waiting 0 0 = some (cx (wait 1)) ∧ (cx (wait 1)).split.wait = .sem 64 1 ∧ go (lone (wait 1)) .load = true ∧
     (lone (wait 0)).waiting 0 0 = some (cx (wait 0)) ∧ (cx (wait 0)).split.wait = .sem 64 0) := by
  and_intros
  any_goals decide +kernel
  any_goals exact ready (by decide +kernel)
  any_goals exact (waiting_here ⟨rfl, rfl, rfl, rfl, rfl⟩ (by decide +kernel)).2

/-- A warp of F0 that may migrate: to its own die, and to die 0; one of a launch that does not allow it. -/
theorem witness_WarpMigration :
    (let gr := { Grid.firmware with migr := true }
     let f := withS [(2, 64), (4, 0x4000000)]
     let go := withSplit (fun q => { q with wait := .migrate 0 })
     let alone := fun (gr : Grid) => gr.migr = true ∧ (cx f gr).group.warps.length = 1 ∧
       entriesWith (cx f gr).warp.splits (fun p => p.st == .run) = [0] ∧ entriesWith (cx f gr).warp.splits (fun p => p.defSt != .empty) = []
     let home := fun (va : Nat) => match (lone f gr).xlatePath 2 0 va with | .ok x => (lone f gr).homeDie x.pa | .error _ => 9
     Ready (lone f gr) (cx f gr) (once (even (2 : BitVec 7)) accNoMod (cx f gr) [qref 2] []) ∧ alone gr ∧ home 64 = 2 ∧
     Ready (lone f gr) (cx f gr) (once (even (4 : BitVec 7)) accNoMod (cx f gr) [qref 4] []) ∧ home 0x4000000 = 0 ∧
     Ready (lone f) (cx f) (once (even (2 : BitVec 7)) accNoMod (cx f) [qref 2] []) ∧ ¬ alone Grid.firmware ∧
     (lone go gr).waiting 0 0 = some (cx go gr) ∧ (cx go gr).split.wait = .migrate 0 ∧ (cx go gr).warp.vE = 0 ∧ (cx go gr).warp.gld = 0 ∧
     (cx go gr).warp.lrm = 0 ∧ (cx go gr).warp.tcp = 0 ∧ (cx go gr).warp.tmd = 0 ∧ ((lone go gr).landed 0).contains (0 * 384 + 0) = false) :=
  ⟨ready (by decide +kernel), by decide +kernel, by decide +kernel, ready (by decide +kernel), by decide +kernel,
    ready (by decide +kernel), by decide +kernel, (waiting_here ⟨rfl, rfl, rfl, rfl, rfl⟩ (by decide +kernel)).2, by decide +kernel⟩

/-! ### Handles and the matrix unit -/

/-- A matrix record with both formats code 1, A from registers or from the buffer. -/
def matBytes (asrc : Bool) : List Byte := [0x11, if asrc then 0x11 else 0x01] ++ List.replicate 62 0

/-- A matrix record at 64, one of kind 5 at 128. -/
theorem witness_HandlesAreSealedAndFreed :
    (let f := withS [(2, 64), (4, 128), (6, 4)]
     let s := { lone f with mem := [(64, 0x11), (65, 0x01), (128, 5)] }
     let one := fun (a n : Nat) => match s.pieces 2 0 .load a n with | .ok l => l == [⟨a, a, n, none⟩] | .error _ => false
     Ready s (cx f) (once true accNoMod (cx f) [qref 2] [.h 15, .s 15]) ∧ ((cx f).warp.qreg 2).toNat % 2 ^ 57 % 64 = 0 ∧
     one 64 4 = true ∧ one 64 64 = true ∧ s.ownAhead 0 [⟨64, 64, 4, none⟩] = false ∧ s.ownAhead 0 [⟨64, 64, 64, none⟩] = false ∧
     s.piecePoison ⟨64, 64, 64, none⟩ = none ∧ (s.view 2 64 4).headD 0 % 16 = 1 ∧
     [(⟨64, 64, 64, none⟩ : Piece)].flatMap (fun p => s.view 2 p.pa p.len) = matBytes false ∧
     (matFields (matBytes false)).find? (fun x => !x.2) = none ∧
     Ready s (cx f) (once true accNoMod (cx f) [qref 4] [.h 0, .s 0]) ∧ one 128 4 = true ∧ (s.view 2 128 4).headD 0 % 16 = 5 ∧
     Ready s (cx f) (once true accNoMod (cx f) [qref 6] [.h 0, .s 0]) ∧ ((cx f).warp.qreg 6).toNat % 2 ^ 57 % 64 ≠ 0 ∧
     Ready s (cx f) (once true accNoMod (cx f) [] [.h 0])) := by
  and_intros
  any_goals decide +kernel
  any_goals exact ready_here ⟨rfl, rfl, rfl, rfl, rfl⟩ (by decide +kernel)

/-- A launch whose tiles fit, and one of joint groups of two warps of 32 lanes. -/
def tiles : Grid := { Grid.firmware with agr := 1, wgr := 1, cgr := 4 }
def joint : Grid := { tiles with w := 32 }

/-- A handle on a record in h1; the same with the reuse latch full. -/
def matrix (asrc : Bool) (x : Warp) : Warp := { x with h := [(1, ⟨.valid, matBytes asrc⟩)], s := [(2, 1), (3, 4096)] }
def reused (x : Warp) : Warp := { matrix false x with latch := some ⟨1, List.replicate 64 none, List.replicate 256 0, 0⟩ }

/-- Sixteen operations are open and not yet started. -/
def crowded (x : Warp) : Warp :=
  { matrix false x with openSet := List.replicate 16 ⟨matBytes false, some (List.replicate 64 none), none, 1, false, none, 0, 0, [], 0, 0, []⟩ }

/-- The lone warp with a second of the same workgroup, at index 1, as g leaves it. -/
def pair (f : Warp → Warp) (g : Warp → Warp) : State :=
  { lone f joint { Group.lone with warps := [0, 1] } with warps := [(0, f start), (1, { g start with idx := 1 })] }

theorem witness_MatrixOperationsJoinTheOpenSet :
    (let past := fun (gr : Grid) (a : Bool) (j : Nat) => ((MatRec.read (matBytes a)).step j).tiles.find? (fun t => decide (gr.bufSize t.1 < t.2.1 + t.2.2))
     let g2 := { Group.lone with warps := [0, 1] }
     let second := fun x : Warp => { x with idx := 1 }
     let mrdy := fun (c : Cx) => { once true accNoMod c [vref 16 16] [] with poison := 0 }
     Ready (lone id tiles) (cx id tiles) (mmaIssue 1 0 (cx id tiles)) ∧ ((cx id).warp.hreg 1).st ≠ .valid ∧
     Ready (lone (matrix false) tiles) (cx (matrix false) tiles) (mmaIssue 1 0 (cx (matrix false) tiles)) ∧
     leAt (matBytes false) 0 1 % 16 = 1 ∧ (cx (matrix false) tiles).mmaIllegal (MatRec.read (matBytes false)) 0 true = false ∧
     (lone (matrix false) tiles).pathOn 768 1 = true ∧ (past tiles false 0).isNone = true ∧ (past Grid.firmware false 0).isSome = true ∧
     Ready (lone (matrix true) tiles) (cx (matrix true) tiles) (mmaIssue 1 0 (cx (matrix true) tiles)) ∧
     (MatRec.read (matBytes true)).asrc = true ∧ (past tiles true 0).isNone = true ∧ (past tiles true 1).isSome = true ∧
     (cx (matrix true) tiles).mmaIllegal (MatRec.read (matBytes true)) 0 true = true ∧
     Ready (lone reused tiles) (cx reused tiles) (mmaIssue 1 0 (cx reused tiles)) ∧ (cx reused tiles).warp.latch.isSome = true ∧
     Ready (lone crowded tiles) (cx crowded tiles) (mmaIssue 1 0 (cx crowded tiles)) ∧
     16 ≤ ((cx crowded tiles).warp.openSet.filter (fun o => o.ran == 0)).length ∧
     Ready (pair (matrix false) id) (cx (matrix false) joint g2) (mmaIssue 1 0 (cx (matrix false) joint g2)) ∧
     (pair (matrix false) id).jointRows (cx (matrix false) joint g2) 0 = none ∧
     Ready (lone (matrix true) tiles) (cx (matrix true) tiles) (once true accNoMod (cx (matrix true) tiles) [[.h 1], sref 2] []) ∧
     ((cx (matrix true) tiles).warp.sreg 2).toNat = 1 ∧ ((cx (matrix true) tiles).warp.sreg 0).toNat = 0 ∧
     4095 < ((cx (matrix true) tiles).warp.sreg 3).toNat ∧
     Ready (lone id tiles) (cx id tiles) (mrdy (cx id tiles)) ∧ tiles.w = 64 ∧
     Ready (lone second joint g2) (cx second joint g2) (mrdy (cx second joint g2)) ∧ joint.w ≠ 64 ∧
     (cx second joint g2).jointWarps.head? = some 0) := by
  and_intros
  any_goals decide +kernel
  any_goals exact ready (by decide +kernel)
  any_goals exact ready_here ⟨rfl, rfl, rfl, rfl, rfl⟩ (by decide +kernel)

/-- The first member waits for the second: which has no MRDY, or one. -/
theorem witness_JointIssuePairs :
    (let f := fun x => withSplit (fun q => { q with wait := .joint 1 0 2 }) (matrix false x)
     let g := fun x : Warp => { withSplit (fun q => { q with wait := .mrdy }) x with mrdys := [⟨0, 16, false⟩] }
     let c := cx f joint { Group.lone with warps := [0, 1] }
     (pair f id).waiting 0 0 = some c ∧ (pair f g).waiting 0 0 = some c ∧ c.split.wait = .joint 1 0 2 ∧ (c.warp.hreg 1).st = .valid ∧
     leAt (c.warp.hreg 1).bytes 0 1 % 16 = 1 ∧ c.readsRegs (MatRec.read (c.warp.hreg 1).bytes) = true ∧ c.warp.bound = 0 ∧
     c.warp.loose = [] ∧ c.split.div = 0 ∧
     (c.jointWarps.drop 1).contains 0 = false ∧ (pair f id).jointRows c 0 = none ∧ ((pair f g).jointRows c 0).isSome = true) :=
  ⟨(waiting_here ⟨rfl, rfl, rfl, rfl, rfl⟩ (by decide +kernel)).2, (waiting_here ⟨rfl, rfl, rfl, rfl, rfl⟩ (by decide +kernel)).2,
    by decide +kernel⟩

/-- A batch, complete or not, with one operation. -/
def batch (n : BitVec 8) (done : Bool) : Batch :=
  ⟨n, if done then [] else [⟨matBytes false, some (List.replicate 64 none), none, 1, false, none, 0, 0, [], 0, 0, []⟩], [], 0, done, false, none, 0, false⟩

theorem witness_BatchesCloseAndAreAwaited :
    (let f := fun x : Warp => { x with nb := 1, batches := [batch 0 false] }
     let g := fun x : Warp => { x with nb := 1, batches := [batch 0 true] }
     let full := fun x : Warp => { x with nb := 8, batches := List.replicate 8 (batch 0 false) }
     let i := fun (c : Cx) => once true accNoMod c [] [.s 15]
     Ready (lone f) (cx f) (i (cx f)) ∧ ((cx f).warp.batches.filter (fun b => !b.done)).length < 8 ∧ (cx f).warp.part = none ∧
     ((cx f).warp.nb - 1).toNat = 0 ∧ ((cx f).warp.nb - 0).toNat = 1 ∧ (cx f).warp.batches[0]? = some (batch 0 false) ∧
     Ready (lone g) (cx g) (i (cx g)) ∧ (cx g).warp.batches[0]? = some (batch 0 true) ∧
     (((cx g).warp.batches.take 1).filter (fun x => !x.named)).all (fun x => x.poison == none) = true ∧
     Ready (lone full) (cx full) (i (cx full)) ∧ 8 ≤ ((cx full).warp.batches.filter (fun b => !b.done)).length) := by
  and_intros
  any_goals decide +kernel
  any_goals exact ready (by decide +kernel)

/-- No batch open, a batch that is complete, one that lies nine places back; and an open batch that no split waits for. -/
theorem witness_BatchInstructionsComplete :
    (let g := fun x : Warp => { x with nb := 1, batches := [batch 0 true] }
     let f := fun x : Warp => { x with nb := 1, batches := [batch 0 false] }
     let i := fun (c : Cx) => once true accNoMod c [] [.s 15]
     Ready (lone g) (cx g) (i (cx g)) ∧ ((cx g).warp.batches.filter (fun b => !b.done)).length < 8 ∧ ((cx g).warp.nb - 0).toNat = 1 ∧
     (cx g).warp.batches[0]? = some (batch 0 true) ∧ (∀ b ∈ (cx g).warp.batches, b.poison = none) ∧ 8 < ((cx g).warp.nb - 248).toNat ∧
     (lone f tiles).cxOf 0 0 = some (cx f tiles) ∧ (cx f tiles).warp.batches.findIdx? (fun x => !x.done) = some 0 ∧
     ((cx f tiles).warp.splits.all (fun p => p.wait == .ready)) = true) := by
  and_intros
  any_goals decide +kernel
  any_goals exact ready (by decide +kernel)
  any_goals exact (waiting_here ⟨rfl, rfl, rfl, rfl, rfl⟩ (by decide +kernel)).1

theorem witness_BatchesComplete :
    (let f := fun x : Warp => { x with nb := 1, batches := [batch 0 false] }
     (lone f tiles).cxOf 0 0 = some (cx f tiles) ∧ (cx f tiles).warp.batches.findIdx? (fun x => !x.done) = some 0 ∧
     (cx f tiles).warp.batches[0]? = some (batch 0 false) ∧
     (batch 0 false).ops = [⟨matBytes false, some (List.replicate 64 none), none, 1, false, none, 0, 0, [], 0, 0, []⟩] ∧
     ((cx f tiles).warp.splits.all (fun p => p.wait == .ready)) = true) :=
  ⟨(waiting_here ⟨rfl, rfl, rfl, rfl, rfl⟩ (by decide +kernel)).1, by decide +kernel⟩

/-! ### Engine instructions -/

/-- A suffix block that stores BF16 rows 128 bytes apart at 0x4000. -/
def sufBytes : List Byte := [0x12, 0] ++ List.replicate 10 0 ++ [128, 0, 0, 0, 0, 0x40] ++ List.replicate 302 0

theorem witness_SuffixRowsAreIssued :
    (let f := fun x : Warp => { x with h := [(1, ⟨.valid, sufBytes⟩)] }
     let full := fun x : Warp => { f x with gst := 255 }
     let r := SufRec.read sufBytes
     let bad := { Group.lone with bufP := [2 * 2 ^ 20 + 5] }
     let i := fun (c : Cx) => once true accNoMod c [[.h 1]] []
     Ready (lone f tiles) (cx f tiles) (i (cx f tiles)) ∧ leAt sufBytes 0 1 % 16 = 2 ∧ (cx f tiles).warp.replay = none ∧
     (lone f tiles).cPending 0 r.coff 16384 = false ∧ r.coff + 16384 ≤ tiles.bufSize 2 ∧ (cx f tiles).room .gst 1 = true ∧
     ((Group.lone.tile r.coff).findIdx? (fun e => e.2)) = none ∧ ((bad.tile r.coff).findIdx? (fun e => e.2)) = some 5 ∧
     ((List.range 64).all (fun i => match (lone f tiles).pieces 2 0 .store (r.out + i * r.stride) (rowSize r.ofmt) with
       | .ok l => l == [⟨0x4000 + i * 128, 0x4000 + i * 128, 128, none⟩] | .error _ => false)) = true ∧ ¬ (2 ≤ r.ofmt ∧ r.ofmt ≤ 5) ∧
     Ready (lone f) (cx f) (i (cx f)) ∧ Grid.firmware.bufSize 2 < r.coff + 16384 ∧
     Ready (lone full tiles) (cx full tiles) (i (cx full tiles)) ∧ (cx full tiles).room .gst 1 = false ∧
     Ready (lone id tiles) (cx id tiles) (i (cx id tiles)) ∧ ((cx id tiles).warp.hreg 1).st ≠ .valid) := by
  and_intros
  any_goals decide +kernel
  any_goals exact ready (by decide +kernel)

/-- A sentence record of one layer, one head of width 64, and an array of one slot at the start of the near arena. -/
def sentBytes : List Byte := List.replicate 16 0 ++ [1, 0, 6] ++ List.replicate 109 0

/-- The same machine with that record at 128. -/
def withSent (s : State) : State := { s with mem := [(144, 1), (146, 6)] }

/-- A slot with a near arena of four granules at 0x2000. -/
def kv : Ctx := { Ctx.firmware with anear := 0x2000, anearsz := 4 }

theorem witness_SentReady {f : Warp → Warp} {gr : Grid} {s : State} (h : (f start).replay = none)
    (hp : (match s.pieces 2 gr.ctx .load 128 128 with
      | .ok l => l == [⟨128, 128, 128, none⟩] | .error _ => false) = true)
    (hq : s.piecePoison ⟨128, 128, 128, none⟩ = none ∧ s.ownAhead 0 [⟨128, 128, 128, none⟩] = false ∧
      s.inPriv 128 128 = false ∧ sentBytes = s.view 2 128 128)
    (hs : s.quiet) (hr : s.piecesHeld 2 [⟨128, 128, 128, none⟩] = false ∧ s.hostPort 128 = none) :
    SentReady s (cx f gr Group.lone kv) 128 [] sentBytes := by
  refine ⟨h, ⟨[⟨128, 128, 128, none⟩], ?_, ?_, ?_, hq.2.1, by simpa [cx] using hq.2.2.2⟩, by decide +kernel⟩
  · revert hp
    change (match s.pieces 2 gr.ctx .load 128 128 with
      | .ok l => l == [⟨128, 128, 128, none⟩] | .error _ => false) = true → s.pieces 2 gr.ctx .load 128 128 = .ok _
    cases s.pieces 2 gr.ctx .load 128 128 <;> simp
  · simpa [State.plainPieces, cx] using ⟨hs, hr.1, hr.2, hq.2.2.1⟩
  · simpa using hq.1

/-- An attention record of the layer and head, lists at 0x1000, output at 0x2000; lengths 1, 0 and 257 in s4, s0 and s3. -/
def attnBytes (layer : Byte) : List Byte :=
  [0x03 + 16 * layer, 0, 1] ++ List.replicate 13 0 ++ [128] ++ List.replicate 8 0 ++ [0x10] ++ List.replicate 7 0 ++ [0x20] ++ List.replicate 30 0

def attn (layer : Byte) (x : Warp) : Warp := { x with h := [(1, ⟨.valid, attnBytes layer⟩)], s := [(3, 257), (4, 1)] }

theorem witness_AttentionIssues :
    (let s := fun (l : Byte) (gr : Grid) => withSent (lone (attn l) gr Group.lone kv)
     let c := fun (l : Byte) (gr : Grid) => cx (attn l) gr Group.lone kv
     let r := AttnRec.read (attnBytes 0)
     let q := SentRec.read sentBytes
     let one := fun (n : Need) (a z : Nat) => match ((s 0 tiles).applyAll 2).pieces 2 0 n a z with | .ok l => l == [⟨a, a, z, none⟩] | .error _ => false
     Ready (s 0 tiles) (c 0 tiles) (once true accNoMod (c 0 tiles) [[.h 1], sref 4] []) ∧ SentReady (s 0 tiles) (c 0 tiles) 128 [] sentBytes ∧
     (c 0 tiles).room .gst 1 = true ∧ leAt (attnBytes 0) 0 1 % 16 = 3 ∧ r.recd = 128 ∧ ¬ (q.lm1 < r.layer ∨ q.h ≤ r.head) ∧
     ((c 0 tiles).warp.sreg 0).toNat = 0 ∧ 256 < ((c 0 tiles).warp.sreg 3).toNat ∧ ((c 0 tiles).warp.sreg 4).toNat = 1 ∧
     r.qoff + 2 * q.d * q.g ≤ tiles.bufSize 0 ∧ r.caoff + (64 + q.g * (8 + 4 * q.d)) ≤ tiles.bufSize 2 ∧
     one .load 0x1000 2 = true ∧ one .store 0x2000 256 = true ∧ 4 * q.g * q.d = 256 ∧ r.list = 0x1000 ∧ r.out = 0x2000 ∧
     ((s 0 tiles).applyAll 2).ownAhead 0 [⟨0x1000, 0x1000, 2, none⟩] = false ∧ ((s 0 tiles).applyAll 2).inPriv 0x1000 2 = false ∧
     ((s 0 tiles).applyAll 2).piecePoison ⟨0x1000, 0x1000, 2, none⟩ = none ∧ (c 0 tiles).group.firstPoison 0 r.qoff (2 * q.d * q.g) = none ∧
     listOffence [0] = none ∧ listOffence [3, 3] = some 1 ∧ 0 < r.qmask ∧ r.qmask < 2 ^ q.g ∧
     Ready (s 0 tiles) (c 0 tiles) (once true accNoMod (c 0 tiles) [[.h 1]] [.s 15]) ∧
     Ready (s 1 tiles) (c 1 tiles) (once true accNoMod (c 1 tiles) [[.h 1], sref 4] []) ∧ SentReady (s 1 tiles) (c 1 tiles) 128 [] sentBytes ∧
     q.lm1 < (AttnRec.read (attnBytes 1)).layer ∧
     Ready (s 0 Grid.firmware) (c 0 Grid.firmware) (once true accNoMod (c 0 Grid.firmware) [[.h 1], sref 4] []) ∧
     SentReady (s 0 Grid.firmware) (c 0 Grid.firmware) 128 [] sentBytes ∧ Grid.firmware.bufSize 0 < r.qoff + 2 * q.d * q.g ∧
     Ready (s 0 { tiles with cgr := 0 }) (c 0 { tiles with cgr := 0 }) (once true accNoMod (c 0 { tiles with cgr := 0 }) [[.h 1], sref 4] []) ∧
     SentReady (s 0 { tiles with cgr := 0 }) (c 0 { tiles with cgr := 0 }) 128 [] sentBytes) := by
  and_intros
  any_goals decide +kernel
  any_goals exact ready_here ⟨rfl, rfl, rfl, rfl, rfl⟩ (by decide +kernel)
  any_goals exact witness_SentReady rfl (by decide +kernel) (by decide +kernel) quiet_still (by decide +kernel)

/-- The ATTN at the split's pc has begun, at the end of its list; or another had. -/
theorem witness_AttentionIssues_begun :
    (let f := fun (pc : Nat) (x : Warp) => { attn 0 x with attnZ := [(0, ⟨pc, 0, 320, sentBytes, []⟩)] }
     let bad := { Group.lone with bufP := [0] }
     (tfind (cx (f 0)).warp.attnZ 0).map (fun e => decide (e.pc = (cx (f 0)).split.pc)) = some true ∧
     (tfind (cx (f 4)).warp.attnZ 0).map (fun e => decide (e.pc = (cx (f 4)).split.pc)) = some false ∧
     bad.firstPoison 0 0 128 = some 0 ∧ sentBytes.take 16 ++ sentBytes.drop 16 = sentBytes) := by decide +kernel

/-- A contraction record of two tokens of one head of width 64, of which rmax merge. -/
def conBytes (rmax : Byte) : List Byte :=
  [0x04, 1, 2, 0, rmax, 0, 0, 0] ++ (toBytes 0x1000 8 ++ toBytes 0x1200 8 ++ toBytes 0x1400 8 ++ toBytes 0x1600 8 ++ toBytes 0x1800 8 ++
    toBytes 0x1A00 8 ++ toBytes 0x1C00 8 ++ toBytes 128 8) ++ List.replicate 56 0

def con (rmax : Byte) (x : Warp) : Warp := { x with h := [(1, ⟨.valid, conBytes rmax⟩)], s := [(2, 0x2000), (4, 0x3000), (6, 0x3001)] }

/-- The sentence record at 128, two sizes of 1 at 0x1400, and a map at 0x1C00 that names row 0 and none. -/
def withMap (valid : Byte) (s : State) : State :=
  { s with mem := [(144, 1), (146, 6), (0x1400, 1), (0x1402, 1), (0x1C00, 128), (0x1C0C, 2), (0x1C0E, 1)] ++
      (if valid = 0 then [] else [(0x1C10, valid)]) ++ [(0x1C22, 0xFF), (0x1C23, 0xFF)] }

theorem witness_ContractionIssues :
    (let s := fun (b v : Byte) => withMap v (lone (con b) Grid.firmware Group.lone kv)
     let c := fun (b : Byte) => cx (con b) Grid.firmware Group.lone kv
     let k := ConRec.read (conBytes 1)
     let one := fun (n : Need) (a z : Nat) => match ((s 1 1).applyAll 2).pieces 2 0 n a z with | .ok l => l == [⟨a, a, z, none⟩] | .error _ => false
     let sizes := listOf (((s 1 1).applyAll 2).view 2 0x1400 4) 2
     Ready (s 1 1) (c 1) (once true accNoMod (c 1) [[.h 1]] (sref 0)) ∧ SentReady (s 1 1) (c 1) 128 [] sentBytes ∧ (c 1).room .gst 1 = true ∧
     leAt (conBytes 1) 0 1 % 16 = 4 ∧ k.recd = 128 ∧ 2 * k.nin * k.h * k.d = 256 ∧ sizes = [1, 1] ∧
     one .load 0x1000 256 = true ∧ one .load 0x1200 256 = true ∧ one .load 0x1400 4 = true ∧ one .store 0x1C00 36 = true ∧
     one .store 0x1600 128 = true ∧ one .store 0x1800 128 = true ∧ one .store 0x1A00 2 = true ∧ one .store 0x1C10 1 = true ∧
     ((s 1 1).applyAll 2).piecePoison ⟨0x1400, 0x1400, 4, none⟩ = none ∧ ((s 1 1).applyAll 2).inPriv 0x1400 4 = false ∧
     ((s 1 1).applyAll 2).ownAhead 0 [⟨0x1000, 0x1000, 256, none⟩, ⟨0x1200, 0x1200, 256, none⟩, ⟨0x1400, 0x1400, 4, none⟩,
       ⟨0x1C00, 0x1C00, 36, none⟩] = false ∧ ((s 1 1).applyAll 2).putsAhead 0 (s 1 1).uid [⟨0x1C10, 0x1C10, 1, none⟩] = false ∧
     k.rmax ≤ (conSet sizes false).length ∧ (conSet sizes false).length < (ConRec.read (conBytes 2)).rmax ∧
     Ready (s 2 1) (c 2) (once true accNoMod (c 2) [[.h 1]] (sref 0)) ∧ SentReady (s 2 1) (c 2) 128 [] sentBytes) := by
  and_intros
  any_goals decide +kernel
  any_goals exact ready_here ⟨rfl, rfl, rfl, rfl, rfl⟩ (by decide +kernel)
  any_goals exact witness_SentReady rfl (by decide +kernel) (by decide +kernel) quiet_still (by decide +kernel)

/-- EXPD: a map that is valid, one that is not, a misaligned source. -/
theorem witness_ContractionIssues_expd :
    (let s := fun (b v : Byte) => withMap v (lone (con b) Grid.firmware Group.lone kv)
     let c := cx (con 1) Grid.firmware Group.lone kv
     let one := fun (a z : Nat) => match ((s 1 1).applyAll 2).pieces 2 0 .load a z with | .ok l => l == [⟨a, a, z, none⟩] | .error _ => false
     let map := ((s 1 1).applyAll 2).view 2 0x1C00 32
     let i := fun (q : Nat) => once true accNoMod c [[.h 1], qref q, qref 4] []
     Ready (s 1 1) c (i 2) ∧ SentReady (s 1 1) c 128 [] sentBytes ∧ (c.warp.qreg 2).toNat % 2 ^ 57 % 16 = 0 ∧ (c.warp.qreg 4).toNat % 2 ^ 57 % 16 = 0 ∧
     one 0x1C00 32 = true ∧ one 0x1C20 4 = true ∧ (leAt map 16 1).testBit 0 = true ∧ leAt map 8 4 = (SentRec.read sentBytes).gen ∧
     leAt map 0 8 % 2 ^ 57 = 128 ∧ mapValid map = true ∧
     (∀ e ∈ listOf (((s 1 1).applyAll 2).view 2 0x1C20 4) 2, e < leAt map 14 2 ∨ e = 0xFFFF) ∧
     ((s 1 1).applyAll 2).piecePoison ⟨0x1C00, 0x1C00, 32, none⟩ = none ∧ ((s 1 1).applyAll 2).ownAhead 0 [⟨0x1C00, 0x1C00, 32, none⟩] = false ∧
     ((s 1 1).applyAll 2).piecePoison ⟨0x1C20, 0x1C20, 4, none⟩ = none ∧ ((s 1 1).applyAll 2).ownAhead 0 [⟨0x1C20, 0x1C20, 4, none⟩] = false ∧
     ((s 1 1).applyAll 2).inPriv 0x1C00 36 = false ∧ Ready (s 1 1) c (i 6) ∧ (c.warp.qreg 6).toNat % 2 ^ 57 % 16 ≠ 0 ∧
     Ready (s 1 0) c (i 2) ∧ SentReady (s 1 0) c 128 [] sentBytes ∧
     (leAt (((s 1 0).applyAll 2).view 2 0x1C00 32) 16 1).testBit 0 = false) := by
  and_intros
  any_goals decide +kernel
  any_goals exact ready_here ⟨rfl, rfl, rfl, rfl, rfl⟩ (by decide +kernel)
  any_goals exact witness_SentReady rfl (by decide +kernel) (by decide +kernel) quiet_still (by decide +kernel)

/-- The split holds for operation 1, which GST counts. -/
def holding (f : Warp → Warp) (x : Warp) : Warp := withSplit (fun q => { q with wait := .op 1 }) { f x with gst := 1 }

def workOp (k : OpKind) (full : List RegRef) : Op := ⟨1, 0, 0, 2, 0, 0, full, some (.gst, 1), k, 2, 0⟩

/-- An engine instruction at work over memory m. -/
def working (k : OpKind) (full : List RegRef := []) (m : List Host.Cell := []) (f : Warp → Warp := id) (gr : Grid := Grid.firmware)
    (x : Ctx := kv) : State :=
  { lone (holding f) gr Group.lone x with ops := [workOp k full], uid := 2, mem := m }

theorem at_work {k : OpKind} {full : List RegRef} {m : List Host.Cell} {f : Warp → Warp} {gr : Grid} {x : Ctx}
    (h : placed (holding f start) gr Group.lone = true) (hw : ((holding f start).split 0).wait = .op 1) :
    AtWork (working k full m f gr x) 0 1 (cx (holding f) gr Group.lone x) (workOp k full) :=
  ⟨(waiting_here ⟨rfl, rfl, rfl, rfl, rfl⟩ h).2, hw, endsAlone rfl, ⟨rfl, rfl⟩⟩

theorem witness_EngineInstructionEnds :
    (let k := OpKind.work 3 [] 1
     AtWork (working k [.s 5]) 0 1 (cx (holding id) Grid.firmware Group.lone kv) (workOp k [.s 5]) ∧ (1 : Nat) = [(7 : Byte)].length ∧
     (cx id).die < 4 ∧ (working k).dies.length = 4) :=
  ⟨at_work (by decide +kernel) rfl, by decide +kernel⟩

/-- A record of three pages of 64 elements a token in an array of four slots, and an attention record that uses one query and asks for
two pages. -/
def pagesBytes : List Byte := [0, 0, 0, 0, 0, 2] ++ List.replicate 10 0 ++ [1, 0, 6] ++ List.replicate 5 0 ++ [130] ++ List.replicate 103 0
def asks2 : List Byte := ((attnBytes 0).set 2 1).set 40 2

/-- A slot with pages 0 and 1 of three, both near. -/
def twoPages : List Host.Cell := [(0x2004, 8), (0x2014, 8)]
def pages : Ctx := { kv with anearsz := 64 }

theorem witness_AttentionGoesOn :
    (let k := fun (l : List Nat) => OpKind.work 0 (nats (attnBytes 0) ++ nats pagesBytes ++ l) 1
     let s := fun (l : List Nat) => working (k l) [] twoPages id tiles pages
     let c := cx (holding id) tiles Group.lone pages
     let r := AttnRec.read (attnBytes 0)
     let q := SentRec.read pagesBytes
     let found := fun (i : Nat) => match ((s [i]).applyAll 2).engSlot 2 0 q i with | .ok x => some x.2.2 | .error _ => none
     (∀ l, AtWork (s l) 0 1 c (workOp (k l) [])) ∧ (attnBytes 0).length = 64 ∧ pagesBytes.length = 128 ∧
     c.group.firstPoison 2 r.caoff (progSize q) = none ∧ c.group.firstPoison 0 r.qoff (2 * q.d * q.g) = none ∧
     (found 0).map (fun x => x.present) = some true ∧ (found 2).map (fun x => x.present) = some false ∧ found 4 = none ∧
     (found 0).map (fun x => match slotFrame c.ctx q x with
       | .ok f => ((s [0]).applyAll 2).poisonWord f (4096 * frameGranules q.elems x.stage) == none | .error _ => false) = some true ∧
     (match ((s []).applyAll 2).pieces 2 0 .store r.out (4 * q.g * q.d) with
       | .ok ps => ((s []).applyAll 2).putsAhead 0 1 ps == false | .error _ => false) = true) :=
  ⟨fun _ => at_work (by decide +kernel) rfl, by decide +kernel⟩

theorem witness_SelectionEnds :
    (let k := OpKind.work 1 (5 :: nats asks2 ++ nats pagesBytes) 0
     let s := working k [.s 5] twoPages id tiles pages
     let c := cx (holding id) tiles Group.lone pages
     let r := AttnRec.read asks2
     let q := SentRec.read pagesBytes
     let heads := (r.heads q).map (fun i => (queryOf c.group q r.qoff i).flatten)
     AtWork s 0 1 c (workOp k [.s 5]) ∧ asks2.length = 64 ∧ pagesBytes.length = 128 ∧
     (∀ i ∈ r.heads q, c.group.firstPoison 0 (r.qoff + 2 * q.d * i) (2 * q.d) = none) ∧
     (match (s.applyAll 2).candidates 2 0 q (List.range q.pages) with
       | .ok l => l == [(0, 0, 2, false), (1, 0, 2, false)] | .error _ => false) = true ∧
     (match (s.applyAll 2).scores 2 0 q r heads [(0, 0, 2, false), (1, 0, 2, false)] with
       | .ok l => l.map (fun x => x.1) == [0, 1] | .error _ => false) = true ∧
     (match (s.applyAll 2).pieces 2 0 .store r.list 4 with
       | .ok ps => (s.applyAll 2).putsAhead 0 1 ps == false | .error _ => false) = true) :=
  ⟨at_work (by decide +kernel) rfl, by decide +kernel⟩

theorem witness_ContractionRuns :
    (let k := OpKind.work 2 (0 :: nats (conBytes 1) ++ nats sentBytes) 2
     let e := fun (v : Nat) => OpKind.work 5 ([0, 1, 0, 0x1C00, v] ++ nats sentBytes) 2
     let m : List Host.Cell := [(0x1400, 1), (0x1402, 1)]
     let s := working k [.s 0] m (con 1)
     let c := cx (holding (con 1)) Grid.firmware Group.lone kv
     let p := fun (a n : Nat) => (⟨a, a, n, none⟩ : Piece)
     let ins := [p 0x1000 256, p 0x1200 256, p 0x1400 4]
     let r := ConRec.read (conBytes 1)
     let same := fun (l : List (Nat × Nat × Need × Nat)) (ps : List Piece) =>
       match s.piecesAll 2 0 l with | .ok x => x == ps.map (fun y => [y]) | .error _ => false
     let late := { working (e 1) [.s 0] m (con 1) with posted := [⟨1, 2, [(0, 7)], [], [(0, 1, false)], [0, 0, 1, 0], false, [2]⟩] }
     (AtWork s 0 1 c (workOp k [.s 0]) ∧ ∀ v, AtWork (working (e v) [.s 0] m (con 1)) 0 1 c (workOp (e v) [.s 0])) ∧
     s.plainPieces 2 ins ∧ (conBytes 1).length = 128 ∧
     same [(r.ink, 2 * r.nin * r.h * r.d, .load, 0), (r.inv, 2 * r.nin * r.h * r.d, .load, 0), (r.ins, 2 * r.nin, .load, 0),
       (r.map, 32 + 2 * r.nin, .store, 6)] (ins ++ [p 0x1C00 36]) = true ∧
     (contract r.h r.d r.rmax (listOf (s.view 2 0x1400 4) r.nin) (fun i => leAt (s.view 2 0x1000 256) (2 * i) 2)
       (fun i => leAt (s.view 2 0x1200 256) (2 * i) 2)).sizes = [2] ∧
     same [(r.outk, 2 * 1 * r.h * r.d, .store, 6), (r.outv, 2 * 1 * r.h * r.d, .store, 6), (r.outs, 2 * 1, .store, 6)]
       [p 0x1600 128, p 0x1800 128, p 0x1A00 2] = true ∧
     (∀ x ∈ ins, s.ownOlder 0 1 [x] = false ∧ s.piecePoison x = none) ∧
     (∀ x ∈ [p 0x1600 128, p 0x1800 128, p 0x1A00 2, p 0x1C00 36], s.putsAhead 0 1 [x] = false) ∧
     (working (e 1) [.s 0] m (con 1)).released 0 2 5 = true ∧ late.released 0 2 5 = false) := by
  refine ⟨⟨at_work (by decide +kernel) rfl, fun _ => at_work (by decide +kernel) rfl⟩, ⟨quiet_still, by decide +kernel, by decide +kernel⟩, ?_⟩
  decide +kernel

theorem witness_ExpansionCopiesRows :
    (let f := fun x => withSplit (fun q => { q with wait := .op 1 }) { x with gst := 1 }
     let k := OpKind.work 3 ([16, 0x2000, 0x3000] ++ nats sentBytes ++ [0, 0xFFFF]) 2
     let s := pending k (some (.gst, 1)) f
     let one := fun (n : Need) (a : Nat) => match s.pieces 2 0 n a 16 with | .ok l => l == [⟨a, a, 16, none⟩] | .error _ => false
     s.waiting 0 0 = some (cx f) ∧ (cx f).split.wait = .op 1 ∧ EndsAlone s 1 ⟨1, 0, 0, 2, 0, 0, [], some (.gst, 1), k, 2, 0⟩ ∧
     one .store 0x3000 = true ∧ one .store 0x3010 = true ∧ one .load 0x2000 = true ∧ s.poisoned 0x2000 16 = false ∧
     (nats sentBytes).length = 128 ∧ s.ownOlder 0 1 [⟨0x2000, 0x2000, 16, none⟩] = false ∧
     s.putsAhead 0 1 [⟨0x3000, 0x3000, 16, none⟩] = false ∧ s.putsAhead 0 1 [⟨0x3010, 0x3010, 16, none⟩] = false ∧
     s.plainPieces 2 [⟨0x2000, 0x2000, 16, none⟩]) :=
  ⟨(waiting_here ⟨rfl, rfl, rfl, rfl, rfl⟩ (by decide +kernel)).2, by decide +kernel, endsAlone rfl, by decide +kernel, by decide +kernel,
    by decide +kernel, by decide +kernel, by decide +kernel, by decide +kernel, by decide +kernel, by decide +kernel, quiet_still,
    by decide +kernel, by decide +kernel⟩

theorem witness_ContractionKeepsTheTokens : ∀ x ∈ [1, 0, 65535, 65535], x ≤ 65535 := by decide

theorem witness_SlotRequests :
    (let f := withS [(2, 128), (4, 1), (6, 132)]
     let full := fun x : Warp => { f x with gld := 255 }
     let s := fun (g : Warp → Warp) => withSent (lone g Grid.firmware Group.lone kv)
     let c := fun (g : Warp → Warp) => cx g Grid.firmware Group.lone kv
     let i := fun (c : Cx) (q b : Nat) => once true accNoMod c [qref q, sref b] (qref 8)
     let k := fun (tier : Bool) => OpKind.slotReq tier 128 sentBytes 0 8 false
     let t := fun (tier : Bool) => { pending (k tier) (some (.gld, 1)) with ctxs := [(0, kv)] }
     Ready (s f) (c f) (i (c f) 2 0) ∧ SentReady (s f) (c f) 128 [] sentBytes ∧ (c f).room .gld 1 = true ∧
     (match slotPlace (SentRec.read sentBytes) 0 with | .ok p => p == (0, 0) | .error _ => false) = true ∧
     (match slotPlace (SentRec.read sentBytes) 1 with | .ok _ => false | .error e => e == .access 1) = true ∧
     (match slotAddr kv 0 0 with | .ok a => a == 0x2000 | .error _ => false) = true ∧
     Ready (s f) (c f) (i (c f) 2 4) ∧ Ready (s f) (c f) (i (c f) 6 0) ∧ ((c f).warp.qreg 6).toNat % 2 ^ 57 % 128 ≠ 0 ∧
     Ready (s full) (c full) (i (c full) 2 0) ∧ (c full).room .gld 1 = false ∧
     Ready (s f) (c f) (once true accNoMod (c f) [qref 2, sref 0] (sref 8)) ∧
     EndsAlone (t false) 1 ⟨1, 0, 0, 2, 0, 0, [], some (.gld, 1), k false, 2, 0⟩ ∧ EndsAlone (t true) 1 ⟨1, 0, 0, 2, 0, 0, [], some (.gld, 1), k true, 2, 0⟩ ∧
     (∀ b, ∀ k ∈ (t b).ops, k.id < 1 → k.kind.isWork = false) ∧
     (match (t true).homeSlot 2 0 128 (SentRec.read sentBytes) 0 with
       | .ok x => x == (0, 0, List.replicate 16 0) | .error _ => false) = true ∧ slotValid (List.replicate 16 0) = true ∧
     (Slot.read (List.replicate 16 0)).present = false) := by
  refine ⟨ready_here ⟨rfl, rfl, rfl, rfl, rfl⟩ (by decide +kernel), witness_SentReady rfl (by decide +kernel) (by decide +kernel) quiet_still (by decide +kernel), ?_, ?_,
    ?_, ?_, ready_here ⟨rfl, rfl, rfl, rfl, rfl⟩ (by decide +kernel), ready_here ⟨rfl, rfl, rfl, rfl, rfl⟩ (by decide +kernel), ?_,
    ready_here ⟨rfl, rfl, rfl, rfl, rfl⟩ (by decide +kernel), ?_, ready_here ⟨rfl, rfl, rfl, rfl, rfl⟩ (by decide +kernel), endsAlone rfl,
    endsAlone rfl, ?_⟩ <;> decide +kernel

/-- Addresses on their lines and off them; the last die and one of three; a list that holds the record. -/
theorem witness_DeclensionRequests :
    (let f := withS [(2, 128), (4, 64), (6, 132), (8, 4)]
     let i := fun (q : Nat) (l : List (List RegRef)) => once true accNoMod (cx f) (qref q :: l) []
     let k := fun (sem : Option Nat) (l : List Nat) (b : Bool) => OpKind.dcln 128 sem l b
     let t := fun (o : OpKind) => pending o
     let u := { pending (k none [1, 2] false) with ctxs := [(0, { Ctx.firmware with rlcnt := [(1, 1)], rlbase := [(1, 0x1000)] })], mem := [(0x1000, 128)] }
     Ready (lone f) (cx f) (i 2 []) ∧ Ready (lone f) (cx f) (i 2 [qref 4]) ∧ Ready (lone f) (cx f) (i 2 [qref 8]) ∧ Ready (lone f) (cx f) (i 6 []) ∧
     ((cx f).warp.qreg 2).toNat % 2 ^ 57 % 128 = 0 ∧ ((cx f).warp.qreg 6).toNat % 2 ^ 57 % 128 ≠ 0 ∧ ((cx f).warp.qreg 4).toNat % 2 ^ 57 % 8 = 0 ∧
     ((cx f).warp.qreg 8).toNat % 2 ^ 57 % 8 ≠ 0 ∧
     EndsAlone (t (k none [3] false)) 1 ⟨1, 0, 0, 2, 0, 0, [], none, k none [3] false, 2, 0⟩ ∧
     EndsAlone (t (k (some 64) [0, 3] true)) 1 ⟨1, 0, 0, 2, 0, 0, [], none, k (some 64) [0, 3] true, 2, 0⟩ ∧
     (t (k none [3] false)).recordList 3 0 = [] ∧ u.op 1 = some ⟨1, 0, 0, 2, 0, 0, [], none, k none [1, 2] false, 2, 0⟩ ∧
     (u.recordList 1 0).find? (fun e => e.2 == some 128) = some (0x1000, some 128) ∧ u.dies.length = 4) := by
  refine ⟨ready (by decide +kernel), ready (by decide +kernel), ready (by decide +kernel), ready (by decide +kernel), ?_, ?_, ?_, ?_,
    endsAlone rfl, endsAlone rfl, ?_⟩ <;> decide +kernel

/-- The record at 128 while its array grows from one slot at 0 to two at 0x1000, of which bound have been copied. -/
def growing (bound : Byte) : List Host.Cell :=
  [(129, 0x10), (133, 1), (139, 0x20)] ++ (if bound = 0 then [] else [(140, bound)]) ++ [(144, 1), (146, 6)]

theorem witness_SequencesGrow :
    (let f := withS [(2, 128), (4, 0x1000), (6, 64), (8, 132), (10, 0x1010), (12, 4), (14, 0x4000)]
     let s := withSent (lone f Grid.firmware Group.lone kv)
     let c := cx f Grid.firmware Group.lone kv
     let i := fun (a b e : Nat) => once true accNoMod c [qref a, qref b, qref e] []
     let q := SentRec.read sentBytes
     let va := fun (n : Nat) => (c.warp.qreg n).toNat % 2 ^ 57
     let go := fun (a : Nat) => match (s.applyAll 2).translate 2 0 a .atomic with | .ok x => x.window == none && x.pa == a | .error _ => false
     let h := SentRec.read ((s.applyAll 2).home 128 128)
     Ready s c (i 2 4 6) ∧ SentReady s c 128 [] sentBytes ∧ va 2 % 128 = 0 ∧ va 8 % 128 ≠ 0 ∧ Ready s c (i 8 4 6) ∧
     va 4 % 4096 = 0 ∧ va 4 + 2 ^ (q.n + 1) * (16 + q.sumSize) ≤ 4096 * kv.anearsz ∧ Ready s c (i 2 10 6) ∧ va 10 % 4096 ≠ 0 ∧
     Ready s c (i 2 14 6) ∧ va 14 % 4096 = 0 ∧ 4096 * kv.anearsz < va 14 + 2 ^ (q.n + 1) * (16 + q.sumSize) ∧
     Ready s c (i 2 4 12) ∧ va 12 % 8 ≠ 0 ∧ va 6 % 8 = 0 ∧ q.fwd = false ∧ q.n ≠ 16 ∧ go 128 = true ∧ go 64 = true ∧ h.fwd = false ∧ h.n ≠ 16 ∧
     h.slots + 2 ^ h.n * (16 + q.sumSize) ≤ 4096 * kv.anearsz) :=
  ⟨ready_here ⟨rfl, rfl, rfl, rfl, rfl⟩ (by decide +kernel), witness_SentReady rfl (by decide +kernel) (by decide +kernel) quiet_still (by decide +kernel),
    by decide +kernel, by decide +kernel, ready_here ⟨rfl, rfl, rfl, rfl, rfl⟩ (by decide +kernel), by decide +kernel, by decide +kernel,
    ready_here ⟨rfl, rfl, rfl, rfl, rfl⟩ (by decide +kernel), by decide +kernel, ready_here ⟨rfl, rfl, rfl, rfl, rfl⟩ (by decide +kernel),
    by decide +kernel, by decide +kernel, ready_here ⟨rfl, rfl, rfl, rfl, rfl⟩ (by decide +kernel), by decide +kernel⟩

theorem witness_SequencesGrow_steps :
    (let k := fun (i : Nat) (l : Option (List Nat)) => OpKind.sqgrow 128 i 64 l
     let s := fun (o : OpKind) (b : Byte) => { pending o with ctxs := [(0, kv)], mem := growing b }
     let r := fun (b : Byte) => SentRec.read ((s (k 0 none) b).home 128 128)
     let e := fun (o : OpKind) => (⟨1, 0, 0, 2, 0, 0, [], none, o, 2, 0⟩ : Op)
     EndsAlone (s (k 0 none) 0) 1 (e (k 0 none)) ∧ (r 0).fwd = true ∧ 0 < 2 ^ (r 0).oldN ∧
     (kv.nearBytes (summaryOff (r 0) (r 0).oldSlots (r 0).oldN 0) (r 0).sumSize).isSome = true ∧
     (kv.nearBytes (summaryOff (r 0) (r 0).slots (r 0).n 0) (r 0).sumSize).isSome = true ∧
     (slotAddr kv (r 0).oldSlots 0).toOption = some 0x2000 ∧ (slotAddr kv (r 0).slots 0).toOption = some 0x3000 ∧
     EndsAlone (s (k 1 none) 1) 1 (e (k 1 none)) ∧ (r 1).fwd = true ∧ 2 ^ (r 1).oldN ≤ 1 ∧
     EndsAlone (s (k 1 (some [7])) 1) 1 (e (k 1 (some [7]))) ∧ ([7] : List Nat).any (fun x => (s (k 1 (some [7])) 1).underWay.contains x) = false) := by
  and_intros
  any_goals decide +kernel
  any_goals exact endsAlone rfl

/-! ### System instructions -/

/-- The same machine with a posted store of its die not yet performed, which a device-scope release waits for. -/
def posting (s : State) : State := { s with posted := [⟨1, 2, [(0, 7)], [], [(0, 1, false)], [0, 0, 1, 0], false, [2]⟩], uid := 2 }

theorem witness_TranslationsAreInvalidated :
    (let f := fun x : Warp => { x with s := [(2, 0x40000), (4, 0x30000)] }
     let g := fun x : Warp => { x with tlbinvs := [1] }
     let w := fun (l : List Nat) (x : Warp) => { withSplit (fun q => { q with wait := .tlback }) x with tlbinvs := l }
     let k := OpKind.tlbinv none none [1, 2]
     let i := fun (d : Nat) => privOnce (even (8 : BitVec 7) && even (10 : BitVec 7)) (cx f) [sref d, qref 8, qref 10] []
     Ready (lone f) (cx f) (i 2) ∧ ((cx f).warp.sreg 2).toNat / 2 ^ 18 ≠ 0 ∧ Ready (lone f) (cx f) (i 4) ∧ ((cx f).warp.sreg 4).toNat < 2 ^ 18 ∧
     (lone f).released 0 2 5 = true ∧ Ready (posting (lone f)) (cx f) (i 4) ∧ (posting (lone f)).released 0 2 5 = false ∧
     Ready (lone id) (cx id) (privOnce true (cx id) [] []) ∧ (cx id).warp.tlbinvs = [] ∧
     Ready (pending k none g) (cx g) (privOnce true (cx g) [] []) ∧ (pending k none g).acked (cx g).warp = false ∧
     (lone (w [])).waiting 0 0 = some (cx (w [])) ∧ (cx (w [])).split.wait = .tlback ∧ (lone (w [])).acked (cx (w [])).warp = true ∧
     (pending k none (w [1])).waiting 0 0 = some (cx (w [1])) ∧ (pending k none (w [1])).acked (cx (w [1])).warp = false ∧
     (pending k).op 1 = some ⟨1, 0, 0, 2, 0, 0, [], none, k, 2, 0⟩ ∧ (pending k).dies.length = 4 ∧ ([1, 2] : List Nat).contains 1 = true ∧
     ([1, 2] : List Nat).filter (fun k => k != 1) ≠ [] ∧ ([1, 2] : List Nat).contains 3 = false) :=
  ⟨ready (by decide +kernel), by decide +kernel, ready (by decide +kernel), by decide +kernel, by decide +kernel,
    ready_here ⟨rfl, rfl, rfl, rfl, rfl⟩ (by decide +kernel), by decide +kernel, ready (by decide +kernel), by decide +kernel,
    ready_here ⟨rfl, rfl, rfl, rfl, rfl⟩ (by decide +kernel), by decide +kernel,
    (waiting_here ⟨rfl, rfl, rfl, rfl, rfl⟩ (by decide +kernel)).2, by decide +kernel, by decide +kernel,
    (waiting_here ⟨rfl, rfl, rfl, rfl, rfl⟩ (by decide +kernel)).2, by decide +kernel⟩

/-- A TLBINV in order, one pending at a die, and a warp with none left to wait for, which issues TLBACK or waits at one. -/
theorem witness_InvalidationsComplete :
    (let f := fun x : Warp => { x with s := [(4, 0x30000)] }
     let w := withSplit (fun q => { q with wait := .tlback })
     let k := OpKind.tlbinv none none [1, 2]
     even (8 : BitVec 7) = true ∧ even (10 : BitVec 7) = true ∧ ((cx f).warp.sreg 4).toNat < 2 ^ 18 ∧ (lone f).released 0 2 5 = true ∧
     Ready (lone f) (cx f) (privOnce true (cx f) [sref 4, qref 8, qref 10] []) ∧
     (pending k).op 1 = some ⟨1, 0, 0, 2, 0, 0, [], none, k, 2, 0⟩ ∧ (pending k).dies.length = 4 ∧
     Ready (lone id) (cx id) (privOnce true (cx id) [] []) ∧ (cx id).warp.tlbinvs = [] ∧
     (lone w).waiting 0 0 = some (cx w) ∧ (cx w).split.wait = .tlback ∧ (cx w).warp.tlbinvs = []) :=
  ⟨rfl, rfl, by decide +kernel, by decide +kernel, ready (by decide +kernel), rfl, rfl, ready (by decide +kernel), rfl,
    (waiting_here ⟨rfl, rfl, rfl, rfl, rfl⟩ (by decide +kernel)).2, rfl, rfl⟩

/-- s2: ANEARSZ of slot 0; s4: an address with a reserved bit; s6: a channel's REPAIR, with a channel that is held; s8: a register that
takes no write. -/
theorem witness_SystemRegisterAccess :
    (let f := fun x : Warp => { x with s := [(2, 0x1003), (5, 8), (6, 0x10004), (8, 0x10)] }
     let busy := { lone f with chans := [(0, { Chan.reset with work := some ⟨2, 0, false, none, 0, none⟩ })] }
     let at' := fun (n : Nat) => regAddr ((cx f).warp.qreg n).toNat (some 2)
     let v := (cx f).warp.qreg 10
     let out := fun (s : State) (r : RegAddr) => match s.writeReg r v (some 0) with
       | .refused => 0 | .wait => 1 | .done _ => 2 | .chan _ _ _ => 3
     Ready (lone f) (cx f) (privOnce (even (12 : BitVec 7) && even (2 : BitVec 7)) (cx f) [qref 2] (qref 12)) ∧ at' 2 = some ⟨1, 3, 0, 0⟩ ∧
     (lone f).readReg ⟨1, 3, 0, 0⟩ (some (cx f).warp) = some 0 ∧
     Ready (lone f) (cx f) (privOnce (even (12 : BitVec 7) && even (4 : BitVec 7)) (cx f) [qref 4] (qref 12)) ∧ at' 4 = none ∧
     Ready (lone f) (cx f) (privOnce (even (2 : BitVec 7) && even (10 : BitVec 7)) (cx f) [qref 2, qref 10] []) ∧ out (lone f) ⟨1, 3, 0, 0⟩ = 2 ∧
     Ready (lone f) (cx f) (privOnce (even (6 : BitVec 7) && even (10 : BitVec 7)) (cx f) [qref 6, qref 10] []) ∧ at' 6 = some ⟨0x10, 4, 0, 0⟩ ∧
     out (lone f) ⟨0x10, 4, 0, 0⟩ = 3 ∧ Ready busy (cx f) (privOnce (even (6 : BitVec 7) && even (10 : BitVec 7)) (cx f) [qref 6, qref 10] []) ∧
     out busy ⟨0x10, 4, 0, 0⟩ = 1 ∧ (lone f).released 0 2 5 = true ∧ (posting (lone f)).released 0 2 5 = false ∧
     out (lone f) ⟨1, 63, 0, 0⟩ = 0 ∧ 2 ^ 35 < 2 ^ 64 ∧ (2 : Nat) ^ 35 / 2 ^ 35 ≠ 0) := by
  and_intros
  any_goals decide +kernel
  any_goals exact ready_here ⟨rfl, rfl, rfl, rfl, rfl⟩ (by decide +kernel)

/-- A slot's field: of all ones, bits 51:12. -/
theorem witness_ContextRegistersReadBack : (0 : Nat) ≠ 1 ∧
    (fun (v : DWord) (hi lo : Nat) => v.toNat / 2 ^ lo % 2 ^ (hi + 1 - lo) * 2 ^ lo) (BitVec.allOnes 64) 51 12 = 0xFFFFFFFFFF000 := by
  decide +kernel

/-- A workgroup of one warp that has trapped, delivered to the entry at 0x8000, beside the lone warp; the bytes of the entry. -/
def delivered (f : Warp → Warp) (m : List Host.Cell) : State :=
  { lone f with
    groups := [(0, Group.lone), (1, { Group.lone with warps := [1], st := .delivered 0x8000 })]
    warps := [(0, f start), (1, { start with group := 1, life := .stopped ⟨.illegal, 0, 0, true, 0, 0, 1, 0⟩ })]
    mem := m }

theorem witness_TrapReturns :
    (let f := fun x : Warp => { x with s := [(2, 0x8000), (5, 0x100000)] }
     let i := fun (a : Nat) => privOnce true (cx f) [qref a] (sref 9)
     let here := delivered f [(0x8000, 1)]
     let odd := delivered f [(0x8000, 1), (0x8048, 2)]
     let word := fun (s : State) (o : Nat) => ofBytes ((((s.applyAll 2).view 2 0x8000 4096).drop (64 + o)).take 8)
     let state := fun (s : State) => (((s.applyAll 2).view 2 0x8000 4096).headD 0).toNat % 4
     Ready here (cx f) (i 2) ∧ ((cx f).warp.qreg 2).toNat < 2 ^ 52 ∧ state here = 1 ∧
     ((here.applyAll 2).deliveredTo 0x8000).map (fun x => (x.1, x.2.warps)) = some (1, [1]) ∧ word here 8 % 4 = 0 ∧ (word here 0).testBit 21 = false ∧
     (0 : Nat) ∉ [1] ∧ Ready odd (cx f) (i 2) ∧ state odd = 1 ∧ word odd 8 % 4 ≠ 0 ∧
     Ready (lone f) (cx f) (i 2) ∧ state (lone f) ≠ 1 ∧ Ready (lone f) (cx f) (i 4) ∧ 2 ^ 52 ≤ ((cx f).warp.qreg 4).toNat ∧
     Ready { lone f with mem := [(0x8000, 1)] } (cx f) (i 2) ∧ state { lone f with mem := [(0x8000, 1)] } = 1 ∧
     (({ lone f with mem := [(0x8000, 1)] } : State).applyAll 2).deliveredTo 0x8000 = none) := by
  and_intros
  any_goals decide +kernel
  any_goals exact ready_here ⟨rfl, rfl, rfl, rfl, rfl⟩ (by decide +kernel)

theorem witness_PreemptionRequests :
    (let f := withS [(2, 5), (4, 4096)]
     let s := { lone f with ctxs := [(0, Ctx.firmware), (5, { Ctx.firmware with priv := false })] }
     let r := { s with grids := [(8, Grid.firmware), (9, { Grid.firmware with ctx := 5 })], groups := [(0, Group.lone), (1, { Group.lone with grid := 9 })] }
     let i := fun (a : Nat) => privOnce true (cx f) [sref a] []
     let j := fun (a : Nat) => privOnce true (cx f) [sref a] (sref 9)
     let other := fun (n : Nat) => n < 4096 ∧ (s.ctx n).valid = true ∧ n ≠ (cx f).grid.ctx
     Ready s (cx f) (i 2) ∧ Ready s (cx f) (j 2) ∧ other 5 ∧ s.slotResident 5 = false ∧ Ready r (cx f) (j 2) ∧ r.slotResident 5 = true ∧
     Ready s (cx f) (i 4) ∧ Ready s (cx f) (j 4) ∧ ¬ other 4096 ∧ ¬ other 0 ∧ ¬ other 6) := by
  and_intros
  any_goals decide +kernel
  any_goals exact ready_here ⟨rfl, rfl, rfl, rfl, rfl⟩ (by decide +kernel)

/-- A fault of warp 1 and its record, claimed by a warp or by none, on die 2. -/
def parked (resolved : Option Bool) : ParkedFault := ⟨7, .notPresent, 0, false, 0, 0, 1, [0], true, resolved, none, none, 0, none⟩
def faulted (claimed : Option Nat) : FaultRec := ⟨7, [1, 2, 3], (0, 1), claimed, 0⟩
def die2 (f : Die → Die) (s : State) : State := { s with dies := lset s.dies 2 (f (Die.reset 2)) }

theorem witness_FaultRecordsAreClaimed :
    (let w := fun x => withSplit (fun q => { q with wait := .claim false 32 }) x
     let one := die2 (fun x => { x with faults := [faulted (some 3), faulted none] }) (lone id)
     let i := privOnce true (cx id) [] (sgroup 32 32)
     let j := privOnce true (cx id) [] (sgroup 124 4)
     Ready (lone id) (cx id) i ∧ ((lone id).die 2).faults.all (fun r => r.claimed.isSome) = true ∧ Ready one (cx id) i ∧
     (one.die 2).faults.find? (fun r => r.claimed.isNone) = some (faulted none) ∧
     Ready (lone id) (cx id) j ∧ ((lone id).die 2).notices = [] ∧
     Ready (die2 (fun x => { x with notices := [[1], [2]] }) (lone id)) (cx id) j ∧
     ((die2 (fun x => { x with notices := [[1], [2]] }) (lone id)).die 2).notices = [1] :: [[2]] ∧
     (lone w).waiting 0 0 = some (cx w) ∧ (cx w).split.wait = .claim false 32 ∧
     (die2 (fun x => { x with faults := [faulted none] }) (lone w)).waiting 0 0 = some (cx w) ∧
     ((die2 (fun x => { x with faults := [faulted none] }) (lone w)).die 2).faults.find? (fun r => r.claimed.isNone) = some (faulted none)) :=
  ⟨ready (by decide +kernel), by decide +kernel, ready_here ⟨rfl, rfl, rfl, rfl, rfl⟩ (by decide +kernel), by decide +kernel,
    ready (by decide +kernel), by decide +kernel, ready_here ⟨rfl, rfl, rfl, rfl, rfl⟩ (by decide +kernel), by decide +kernel,
    (waiting_here ⟨rfl, rfl, rfl, rfl, rfl⟩ (by decide +kernel)).2, by decide +kernel,
    (waiting_here ⟨rfl, rfl, rfl, rfl, rfl⟩ (by decide +kernel)).2, by decide +kernel⟩

/-- The lone warp claims the fault of warp 1; and a warp parked on its own fault. -/
theorem witness_FaultsAreResolved :
    (let f := withS [(2, 7), (4, 8)]
     let s := { die2 (fun x => { x with faults := [faulted (some 0)] }) (lone f) with
       warps := [(0, f start), (1, { start with fault := some (parked none) })] }
     let i := fun (a : Nat) => privOnce true (cx f) [sref a] (sref 9)
     let found := fun (n : Nat) => (s.die 2).faults.find? (fun r => r.token == n && r.claimed.isSome)
     Ready s (cx f) (i 2) ∧ found 7 = some (faulted (some 0)) ∧ (faulted (some 0)).agent = (0, 1) ∧ (tfind s.warps 1).isSome = true ∧
     s.released 0 2 5 = true ∧ (posting s).released 0 2 5 = false ∧ Ready s (cx f) (i 4) ∧ found 8 = none) := by
  and_intros
  any_goals decide +kernel
  any_goals exact ready_here ⟨rfl, rfl, rfl, rfl, rfl⟩ (by decide +kernel)

theorem witness_FaultsAreResolved_replay (r : Option Bool) :
    (let f := fun x : Warp => { x with fault := some (parked r) }
     (lone f).cxOf 0 0 = some (cx f) ∧ (cx f).warp.fault = some (parked r) ∧ (cx f).warp.life = .running ∧ (cx f).group.st = .running ∧
     (parked r).op = none ∧ (parked r).kind ≠ 5 ∧ (parked r).raised = none ∧ (parked r).again = none) := by
  refine ⟨?_, rfl, rfl, rfl, rfl, Nat.zero_ne_add_one 4, rfl, rfl⟩
  simp [State.cxOf, lone, tfind, cx, start, Warp.start, Group.lone, State.ctx, tget, Grid.firmware, Config.dieCores]

/-- Tables at 0x100000 that lead to a 64 KiB page, and none. -/
theorem witness_WalksAndRings :
    (let s := lone id Grid.firmware Group.lone tables
     let on := fun (x : Die) => { x with fqlog2 := 4, heldFaults := [faulted none] }
     (s.ctx 0).valid = true ∧ (s.ctx 0).ptroot ≠ 0 ∧ s.dies.length = 4 ∧
     (match walkFrom (s.applyAll 2) 4 (s.ctx 0).ptroot 0 with | .error e => e == (.notPresent, false) | .ok _ => false) = true ∧
     (match walkFrom { s with mem := [(0x100000, 3), (0x100002, 0x20), (0x200000, 0x0D)] } 4 (s.ctx 0).ptroot 0 with
       | .error _ => false | .ok _ => true) = false ∧
     ((lone id).die 2).heldFaults = [] ∧ ((lone id).die 2).faults = [] ∧ ((lone id).die 2).notices = [] ∧
     ((die2 on (lone id)).die 2).heldFaults = faulted none :: [] ∧ (4 ≤ ((die2 on (lone id)).die 2).fqlog2 ∧ ((die2 on (lone id)).die 2).fqlog2 ≤ 12) ∧
     ((die2 on (lone id)).die 2).faults.length < 2 ^ ((die2 on (lone id)).die 2).fqlog2 ∧
     ¬ (4 ≤ ((lone id).die 2).fqlog2 ∧ ((lone id).die 2).fqlog2 ≤ 12) ∧
     ((die2 (fun x => { x with faults := [faulted none], notices := [[1]] }) (lone id)).die 2).faults ≠ []) := by
  decide +kernel

/-- A split that has stood 4,028 cycles, a sibling of a trapped warp, a warp past its deadline, and one that masks traps past the watchdog. -/
theorem witness_PromotionSkidAndDeadlines :
    (let old := { lone id with cyc := [(3072, 4028)] }
     let halting := lone id Grid.firmware { Group.lone with st := .halting }
     let asked := { Ctx.firmware with req := true }
     let due := { lone id Grid.firmware Group.lone asked with cyc := [(3072, 500000)] }
     let f := fun x : Warp => { x with tm := true }
     let late := { lone f Grid.firmware Group.lone asked with cyc := [(3072, 565536)] }
     let c := cx id Grid.firmware Group.lone asked
     let d := cx f Grid.firmware Group.lone asked
     old.waiting 0 0 = some (cx id) ∧ (cx id).split.since + 4028 ≤ old.slotCyc (cx id).warp.core (cx id).warp.slot ∧
     (lone id).slotCyc (cx id).warp.core (cx id).warp.slot < (cx id).split.since + 4028 ∧
     halting.cxOf 0 0 = some (cx id Grid.firmware { Group.lone with st := .halting }) ∧
     due.cxOf 0 0 = some c ∧ due.saveAsked c = true ∧ c.deadline ≤ due.slotCyc c.warp.core c.warp.slot ∧ c.warp.tm = false ∧
     ¬ c.deadline ≤ (lone id).slotCyc c.warp.core c.warp.slot ∧
     late.cxOf 0 0 = some d ∧ late.saveAsked d = true ∧ d.deadline + 65536 ≤ late.slotCyc d.warp.core d.warp.slot ∧ d.warp.tm = true ∧
     tfind late.groups 0 = some Group.lone ∧ tfind late.grids Group.lone.grid = some Grid.firmware ∧ Group.lone.warps = [0] ∧ Group.lone.told = 0) := by
  refine ⟨(waiting_here ⟨rfl, rfl, rfl, rfl, rfl⟩ (by decide +kernel)).2, ?_, ?_,
    (waiting_here ⟨rfl, rfl, rfl, rfl, rfl⟩ (by decide +kernel)).1, (waiting_here ⟨rfl, rfl, rfl, rfl, rfl⟩ (by decide +kernel)).1, ?_,
    ?_, ?_, ?_, (waiting_here ⟨rfl, rfl, rfl, rfl, rfl⟩ (by decide +kernel)).1, ?_⟩ <;> decide +kernel

theorem witness_TrapsAreDelivered :
    (let g := { Group.lone with st := .halted }
     let s := lone (fun x => { x with life := .stopped ⟨.illegal, 0, 0, true, 0, 0, 1, 0⟩ }) Grid.firmware g { Ctx.firmware with trapn := 2, trapbase := 0x8000 }
     tfind s.groups 0 = some g ∧ tfind s.grids g.grid = some Grid.firmware ∧ g.told = 0 ∧ (s.ctx 0).trapn ≠ 0 ∧
     (memByte s.mem 0x8000).toNat % 4 = 0 ∧ (memByte [((0x8000 : Nat), (1 : Byte))] 0x8000).toNat % 4 ≠ 0 ∧ (s.die 2).tqlog2 = 0 ∧ s.dies.length = 4 ∧
     (s.groupWarps g).length ≤ 64 ∧ Grid.firmware.w < 256 ∧ s.posted = [] ∧ Ctx.firmware.trapn = 0) ∧
    ∀ k < 4096, (lone id).installed (0x8000 + k) = true := by
  refine ⟨by decide +kernel, fun k hk => ?_⟩
  have h : State.regionOf (lone id) (0x8000 + k) = some ⟨0, 0x4000000, .bootL2⟩ := by
    simp [State.regionOf, lone, State.reset, regionsReset]; omega
  simp [State.installed, h]

/-! ### Launching, saving and restoring -/

theorem witness_LaunchesQueueGrids :
    (let f := withS [(2, 64), (4, 68)]
     let deep := { Grid.firmware with depth := 10 }
     let one := fun x : Warp => { f x with idx := 1 }
     let full := fun (s : State) => die2 (fun x => { x with dlq := 4096 }) s
     let w := fun x => withSplit (fun q => { q with wait := .launch 9 64 }) x
     let i := fun (c : Cx) (a : Nat) => once true Accept.none c [qref a] (sref 9)
     let reads := fun (s : State) (c : Cx) => match s.launchRead c 64 with | .ok _ => true | .error _ => false
     let k := OpKind.launch 0 (some Grid.firmware) 9
     Ready (lone f) (cx f) (i (cx f) 2) ∧ (cx f).warp.idx = 0 ∧ ((cx f).warp.qreg 2).toNat % 2 ^ 57 % 64 = 0 ∧ reads (lone f) (cx f) = true ∧
     (lone f).released 0 2 5 = true ∧ ((lone f).die 2).dlq < 4096 ∧ Ready (lone f) (cx f) (i (cx f) 4) ∧
     ((cx f).warp.qreg 4).toNat % 2 ^ 57 % 64 ≠ 0 ∧ Ready (posting (lone f)) (cx f) (i (cx f) 2) ∧ (posting (lone f)).released 0 2 5 = false ∧
     Ready (full (lone f)) (cx f) (i (cx f) 2) ∧ 4096 ≤ ((full (lone f)).die 2).dlq ∧
     Ready (lone one) (cx one) (i (cx one) 2) ∧ (cx one).warp.idx ≠ 0 ∧ Ready (lone f deep) (cx f deep) (i (cx f deep) 2) ∧
     (lone f).neverFits { Grid.firmware with vregs := 0, wgsize := 8192, w := 32 } = true ∧
     (pending k).ops = [⟨1, 0, 0, 2, 0, 0, [], none, k, 2, 0⟩] ∧
     (lone w).waiting 0 0 = some (cx w) ∧ (cx w).split.wait = .launch 9 64 ∧ reads (lone w) (cx w) = true ∧
     (match (lone w Grid.firmware Group.lone tables).launchRead (cx w Grid.firmware Group.lone tables) 64 with | .ok _ => true | .error _ => false) = false) := by
  and_intros
  any_goals decide +kernel
  any_goals exact ready (by decide +kernel)
  any_goals exact ready_here ⟨rfl, rfl, rfl, rfl, rfl⟩ (by decide +kernel)
  any_goals exact (waiting_here ⟨rfl, rfl, rfl, rfl, rfl⟩ (by decide +kernel)).2

theorem witness_ContextsAreSaved :
    (let f := fun x : Warp => { x with s := [(2, 0x8000), (4, 0x400000), (6, 0x400004), (9, 0x100000)] }
     let i := fun (a b : Nat) => privOnce true (cx f) [qref a, qref b] (sref 10)
     let s := delivered f [(0x8000, 1)]
     let g := { Group.lone with warps := [1], st := .delivered 0x8000 }
     Ready s (cx f) (i 2 4) ∧ ((cx f).warp.qreg 2).toNat = 0x8000 ∧ ((cx f).warp.qreg 4).toNat = 0x400000 ∧ ((s.applyAll 2).viewByte 2 0x8000).toNat % 4 = 1 ∧
     (s.applyAll 2).deliveredTo 0x8000 = some (1, g) ∧ tfind s.grids g.grid = some Grid.firmware ∧ (s.applyAll 2).savable g = true ∧
     (∀ k < 64, s.installed (0x400000 + k) = true) ∧ (cx f).w ∉ g.warps ∧ (0x8000 + 4 ≤ 0x400000) ∧ s.posted = [] ∧ Ready s (cx f) (i 2 6) ∧ ((cx f).warp.qreg 6).toNat % 2 ^ 22 ≠ 0 ∧
     Ready s (cx f) (i 8 4) ∧ 2 ^ 52 ≤ ((cx f).warp.qreg 8).toNat ∧ Ready s (cx f) (i 2 8) ∧
     Ready (lone f) (cx f) (i 2 4) ∧ ((lone f).viewByte 2 0x8000).toNat % 4 ≠ 1 ∧
     Ready { lone f with mem := [(0x8000, 1)] } (cx f) (i 2 4) ∧ (({ lone f with mem := [(0x8000, 1)] } : State).applyAll 2).deliveredTo 0x8000 = none) := by
  and_intros
  any_goals decide +kernel
  any_goals exact ready_here ⟨rfl, rfl, rfl, rfl, rfl⟩ (by decide +kernel)

/-- The dispatcher's save of a warp that has yielded, whose SAVELIST has a block or is empty; an image that is valid. -/
theorem witness_ContextsAreSaved_dispatcher :
    (let f := fun x : Warp => { x with life := .yielded }
     let s := { lone f Grid.firmware Group.lone { Ctx.firmware with savelist := 0x8000 } with mem := [(0x8002, 0x40)] }
     let e := { s with mem := cellsAt 0x8000 (List.replicate 8 0xFF) }
     s.saveDue Group.lone Grid.firmware = true ∧ s.savable Group.lone = true ∧ (s.ctx 0).savelist ≠ 0 ∧ ofBytes (s.home 0x8000 8) ≠ 2 ^ 64 - 1 ∧
     ofBytes (e.home 0x8000 8) = 2 ^ 64 - 1 ∧ (lone id).saveDue Group.lone Grid.firmware = false ∧
     (let coop := { Grid.firmware with coop := true }
      let mate := { Group.lone with lin := 1, warps := [] }
      let t := { lone f coop Group.lone { Ctx.firmware with savelist := 0x8000 } with groups := [(0, Group.lone), (1, mate)], mem := [(0x8002, 0x40)] }
      t.saveDue Group.lone coop = true ∧ mate.onCore = true ∧ ¬ (mate.st = .exited ∨ t.saveDue mate coop = true))) ∧
    (let f := fun x : Warp => { x with s := [(4, 0x400000), (9, 0x100000)] }
     let i := fun (a : Nat) => privOnce true (cx f) [qref a] (sref 10)
     let image := fun (n : Byte) => { lone f with mem := cellsAt 0x400000 [0x43, 0x54, 0x58, 0x53] ++ [(0x400004, 1), (0x400006, 1), (0x400008, 64), (0x400009, 128)] ++
       (if n = 0 then [] else [(0x40000E, n)]) ++ [(0x400020, 8)] }
     Ready (image 0) (cx f) (i 4) ∧ (image 0).imgValid 0x400000 = true ∧ ((image 0).ctx 0).valid = true ∧
     Ready (image 1) (cx f) (i 4) ∧ (image 1).imgValid 0x400000 = true ∧ ((image 1).ctx 1).valid = false ∧
     Ready (lone f) (cx f) (i 4) ∧ (lone f).imgValid 0x400000 = false ∧ Ready (lone f) (cx f) (i 8) ∧ 2 ^ 52 ≤ ((cx f).warp.qreg 8).toNat) := by
  and_intros
  any_goals decide +kernel
  any_goals exact ready_here ⟨rfl, rfl, rfl, rfl, rfl⟩ (by decide +kernel)

/-! ### Streams -/

/-- A machine whose copy engine 0 of F0 runs a stream, as f leaves it; die 2 holds e in its TLB. -/
def copying (f : Stream → Stream := id) (m : List Host.Cell := []) (e : List TlbEnt := []) (x : Ctx := Ctx.firmware) : State :=
  { lone id tiles Group.lone x with
    streams := [(1, f Stream.lone)]
    cur := .stream 1
    mem := m
    dies := (List.range 4).map (fun d => { Die.reset d with
      links := (List.range 4).map (fun p => (p, { Link.reset with up := true })), tlb := if d = 2 then e else [] }) }

theorem homeDie_copying (f : Stream → Stream) (m : List Host.Cell) (e : List TlbEnt) (x : Ctx) (a : Nat) :
    (copying f m e x).homeDie a < 4 := by
  unfold State.homeDie
  split
  · rename_i r h
    have h := List.mem_of_find?_eq_some h
    simp only [copying, lone, State.reset, regionsReset, List.mem_cons, List.mem_nil_iff, or_false] at h
    rcases h with rfl | rfl | rfl | rfl | rfl | rfl | rfl <;> decide
  · split
    · rename_i e h
      have h := List.mem_of_find?_eq_some h
      simp only [List.mem_range] at h
      omega
    · decide

theorem witness_CalmStream (f : Stream → Stream) (m : List Host.Cell) (tlb : List TlbEnt) (c : Ctx) (h : (f Stream.lone).st = .run)
    (hw : (f Stream.lone).moved = 0 ∧ (f Stream.lone).quota = none) (hd : (f Stream.lone).die = 2) :
    CalmStream (copying f m tlb c) 1 (f Stream.lone) := by
  refine ⟨by simp [streamCx, copying, tfind, h], hw, rfl, ⟨fun d => ?_, fun k hk => nomatch hk⟩, fun a k => ?_,
    by simp [copying, lone, State.reset], by simp [copying, lone, State.reset]⟩
  · have e : ((copying f m tlb c).die d).injctl = 0 := by
      match d with
      | 0 => rfl
      | 1 => rfl
      | 2 => rfl
      | 3 => rfl
      | n + 4 => rfl
    rw [e]; decide
  · have e : ∀ h < 4, (copying f m tlb c).reaches 2 h = true := by
      intro h hh
      match h with
      | 0 => rfl
      | 1 => rfl
      | 2 => rfl
      | 3 => rfl
    rw [State.unserved, hd, e _ (homeDie_copying f m tlb c a)]
    simp [State.chanHeld, copying, lone, State.reset]

theorem witness_PlainStream (f : Stream → Stream) (m : List Host.Cell) (h : (f Stream.lone).st = .run) (hc : (f Stream.lone).ctx = 0)
    (hw : (f Stream.lone).moved = 0 ∧ (f Stream.lone).quota = none) (hd : (f Stream.lone).die = 2) : PlainStream (copying f m) 1 (f Stream.lone) :=
  ⟨witness_CalmStream f m [] Ctx.firmware h hw hd, by rw [hc]; rfl⟩

theorem witness_StreamsCopyRows :
    (let s := copying id [(0x300, 1), (0x304, 2)]
     let near := fun (a n : Nat) =>
       !s.inPriv a n && (List.range n).all (fun k => decide (a + k < 2 ^ 52) && s.installed (a + k) && !s.isHost (a + k))
     PlainStream s 1 Stream.lone ∧
     copyRows s Stream.lone id (.cpy 0 0x100 0x200 16) = some ([(0x100, 0x200, 16)], 5, [0x100, 0x200]) ∧
     copyRows s Stream.lone id (.cpy2 0 0x100 0x280 8 2 8 (-64)) = some ([(0x100, 0x280, 8), (0x108, 0x240, 8)], 8, [0x100, 0x280]) ∧
     copyRows s Stream.lone id (.cgath 8 0 0 0x100 0x200 0x300 2) = some ([(0x100, 0x208, 8), (0x108, 0x210, 8)], 7, [0x100, 0x200, 0x300]) ∧
     copyRows s Stream.lone id (.cscat 8 0 0 0x100 0x200 0x300 2) = some ([(0x108, 0x200, 8), (0x110, 0x208, 8)], 7, [0x100, 0x200, 0x300]) ∧
     near 0x100 24 = true ∧ near 0x200 0x88 = true ∧ near 0x300 8 = true ∧ ([0x100, 0x200, 0x280, 0x300] : List (BitVec 64)).all globalOp = true ∧
     overlaps 0x100 16 0x200 16 = false ∧ overlaps 0x108 8 0x210 8 = false) := by
  and_intros
  any_goals decide +kernel
  exact witness_PlainStream id [(0x300, 1), (0x304, 2)] rfl rfl ⟨rfl, rfl⟩ rfl

/-- A stream whose slot maps 0x10000 to 0x20000 and leaves 0x30000 without a page: rows that the tables reach, a line that faults. -/
theorem witness_StreamsUnderTables :
    (let s := copying id [] [⟨0, 0x10000, 0, 0x2000D, none⟩] tables
     let f := fun (a : Nat) => a + 0x10000
     let reached := fun (n : Need) (a z : Nat) => (List.range z).all (fun k =>
       !s.inPriv (f ((a + k) % 2 ^ 57)) 1 && decide (f ((a + k) % 2 ^ 57) < 2 ^ 52) && s.installed (f ((a + k) % 2 ^ 57)) &&
         !s.isHost (f ((a + k) % 2 ^ 57)) &&
         (match s.translate 2 0 ((a + k) % 2 ^ 57) n with | .ok y => y.window == none && y.pa == f ((a + k) % 2 ^ 57) | .error _ => false))
     CalmStream s 1 Stream.lone ∧ (s.ctx Stream.lone.ctx).ptroot ≠ 0 ∧
     copyRows s Stream.lone f (.cpy 0 0x10100 0x10200 16) = some ([(0x10100, 0x10200, 16)], 5, [0x10100, 0x10200]) ∧
     copyRows s Stream.lone f (.cgath 8 0 0 0x10100 0x10200 0x10300 2) = some ([(0x10100, 0x10200, 8), (0x10108, 0x10200, 8)], 7,
       [0x10100, 0x10200, 0x10300]) ∧
     reached .store 0x10100 32 = true ∧ reached .load 0x10200 32 = true ∧ reached .load 0x10300 8 = true ∧
     (∀ j < 16, ∀ k < 16, f (0x10100 + j) ≠ f (0x10200 + k)) ∧
     copyRows s Stream.lone id (.cpy 0 0x10100 0x30000 16) = some ((0x10100, 0x30000, 16) :: [], 5, [0x10100, 0x30000]) ∧
     (match s.pieces 2 0 .load 0x30000 16 with | .ok _ => false | .error e => e.1.1 == .notPresent) = true ∧
     (∀ q ∈ s.asks, q.who ≠ 1)) := by
  refine ⟨witness_CalmStream id [] _ _ rfl ⟨rfl, rfl⟩ rfl, ?_⟩
  and_intros
  any_goals decide +kernel

theorem witness_StreamsFillAndConvert :
    (let s := copying
     let near := fun (a n : Nat) =>
       !s.inPriv a n && (List.range n).all (fun k => decide (a + k < 2 ^ 52) && s.installed (a + k) && !s.isHost (a + k))
     let bound := fun x : Stream => { x with group := some 0 }
     let here := fun (dst : BitVec 64) (u : Nat) => dst.toNat / 2 ^ 61 = u + 1 ∧ u < 2 ∧ dst.toNat % 2 ^ 61 < 2 ^ 18
     PlainStream s 1 Stream.lone ∧ Stream.lone.operand 0x100 % 8 = 0 ∧ near 0x100 16 = true ∧ Stream.lone.operand 0x101 % 2 ≠ 0 ∧
     convCode 0 = true ∧ convCode 9 = true ∧ near 0x200 16 = true ∧ overlaps 0x100 8 0x200 8 = false ∧
     here 0x2000000000000000 0 ∧ here 0x400000000003FFFC 1 ∧ Stream.lone.group = none ∧ PlainStream (copying bound) 1 (bound Stream.lone) ∧
     (bound Stream.lone).group = some 0 ∧ tfind (copying bound).groups 0 = some Group.lone ∧ tfind (copying bound).grids 8 = some tiles ∧
     0x2000000000000002 % 2 ^ 57 % 4 ≠ 0 ∧ tiles.agr * 4096 < 0xFFC + 8 ∧ 0 + 16 ≤ tiles.agr * 4096) := by
  and_intros
  any_goals decide +kernel
  any_goals exact witness_PlainStream id _ rfl rfl ⟨rfl, rfl⟩ rfl
  any_goals exact witness_PlainStream _ _ rfl rfl ⟨rfl, rfl⟩ rfl

/-- Semaphores at 64, at 68, and in host memory; a loop that runs, one that is another's; a stream that waits, one with an access outbound,
and a load of host memory that a warp waits for. -/
theorem witness_StreamsSynchronise :
    (let host : BitVec 64 := 0x8000000000000
     let out := fun x : Stream => { x with st := .outbound }
     let loop := fun x : Stream => { x with lc := some 3, la := 8 }
     let here := fun x : Stream => { x with lc := some 1, la := 0 }
     let wait := fun x : Stream => { x with st := .waitSem 64 1 }
     let told := fun x : Stream => { x with status := 0x1000 }
     let sem := fun (a : Nat) (n : Need) => match (copying).streamSem Stream.lone a n with | .ok pa => pa == a | .error _ => false
     let w := fun x => withSplit (fun q => { q with wait := .op 1 }) x
     let k := OpKind.load [{ lane0 [] with pa := host.toNat, va := host.toNat }] 4 false 3 0 0 0 ⟨0, 0, false⟩
     streamCx (copying) = some (1, Stream.lone) ∧ globalOp 64 = true ∧ globalOp 0x2000000000000000 = false ∧ Stream.lone.operand 64 % 8 = 0 ∧
     Stream.lone.operand 68 % 8 ≠ 0 ∧ sem 64 .atomic = true ∧ sem 64 .load = true ∧ (copying).isHost 64 = false ∧
     sem host.toNat .atomic = true ∧ (copying).isHost host.toNat = true ∧ streamCx (copying out) = some (1, out Stream.lone) ∧
     (copying).drained 2 = true ∧ (posting (copying)).drained 2 = false ∧ ofBytes ((copying).home 64 8) = 0 ∧ streamCx (copying loop) = some (1, loop Stream.lone) ∧ (loop Stream.lone).la ≠ (loop Stream.lone).pc ∧
     streamCx (copying here) = some (1, here Stream.lone) ∧ (here Stream.lone).lc.getD 9 ≤ 1 ∧ 1 < Stream.lone.lc.getD 9 ∧
     tfind (copying wait).streams 1 = some (wait Stream.lone) ∧ tfind (copying told).streams 1 = some (told Stream.lone) ∧
     (match (copying told).translate 2 0 0x1000 .store with | .ok t => t.window == none | .error _ => false) = true ∧
     (match ({ copying wait with ctxs := [(0, tables)] } : State).streamSem (wait Stream.lone) 64 .load with | .ok _ => false | .error _ => true) = true ∧
     (copying out).op 1 = none ∧ tfind (copying out).streams 1 = some (out Stream.lone) ∧ (out Stream.lone).doneSem = 0 ∧
     (pending k none w).op 1 = some ⟨1, 0, 0, 2, 0, 0, [], none, k, 2, 0⟩ ∧ (pending k none w).cxOf 0 0 = some (cx w) ∧ (cx w).split.wait = .op 1) := by
  and_intros
  any_goals decide +kernel
  any_goals exact (waiting_here ⟨rfl, rfl, rfl, rfl, rfl⟩ (by decide +kernel)).1

/-! ### The host link and boot -/

theorem witness_HostAccessesAreServed :
    (let up := { lone id with booted := true }
     let m : Inbound := ⟨5, 0, 9, 64, 8, none, 0⟩
     let held := { up with outstanding := [m] }
     let late := { held with dies := lset held.dies 2 { Die.reset 2 with time := 2000000 } }
     let k := OpKind.load [{ lane0 [] with pa := 0x8000000000000 }] 4 false 3 0 0 0 ⟨0, 0, false⟩
     let q : HostAsk := ⟨1, 0, 0x8000000000000, 4, none⟩
     let ask := { pending k (some (.gld, 1)) with booted := true, asks := [q] }
     let out := { copying (fun x => { x with st := .outbound }) with asks := [q] }
     let engine := { up with asks := [{ q with who := 0 }] }
     up.portUp 0 = true ∧ State.reset.booted = false ∧ up.booted = true ∧ up.inboundOk 64 8 = true ∧ up.inboundOk 0x8000000000000 8 = false ∧
     up.chanHeld 64 8 = false ∧ up.outstanding = [] ∧ up.poisoned 64 8 = false ∧ ({ up with memP := [8] } : State).poisoned 64 8 = true ∧
     held.outstanding.find? (fun k => k.id == 5) = some m ∧ up.outstanding.find? (fun k => k.id == 5) = none ∧
     (held.die 2).time < m.since + 2000000 ∧ m.since + 2000000 ≤ (late.die 2).time ∧ held.homeDie m.addr = 2 ∧
     up.asks = [] ∧ out.op 1 = none ∧ (tfind out.streams 1).isSome = true ∧ out.asks = [] ++ q :: [] ∧ q.got = none ∧
     engine.op 0 = none ∧ tfind engine.streams 0 = none ∧ held.outstanding.any (fun k => k.port == 0) = true ∧
     ask.hostPort 0x8000000000000 = some 0 ∧ ask.before 0 1 (some 0) 0x8000000000000 4 = false ∧
     regAddr 0x1003 none = some ⟨1, 3, 0, 0⟩ ∧ regAddr (2 ^ 35) none = none ∧ regAddr 0x200000 none = some ⟨0, 0, 2, 0⟩ ∧
     up.readReg ⟨1, 3, 0, 0⟩ none = some 0 ∧ up.readReg ⟨6, 0, 0, 0⟩ none = none ∧
     (match up.writeReg ⟨1, 3, 0, 0⟩ 1 none with | .done _ => true | _ => false) = true ∧
     (match up.writeReg ⟨6, 0, 0, 0⟩ 1 none with | .refused => true | _ => false) = true) ∧
    ({ lone id with booted := true } : State).quiet ∧
    EndsAlone (pending (.load [{ lane0 [] with pa := 0x8000000000000 }] 4 false 3 0 0 0 ⟨0, 0, false⟩) (some (.gld, 1))) 1
      ⟨1, 0, 0, 2, 0, 0, [], some (.gld, 1), .load [{ lane0 [] with pa := 0x8000000000000 }] 4 false 3 0 0 0 ⟨0, 0, false⟩, 2, 0⟩ :=
  ⟨by decide +kernel, witness_quiet id, endsAlone rfl⟩

/-- Boot images of 64 bytes: the magic alone, a good one, one whose entry lies past it, one with a wrong checksum. -/
theorem witness_BootStartsTheModule :
    (let image := fun (len entry sum : Byte) => { State.reset with mem := cellsAt 0 [0x42, 0x4F, 0x4F, 0x54] ++ [(4, len)] ++
       (if entry = 0 then [] else [(8, entry)]) ++ (if sum = 0 then [] else [(12, sum)]) }
     let magic := fun (s : State) => ofBytes (s.home 0 4) = 0x544F4F42 ∧ ∀ k < 64, 16 ≤ k → memByte s.mem k = 0
     let shape := fun (s : State) => ofBytes (s.home 4 4) % 64 = 0 ∧ ofBytes (s.home 4 4) ≤ 2 ^ 26 ∧ ofBytes (s.home 8 4) % 4 = 0 ∧
       ofBytes (s.home 8 4) < ofBytes (s.home 4 4)
     let sum := fun (s : State) => (crc32 (s.home 64 (ofBytes (s.home 4 4) - 64))).toNat = ofBytes (s.home 12 4)
     State.reset.booted = false ∧ ¬ magic State.reset ∧ magic (image 64 60 0) ∧ shape (image 64 60 0) ∧ sum (image 64 60 0) ∧
     magic (image 64 64 0) ∧ ¬ shape (image 64 64 0) ∧ magic (image 64 0 1) ∧ shape (image 64 0 1) ∧ ¬ sum (image 64 0 1) ∧
     State.reset.dies.length = 4 ∧ (67108800 : Nat) % 64 = 0 ∧ 67108800 + (List.replicate 64 (0 : Byte)).length ≤ 2 ^ 26 ∧
     2 ^ 26 < 67108864 + (List.replicate 64 (0 : Byte)).length) := by
  decide +kernel

/-! ### Queues and dispatch -/

/-- A machine after boot whose queue 0 belongs to F0, its ring at 0x1000 with one record, of these bytes. -/
def queued (l : List Byte) (f : Queue → Queue := id) (m : List Host.Cell := []) : State :=
  { lone id with
    booted := true
    queues := [(0, f { Queue.reset with known := true, en := true, owner := 2, base := 0x1000 })]
    mem := [(20, 1)] ++ (cellsAt 0x1000 l).filter (fun c => c.2 != 0) ++ m }

theorem witness_QueuesAreRung :
    (let s := queued []
     let behind := { s with outstanding := [⟨5, 0, 9, 64, 8, some [1], 0⟩] }
     let v := fun (n : Nat) => ofBytes (s.home 20 4) + n
     let gap := fun (v : Nat) => (v + 2 ^ 32 - ofBytes (s.home 20 4)) % 2 ^ 32
     let past := fun (v : Nat) => ofBytes ((s.tellHost 2 20 (toBytes v 4)).home 24 2) = 0 ∧
       2 ^ (s.queue 0).log2 < (v + 2 ^ 32 - ofBytes ((s.tellHost 2 20 (toBytes v 4)).home 16 4)) % 2 ^ 32
     s.portUp 0 = true ∧ s.booted = true ∧ (s.queue 0).known = true ∧ (s.queue 0).fault = none ∧ (lone id).booted = false ∧
     (({ lone id with booted := true } : State).queue 0).known = false ∧ (s.outstanding.any (fun m => m.port == 0 && m.data.isSome)) = false ∧
     behind.outstanding.any (fun m => m.port == 0 && m.data.isSome) = true ∧ v 0 = 1 ∧ gap 1 < 2 ^ 31 ∧ ¬ past 1 ∧ gap 2 < 2 ^ 31 ∧ past 2 ∧
     2 ^ 31 ≤ gap 0 ∧ (0x100010000 : BitVec 64).toNat.testBit 16 = true ∧ (0x20000 : BitVec 64).toNat.testBit 17 = true ∧
     (0x20000 : BitVec 64).toNat / 2 ^ 13 % 8 = 0 ∧ (0x20000 : BitVec 64).toNat / 2 ^ 18 = 0 ∧ (0x2000 : BitVec 64).toNat / 2 ^ 13 % 2 ^ 19 ≠ 0) := by
  decide +kernel

/-- A launch record of one workgroup on F0, of the object at 0x10000; its header and kernel descriptor, cooperative or not. -/
def launchBytes : List Byte := [0x21, 0, 0, 0, 0, 0, 0, 0, 0, 0, 1, 0, 0, 0, 0, 0, 1, 0, 0x10, 0, 0, 1] ++ List.replicate 42 0
def object (coop : Byte) : List Host.Cell :=
  cellsAt 0x10000 [0x4F, 0x4E, 0x4F, 0x42, 0x80, 0x44, 1] ++ [(0x10014, 0x40), (0x10029, 1), (0x1002C, 1)] ++
    cellsAt 0x10108 [64, 8, 1] ++ (if coop = 0 then [] else [(0x1010B, coop)]) ++ [(0x10110, 64)]

/-- The record of queue 0 at HEAD, its kind, and what a LAUNCH record names: 0 faults, 1 invalid, 2 never fits, 3 a grid. -/
def headRecord (s : State) : List Byte := s.home ((s.queue 0).base + 64 * (ofBytes (s.home 16 4) % 2 ^ (s.queue 0).log2)) 64
def headKind (s : State) : Nat := ((headRecord s).headD 0).toNat % 16
def headLaunch (s : State) : Nat :=
  match (s.applyAll 2).readLaunch 2 0 (headRecord s) with
  | .error _ => 0
  | .ok (_, none) => 1
  | .ok (u, some g) => if u.neverFits g then 2 else 3

theorem witness_QueueRecordsAreTaken :
    (let ready := fun (s : State) => (s.queue 0).known = true ∧ (s.queue 0).en = true ∧ (s.queue 0).fault = none ∧
       ((s.queue 0).work = .idle ∧ (s.queue 0).stop = false ∨ (s.queue 0).work = .reading) ∧
       ofBytes (s.home 24 2) = 0 ∧ ofBytes (s.home 16 4) ≠ ofBytes (s.home 20 4)
     ready (queued [5]) ∧ ¬ ready (queued [] (fun x => { x with stop := true })) ∧ ready (queued []) ∧ ready (queued [15]) ∧
     ready (queued launchBytes id (object 0))) := by
  decide +kernel

theorem witness_QueueRecordsAreTaken_kinds :
    headKind (queued [5]) = 5 ∧ headKind (queued []) = 0 ∧ headKind (queued [15]) = 15 ∧ headKind (queued [0x15]) = 5 ∧
    headKind (queued launchBytes id (object 0)) = 1 ∧ headLaunch (queued launchBytes id (object 0)) = 3 ∧
    headLaunch (queued launchBytes id (object 1)) = 2 ∧ headLaunch (queued launchBytes) = 1 ∧
    headLaunch { queued launchBytes id (object 0) with ctxs := [(0, tables)] } = 0 ∧
    headKind (queued [2]) = 2 ∧ streamRecOk (headRecord (queued [2])) = true ∧ streamRecOk (headRecord (queued [0x42])) = false ∧
    headKind (queued [3]) = 3 ∧ waitRecOk (headRecord (queued [3])) = true ∧ waitRecOk (headRecord (queued [0x13])) = false ∧
    headKind (queued [4]) = 4 ∧ signalRecOk (headRecord (queued [4])) = true ∧ signalRecOk (headRecord (queued [0x14])) = false := by
  decide +kernel

theorem witness_QueueRecordsAreTaken_works :
    (let wait := fun x : Queue => { x with work := .waiting 64 1 }
     let sig := fun x : Queue => { x with work := .signalling 64 1 true }
     let sem := fun (s : State) (n : Need) => match s.queueSem 0 64 n with | .ok pa => pa == 64 | .error _ => false
     (((queued [] wait).queue 0).work = .waiting 64 1 ∧ ((queued [] wait).queue 0).fault = none ∧ sem (queued [] wait) .load = true ∧
     ofBytes ((queued [] wait).home 64 8) < 1 ∧ 1 ≤ ofBytes ((queued [0] wait [(64, 1)]).home 64 8) ∧
     sem { queued [] wait with ctxs := [(0, tables)] } .load = false ∧
     ((queued [] sig).queue 0).work = .signalling 64 1 true ∧ sem (queued [] sig) .store = true ∧
     (∀ g ∈ (queued [] sig).grids, g.2.queue ≠ some 0) ∧ (queued [] sig).streams = [] ∧
     ¬ (∀ g ∈ ({ queued [] sig with grids := [(8, { Grid.firmware with queue := some 0 })] } : State).grids, g.2.queue ≠ some 0))) := by
  decide +kernel

/-- A launch of F0 with one workgroup still to admit, on its die's list, a core cluster in service or none. -/
def waiting (clusters : BitVec 2) (gr : Grid) : State :=
  { lone id with
    grids := [(8, Grid.firmware), (12, gr)]
    dies := lset State.reset.dies 2 { Die.reset 2 with pending := [12], clusters := clusters, gsel := 12 } }

theorem witness_GridsAreDispatched :
    (let gr := { Grid.firmware with next := 0, total := 1 }
     let next := fun (s : State) => (s.pendingOrder 2).find? (fun p => s.eligible p.2)
     next (lone id) = none ∧ next (waiting 1 gr) = some (12, gr) ∧ tfind (waiting 1 gr).grids 12 = some gr ∧ gr.cluster = 0 ∧ gr.anyDie = false ∧
     gr.total = gr.next + 1 ∧ (waiting 0 gr).findCore gr (dieCoreList 2) = none ∧ ((waiting 1 gr).findCore gr (dieCoreList 2)).map (fun x => x.1) = some 769 ∧
     ((waiting 1 gr).die 2).pending.contains 12 = true ∧ ¬ gr.since + ((waiting 1 gr).die 2).promo ≤ ((waiting 1 gr).die 2).time ∧
     (({ waiting 1 gr with dies := lset (waiting 1 gr).dies 2 { (waiting 1 gr).die 2 with time := 10000000 } } : State).die 2).promo ≤ 10000000 ∧
     ((waiting 1 gr).die 2).gsel.toNat = 12 ∧ ((lone id).die 2).pending.contains ((lone id).die 2).gsel.toNat = false) ∧
    (∀ n, (waiting 1 { Grid.firmware with next := 0 }).awayOf n = 0 ∧ ((waiting 1 { Grid.firmware with next := 0 }).ctx n).reload = []) := by
  refine ⟨by decide +kernel, fun n => ?_⟩
  match n with
  | 0 => exact ⟨rfl, rfl⟩
  | n + 1 => exact ⟨rfl, rfl⟩

theorem witness_WorkgroupsAndGridsEnd :
    (let g := { Group.lone with st := .exited }
     let s := lone (fun x => { x with life := .exited }) Grid.firmware g
     let e := { lone id with groups := [], grids := [(8, { Grid.firmware with retired := 1, doneSem := 64 })] }
     tfind s.groups 0 = some g ∧ tfind s.grids 8 = some Grid.firmware ∧ s.mayRetire g Grid.firmware = true ∧
     tfind (lone id).groups 0 = some Group.lone ∧ Group.lone.st ≠ .exited ∧ (lone id).mayRetire Group.lone Grid.firmware = false ∧
     tfind e.grids 8 = some { Grid.firmware with retired := 1, doneSem := 64 } ∧ Grid.firmware.total ≤ Grid.firmware.next ∧ e.groups = [] ∧
     (match (e.releaseAll 2).translate 2 0 64 .atomic with | .ok t => t.window == none && t.pa == 64 | .error _ => false) = true ∧
     (∀ k < 8, e.installed (64 + k) = true) ∧ e.posted = [] ∧ ¬ Grid.firmware.total ≤ Grid.firmware.retired) := by
  decide +kernel

/-! ### Die time and die links -/

/-- Die 0 knows die 1 by p, both of them with die time enabled and their link trained, at a time. -/
def linked (p : Peer) (x : Die → Die := id) (up : Bool := true) : State :=
  { lone id with dies := [x { Die.reset 0 with en := true, peers := [(1, p)], links := [(1, { Link.reset with up := up })] },
      { Die.reset 1 with en := true, links := [(0, { Link.reset with up := up })] }, Die.reset 2, Die.reset 3] }

theorem witness_DiesKeepTime :
    (let p : Peer := { Peer.reset with en := true }
     let sent := linked { p with t1 := some 0 }
     let back := linked { p with t1 := some 0, t23 := some (50, 50) } (fun x => { x with time := 100 })
     let far := linked { p with t1 := some 0, t23 := some (500, 500) } (fun x => { x with time := 100, tstate := .locked })
     let late := linked { p with t1 := some 0, miss := 2 } (fun x => { x with time := 100001, tstate := .locked })
     let both := { late with dies := lset late.dies 1 { (late.die 1) with tstate := .locked, time := 99961 } }
     (both.die 0).time + 7 < 2 ^ 64 ∧ (both.die 1).tstate = .locked ∧ (both.die 0).time ≤ (both.die 1).time + 40 ∧
     (both.die 1).time ≤ (both.die 0).time + 40 ∧ ((linked p).die 0).counts 1 = true ∧ ((linked p).die 0).peer 1 = p ∧ p.t1 = none ∧ p.last = none ∧ (lone id).dies.length = 4 ∧
     ((lone id).die 0).counts 1 = false ∧ (sent.link 0 1).up = true ∧ (sent.link 1 0).up = true ∧ ((sent.die 0).peer 1).t1 = some 0 ∧
     ((sent.die 0).peer 1).t23 = none ∧ ((linked p id false).link 0 1).up = false ∧ ((back.die 0).peer 1).t23 = some (50, 50) ∧
     (back.die 0).time ≤ 0 + 100000 ∧ ((((50 : Int) - 0) - ((100 : Int) - 50)).tdiv 2).natAbs ≤ 40 ∧ (far.die 0).tstate = .locked ∧
     ¬ ((((500 : Int) - 0) - ((100 : Int) - 500)).tdiv 2).natAbs ≤ 40 ∧ 0 + 100000 < (late.die 0).time ∧ (late.die 0).tstate = .locked ∧
     2 ≤ ((late.die 0).peer 1).miss ∧ (late.die 0).counts 1 = true ∧ ((linked p).die 1).en = p.en ∧ (linked Peer.reset).dies.length = 4 ∧
     (((linked Peer.reset).die 0).peer 1).en ≠ ((linked Peer.reset).die 1).en) := by
  decide +kernel

theorem witness_LinksCarrySchedules :
    (let s := fun (l : Link) => { lone id with dies := lset (lone id).dies 0 { Die.reset 0 with links := [(1, l)] } }
     let up := { Link.reset with up := true, fails := 4, failAt := 0 }
     (lone id).dies.length = 4 ∧ ((lone id).link 0 1).latched = none ∧ ((s { Link.reset with latched := some ([], 7) }).link 0 1).latched = some ([], 7) ∧
     scheduleOk 0 1 [] = true ∧ scheduleOk 0 1 (List.replicate 65 0) = false ∧ ((lone id).link 0 1).up = false ∧ ((s up).link 0 1).up = true ∧
     ((s up).link 0 1).fails = 4) := by
  decide +kernel

/-! ### The declension and migration engines -/

/-- A slot with a near and a far arena of 16 granules and a class table at 0x6000. -/
def arena : Ctx :=
  { Ctx.firmware with anear := 0x200000, anearsz := 16, afar := 0x300000, afarsz := 16, aclass := 0x6000, dclnint := 100, rlcnt := [(2, 1)], rlbase := [(2, 0x7000)] }

/-- The record at 128, a class row of 5 granules whose near list starts at frame 8, a list entry of the record (v = 128), and byte 4 of the
word of slot 0. -/
def engine (v w : Byte) (f : Die → Die := id) : State :=
  { lone id Grid.firmware Group.lone arena with
    mem := [(144, 1), (146, 6), (0x6000, 5), (0x6010, 8)] ++ (if v = 0 then [] else [(0x7000, v)]) ++ (if w = 0 then [] else [(0x200004, w)])
    dies := lset State.reset.dies 2 (f (Die.reset 2)) }

/-- A move of slot 0 to the near arena, which has swapped or not. -/
def moving (swapped : Option (Nat × Bool × Nat)) (epochs : List Nat) : Act := ⟨3, 2, 0, 128, 0, 0, .near, swapped, epochs⟩

theorem witness_SweepsChooseActions :
    (let at' := fun (n : Nat) (x : Die) => { x with time := n }
     let w : Sweep := ⟨7, 0, 128, 0x7000, [], false, none⟩
     let p : Sweep := ⟨7, 0, 128, 0x7000, [], false, some 1⟩
     ((engine 128 0 (at' 100)).ctx 0).dclnint ≠ 0 ∧ tget 0 ((engine 128 0 (at' 100)).die 2).sweptAt 0 + 100 ≤ ((engine 128 0 (at' 100)).die 2).time ∧
     ((engine 128 0 (at' 100)).die 2).sweeps = [] ∧ (engine 128 0 (at' 100)).recordList 2 0 = [(0x7000, some 128)] ∧
     (engine 129 0 (at' 100)).recordList 2 0 = [(0x7000, none)] ∧
     ({ engine 128 0 (at' 100) with ctxs := [(0, { arena with rlcnt := [] })] } : State).recordList 2 0 = [] ∧
     ¬ tget 0 ((engine 128 0 (at' 99)).die 2).sweptAt 0 + 100 ≤ ((engine 128 0 (at' 99)).die 2).time ∧
     ((engine 128 0 (fun x => { x with time := 100, sweeps := [p] })).die 2).sweeps = [p] ∧ p.pass ≠ none ∧
     ((engine 128 0 (fun x => { x with sweeps := [w] })).die 2).sweeps.find? (fun y => y.id == 7) = some w ∧ w.sems = [] ∧
     (let first : Sweep := ⟨6, 0, 256, 0x7000, [], false, some 1⟩
      let next : Sweep := ⟨7, 0, 128, 0x7008, [], false, some 1⟩
      ((engine 128 0 (fun x => { x with sweeps := [first, next] })).die 2).sweeps = [first, next] ∧ first.pass = next.pass ∧
        first.entry < next.entry) ∧
     ((engine 128 0).applyAll 2).engineRec 2 0 256 = none ∧ (engine 128 0).dies.length = 4) := by
  decide +kernel

/-- Slots that a sweep demotes, moves to the far tier, to the near tier, and evacuates. -/
theorem witness_SweepsChooseActions_slots :
    (let r := { SentRec.read sentBytes with den := true, ten := true, thr := [9, 9, 9], cold := 9, hot := 2, len := 200 }
     let w : Slot := ⟨0, false, 0, true, false, false, false, false, false, 0, 3, 2, 5⟩
     (sweepSlot r true false 0 w).2 = some .demote ∧ (sweepSlot r true false 0 { w with stage := 3 }).2 = some .far ∧
     (sweepSlot r true false 0 { w with tier := true }).2 = some .near ∧ (sweepSlot r true true 0 { w with tier := true }).2 = some .evac ∧
     w.mass / 2 < 9 ∧ ¬ (w.pinned = true ∨ 0 < r.sinks ∨ 0 + 1 = r.pages ∨ w.moving = true ∨ w.declining = true)) := by
  decide +kernel

theorem witness_FramesAreSwapped :
    (let a := moving none []
     let s := fun (w : Byte) => { engine 128 w with acts := [a] }
     let word := fun (w : Byte) => match (s w).homeSlot 2 0 128 (SentRec.read sentBytes) 0 with
       | .ok x => Slot.read x.2.2 | .error _ => Slot.read []
     (s 0x19).acts.find? (fun a => a.id == 3 && a.swapped.isNone) = some a ∧ (s 0x19).dies.length = 4 ∧ a.die < 4 ∧
     (s 0x19).engineRec 2 0 128 = some sentBytes ∧ ({ s 0x19 with mem := [] } : State).engineRec 2 0 128 = none ∧
     (word 0x19).present = true ∧ (word 0x19).tier = true ∧ (word 0x19).moving = true ∧ (word 0x19).sgen = 0 ∧ (word 0x10).present = false ∧
     slotValid ((s 0x19).home 0x200000 16) = true ∧ slotValid ((s 0x10).home 0x200000 16) = false ∧
     frameGranules (SentRec.read sentBytes).elems 0 = 5 ∧ arena.frame true 0 5 = some 0x300000 ∧ ((s 0x19).newFrame a (word 0x19) 5).2 = some 8 ∧
     arena.frame false 8 5 = some 0x208000 ∧ (slotAddr arena 0 0).toOption = some 0x200000 ∧ (swapWord a (word 0x19) 8 false 0).isSome = true ∧
     (∀ k < 16, (s 0x19).installed (0x200000 + k) = true) ∧ (s 0x19).posted = []) := by
  decide +kernel

theorem witness_FramesAreSwapped_epochs :
    (let s := fun (x : Option (List Nat)) (n : Nat) (l : List Act) =>
       { engine 128 0x19 (fun d => { d with epochWait := x, re := 1, c0 := n }) with acts := l }
     let done := moving (some (0, false, 5)) [3, 2, 1, 0]
     ((s none 0 [moving none []]).acts.filter (fun a => a.swapped.isSome && !a.epochs.contains 2)) = [] ∧
     ((s none 0 [moving (some (0, true, 5)) []]).acts.filter (fun a => a.swapped.isSome && !a.epochs.contains 2)) ≠ [] ∧
     ((s none 0 []).die 2).epochWait = none ∧ ((s (some [3]) 1 []).die 2).epochWait = some [3] ∧ ((s (some [3]) 1 []).die 2).re % 2 = 1 ∧
     ((s (some [3]) 1 []).die 2).c0 ≠ 0 ∧ ((s (some [3]) 0 []).die 2).c0 = 0 ∧
     (s none 0 [done]).acts.find? (fun a => a.id == 3) = some done ∧ (∀ d < 4, done.epochs.contains d = true) ∧
     (s none 0 [done]).classRow 0 5 = some 0x6000 ∧ (∀ k < 16, (s none 0 [done]).installed (0x6000 + 16 + k) = true) ∧
     (moving none []).swapped = none) := by
  decide +kernel

/-! ### Cores, expanders, channels and the register rows -/

theorem witness_CoresAreServiced :
    (let s := fun (v : CoreSvc) (sp : Nat × Nat) => die2 (fun x => { x with coresvc := v, spares := sp }) { lone id with booted := true }
     ((lone id).booted = false) ∧ (s ⟨0, 0, 0, none⟩ (4, 4)).booted = true ∧ (s ⟨0, 0, 0, none⟩ (4, 4)).dies.length = 4 ∧
     (let all := { lone id with dies := (lone id).dies.map (fun (x : Die) => { x with clusters := 3 }) }
      ∀ e < 4, (all.die e).clusters = 3) ∧ ((lone id).die 0).clusters ≠ 3 ∧
     ((s ⟨0, 0, 0, none⟩ (4, 4)).die 2).coresvc.active = none ∧ ((s ⟨5, 1, 1, some 197⟩ (4, 4)).die 2).coresvc.active = some 197 ∧
     (s ⟨5, 1, 1, some 197⟩ (4, 4)).coreEmpty (384 * 2 + 197) = true ∧ (lone id).coreEmpty (384 * 2 + 0) = false ∧
     ((s ⟨5, 1, 2, some 197⟩ (4, 1)).die 2).coresvc.state = 2 ∧ ((s ⟨5, 1, 1, some 197⟩ (4, 0)).die 2).spares.2 = 0 ∧
     ((lone id).die 2).coresvc.state ≠ 1 ∧ ((lone id).die 2).coresvc.state ≠ 2 ∧
     ¬ (tget 0 ((lone id).die 2).idleFrom 5 + 1000 * ((lone id).die 2).gate ≤ ((lone id).die 2).time) ∧
     1000 * ((die2 (fun x => { x with time := 1000000 }) (lone id)).die 2).gate ≤ ((die2 (fun x => { x with time := 1000000 }) (lone id)).die 2).time) := by
  decide +kernel

theorem witness_ExpandersComeAndGo :
    (let s := fun (p : Port) => { lone id with ports := [(7, p)] }
     let there := { Port.reset with enum := true, inserv := true, base := 2 ^ 40, size := 512 }
     ((lone id).port 7).busy = false ∧ ((s { Port.reset with busy := true }).port 7).busy = true ∧
     (s { Port.reset with busy := true }).rangeFree 7 (2 ^ 40) 512 = true ∧ 2 ^ 40 % 2 ^ 30 = 0 ∧ 2 ^ 40 + 512 * 1000000000 ≤ 2 ^ 52 ∧
     (lone id).rangeFree 7 0 512 = false ∧ ((s there).port 7).enum = true ∧ ((s there).port 7).inserv = true ∧
     (s there).regionOf (2 ^ 40 + 5) = none ∧ 2 ^ 40 + 5 < 2 ^ 40 + there.size * 1000000000 ∧
     ((s there).ports.all (fun p => p.1 == 7)) = true) := by
  decide +kernel

theorem witness_ChannelsAreTrained :
    (let s := fun (c : Chan) => { lone id with chans := [(255, c)] }
     let work := fun (k : Nat) (ran : Bool) => { Chan.reset with trmode := true, tbl := 0x800, work := some ⟨k, 5, ran, none, 0, none⟩ }
     ((lone id).chan 255).work = none ∧ ((lone id).chan 255).trmode = false ∧ ((s (work 0 false)).chan 255).work = some ⟨0, 5, false, none, 0, none⟩ ∧
     ((s (work 1 false)).chan 255).work = some ⟨1, 5, false, none, 0, none⟩ ∧ ((s (work 2 true)).chan 255).work = some ⟨2, 5, true, none, 0, none⟩ ∧
     (∃ e ∈ (List.range 64).map (fun i => ofBytes (({ s (work 1 false) with mem := [(0x800, 0x80)] } : State).home (0x800 + 4 * i) 4)), e.testBit 7 = true) ∧
     ¬ (∃ e ∈ (List.range 64).map (fun i => ofBytes ((s (work 1 false)).home (0x800 + 4 * i) 4)), e.testBit 7 = true ∨ e / 2 ^ 15 ≠ 0) ∧
     (s (work 2 true)).outstanding = [] ∧ 32 * 7 + 31 = 255) := by
  decide +kernel

theorem witness_RegistersAreWritten :
    (let m : Move := ⟨0x10000, 0x20000, 1, 64⟩
     let s := fun (f : Die → Die) => { lone id with dies := lset State.reset.dies 3 (f (Die.reset 3)) }
     let ask := fun x : Die => { x with msrc := 0x10000, mdst := 0x20000, mlen := 1 }
     ((lone id).ctx 0).valid = true ∧ (lone id).slotResident 0 = true ∧ ((lone id).ctx 5).valid = false ∧ (lone id).slotResident 5 = false ∧
     regAddr (2 ^ 35) none = none ∧ regAddr 0x1003 none = some ⟨1, 3, 0, 0⟩ ∧ regAddr 0x6000 none = some ⟨6, 0, 0, 0⟩ ∧ regAddr 0x10004 none = some ⟨0x10, 4, 0, 0⟩ ∧
     (match (lone id).writeReg ⟨1, 3, 0, 0⟩ 1 none with | .done _ => true | _ => false) = true ∧
     (match (lone id).writeReg ⟨6, 0, 0, 0⟩ 1 none with | .refused => true | _ => false) = true ∧
     (match (lone id).writeReg ⟨0x10, 4, 0, 0⟩ 1 none with | .chan _ _ _ => true | _ => false) = true ∧
     (s ask).covers 0x10000 65536 16 = true ∧ (s ask).covers 0x20000 65536 16 = true ∧ ¬ (0x10000 < 0x20000 + 65536 ∧ 0x20000 < 0x10000 + 65536) ∧
     ((s ask).die 3).moves.length < 16 ∧ ((lone id).die 3).mlen = 0 ∧ ((lone id).die 3).moves = [] ∧
     ((s (fun x => { x with moves := [m] })).die 3).moves = m :: [] ∧ m.src + 65536 * m.len ≤ m.dst ∧ m.sem + 8 ≤ m.src ∧
     (∀ k < 8, (lone id).installed (m.sem + k) = true)) ∧ (∀ k < 65536, (lone id).installed (0x20000 + k) = true) := by
  refine ⟨by decide +kernel, fun k hk => ?_⟩
  have h : State.regionOf (lone id) (0x20000 + k) = some ⟨0, 0x4000000, .bootL2⟩ := by
    simp [State.regionOf, lone, State.reset, regionsReset]; omega
  simp [State.installed, h]

/-! ### The whole machine -/

theorem witness_TrapsStopPrecisely :
    (let halting := { Group.lone with st := .halting, warps := [0, 1] }
     let s := { lone id Grid.firmware { Group.lone with warps := [0, 1] } with warps := [(0, start), (1, { start with idx := 1 })] }
     (lone id).cxOf 0 0 = some (cx id) ∧ 0 < (cx id).warp.splits.length ∧ (cx id).group.st = .running ∧
     s.cxOf 0 0 = some (cx id Grid.firmware { Group.lone with warps := [0, 1] }) ∧ ((tfind s.warps 1).map (fun z => z.life)) = some .running ∧
     (lone id Grid.firmware halting).cxOf 0 0 = some (cx id Grid.firmware halting) ∧ halting.st = .halting) :=
  ⟨(waiting_here ⟨rfl, rfl, rfl, rfl, rfl⟩ (by decide +kernel)).1, by decide +kernel, by decide +kernel,
    (waiting_here ⟨rfl, rfl, rfl, rfl, rfl⟩ (by decide +kernel)).1, by decide +kernel,
    (waiting_here ⟨rfl, rfl, rfl, rfl, rfl⟩ (by decide +kernel)).1, by decide +kernel⟩

/-- Two splits of the lone warp in one slot, and a split of a second warp beside it: one older, one promoted, one that ties. -/
theorem witness_SlotsIssueTheOldest :
    (let f := fun (a b : Nat) (x : Warp) => (x.setSplit 0 (fun q => { q with stamp := a })).setSplit 1 (fun q => { q with st := .run, stamp := b, mask := 1 })
     let s := fun (a b : Nat) => lone (f a b)
     let t := { s 1 1 with warps := [(0, f 1 1 start), (1, { start with idx := 1 })] }
     let u := { s 1 1 with ops := [⟨1, 0, 0, 2, 0, 0, [], some (.gld, 1), .load [lane0 []] 4 false 3 0 0 2 ⟨0, 0, false⟩, 2, 0⟩] }
     u.unmade 0 = true ∧ (s 1 1).unmade 0 = false ∧ (t.warps.all (fun e => t.warps.all (fun g => e.1 != g.1 || e == g))) = true ∧
     ((f 1 1 start).split 0).st = .run ∧ ((f 1 1 start).split 1).st = .run ∧ ((f 2 1 start).split 1).stamp < ((f 2 1 start).split 0).stamp ∧
     ((f 1 1 start).split 0).promoted = false ∧ (s 1 1).slotCyc 768 0 < 4028 ∧ (tfind t.warps 1).map (fun x => (x.core, x.slot, x.idx)) = some (768, 0, 1)) ∧
    (lone id).mayIssue 0 0 = true := by
  decide +kernel

/-- Each check failing with every later one failing too, where they can. -/
theorem witness_ChecksComeInOrder :
    (let user := { Ctx.firmware with priv := false }
     let himm := hinted 0 5
     let hfe := fun (x : Warp) => hinted 4 1 { x with sE := 2 }
     let empty := fun (x : Warp) => { x with sE := 2, sP := 4 }
     let pois := fun (x : Warp) => { x with sP := 4 }
     issueCx (lone himm Grid.firmware Group.lone user) = some (cx himm Grid.firmware Group.lone user) ∧
     privileged (.srr 1 2) = some false ∧ privileged (.srr 2 4) = some true ∧ (cx himm).split.hints = [⟨0, 0, 5⟩] ∧
     issueCx (lone id Grid.firmware Group.lone user) = some (cx id Grid.firmware Group.lone user) ∧ (cx id Grid.firmware Group.lone user).ctx.priv = false ∧
     issueCx (lone hfe) = some (cx hfe) ∧ (cx hfe).split.hints = [⟨0, 4, 1⟩] ∧ (cx hfe).warp.isEmpty (.s 1) = true ∧
     issueCx (lone empty) = some (cx empty) ∧ (cx empty).split.hints = [] ∧ (cx empty).warp.isEmpty (.s 1) = true ∧
     issueCx (lone pois) = some (cx pois) ∧ (cx pois).warp.isEmpty (.s 1) = false ∧ (cx pois).warp.sPois 2 = true) := by
  refine ⟨issueCx_in rfl (cxOf_lone (by decide +kernel)) (by decide +kernel), ?_, ?_, ?_,
    issueCx_in rfl (cxOf_lone (by decide +kernel)) (by decide +kernel), ?_,
    issueCx_in rfl (cxOf_lone (by decide +kernel)) (by decide +kernel), ?_, ?_,
    issueCx_in rfl (cxOf_lone (by decide +kernel)) (by decide +kernel), ?_, ?_,
    issueCx_in rfl (cxOf_lone (by decide +kernel)) (by decide +kernel), ?_⟩ <;> decide +kernel

theorem witness_ChecksComeInOrder_vector :
    (let empty := fun (x : Warp) => { x with vE := 2 }
     let pois := fun (x : Warp) => { x with vP := 1 <<< 64 }
     let bound := fun (x : Warp) => { x with bound := 4 }
     issueCx (lone empty) = some (cx empty) ∧ (cx empty).warp.isEmpty (.v 1) = true ∧ (cx empty).vok 127 1 = true ∧ (cx empty).warp.replay = none ∧
     issueCx (lone pois) = some (cx pois) ∧ (lanes (cx pois).split.mask).filter (fun l => (cx pois).warp.vPois 1 l || (cx pois).warp.vPois 2 l) = [0] ∧
     issueCx (lone bound) = some (cx bound) ∧ (cx bound).warp.bound.getLsbD 2 = true ∧ (cx bound).split.mask ≠ 0 ∧
     (lanes (cx bound).split.mask).filter (fun l => (cx bound).warp.vPois 1 l || (cx bound).warp.vPois 2 l) = []) := by
  refine ⟨issueCx_in rfl (cxOf_lone (by decide +kernel)) (by decide +kernel), ?_, ?_, ?_,
    issueCx_in rfl (cxOf_lone (by decide +kernel)) (by decide +kernel), ?_,
    issueCx_in rfl (cxOf_lone (by decide +kernel)) (by decide +kernel), ?_⟩ <;> decide +kernel

/-- The lone warp at a SIMM, at a word that is invalid, at an address that no memory backs; a stream at CHALT and at an invalid word. -/
theorem witness_StepRunsTheDecodedInstruction :
    (let s := fun (m : List Host.Cell) => { lone id with agenda := [.issue 0 0], mem := m }
     let far := withSplit (fun q => { q with pc := 0x10000000000 })
     let word := fun (t : State) (c : Cx) => match t.fetch c with | .ok x => some x.2 | .error _ => none
     let stream := fun (m : List Host.Cell) => match (copying id m).streamFetch 1 Stream.lone with | .ok l => decodeStream l.2 | .error _ => .error .major
     issueCx { s [] with agenda := [], cur := .warp 0 0 } = some (cx id) ∧ word (lone id) (cx id) = some 0 ∧
     word { lone id with mem := [(0, 0x14), (2, 0x08), (3, 0x0C)] } (cx id) = some 0x0C080014 ∧ word (lone far) (cx far) = none ∧
     issueCx { lone id with cur := .warp 0 1 } = none ∧ (lone id).cached 768 0 = none ∧
     ({ lone id with icache := [(768, [(0, 0x0C080014)])] } : State).cached 768 0 = some 0x0C080014 ∧
     (lone id).installed 0 = true ∧ (lone id).poisoned 0 4 = false ∧ ({ s [] with agenda := [], cur := .warp 0 0 } : State).mayIssue 0 0 = true ∧
     (match (lone id).translate 772 0 0 .fetch with | .ok t => t.pa == 0 | .error _ => false) = true ∧
     streamCx (copying) = some (1, Stream.lone) ∧ streamCx (copying (fun x => { x with st := .stopped 0 })) = none ∧
     (match stream [(3, 0x2C)] with | .ok x => x.1 == Instr.chalt | .error _ => false) = true ∧
     (match stream [] with | .ok _ => false | .error _ => true) = true) :=
  ⟨issueCx_in rfl (cxOf_here ⟨rfl, rfl, rfl, rfl, rfl⟩ (by decide +kernel)) (by decide +kernel), by decide +kernel⟩

theorem witness_DecodeInvertsEncode : (Instr.vshrD 126 124 122 0).wf = true ∧ (Instr.vshrD 126 124 122 0).rowKind = .core ∧ Instr.chalt.wf = true ∧ Instr.chalt.rowKind = .stream := by decide

/-- A step from a state in form, with a posted write; a warp without privilege at an instruction. -/
theorem witness_StepKeepsMemoryForm_StepKeepsPostedWrites :
    (let s := { posting (lone id) with mem := [(0, 0x14), (2, 0x08), (3, 0x0C)], agenda := [.issue 0 0] }
     Memory.wf s.mem = true ∧ s.dies.length = 4 ∧ s.posted.all (fun p => tsorted p.bytes && decide (p.id < s.uid)) = true ∧
     (match step s with | .next t => Memory.wf t.mem | _ => false) = true) := by
  decide +kernel

theorem witness_UnprivilegedWarpsLeaveTheSetup :
    (let user := { Ctx.firmware with priv := false }
     issueCx (lone id Grid.firmware Group.lone user) = some (cx id Grid.firmware Group.lone user) ∧
     (cx id Grid.firmware Group.lone user).ctx.priv = false ∧ (Instr.sadd 1 2 3).rowKind = .core ∧
     (match exec (.sadd 1 2 3) (lone id Grid.firmware Group.lone user) with | .next _ => true | _ => false) = true) :=
  ⟨issueCx_in rfl (cxOf_lone (by decide +kernel)) (by decide +kernel), by decide +kernel⟩

theorem witness_LexitLeavesTheLoop :
    (let f := fun x => withSplit (fun q => { q with loops := [around, around] }) x
     Ready (lone f) (cx f) (once true Accept.none (cx f) [] []) ∧ (cx f).split.loops = around :: [around] ∧
     Ready (lone id) (cx id) (once true Accept.none (cx id) [] []) ∧ (cx id).split.loops = []) :=
  ⟨ready (by decide +kernel), by decide +kernel, ready (by decide +kernel), by decide +kernel⟩

theorem witness_CallLinksEveryLane : Ready (lone id) (cx id) (once true accImm (cx id) [] [.v 0, .v 1]) ∧ (1 : BitVec 4) ≠ 0 ∧
    (cx id).warp.splitCount ≤ 1 ∧ (cx id).split.div = 0 :=
  ⟨ready (by decide +kernel), by decide +kernel⟩

theorem witness_FreedHandlesAreEmpty :
    Ready (lone (matrix false)) (cx (matrix false)) (once true accNoMod (cx (matrix false)) [] [.h 1]) := ready (by decide +kernel)

/-! ### Words and their instructions -/

/-- Each word decodes to its instruction, and the instruction encodes as its word. -/
def codes : List (Word × Instr) → Prop
  | [] => True
  | x :: r => (decode x.1 = .ok x.2 ∧ encode x.2 = [x.1]) ∧ codes r

/-! One word of every core instruction, its fields at arbitrary values, written out from the opcode table's match word and field
positions; the words of a major opcode together. -/

theorem test_words_01 : codes
    [(0x04149365, (.sadd 82 38 101)),
     (0x04230918, (.ssub 12 18 24)),
     (0x04574736, (.smul 93 14 54)),
     (0x04624B6F, (.smulh 9 22 111)),
     (0x049AC8BD, (.smulhU 107 17 61)),
     (0x04A5F60F, (.sdiv 23 108 15)),
     (0x04C7DC8F, (.sdivU 31 57 15)),
     (0x04F94638, (.sand 101 12 56)),
     (0x0502D14A, (.sor 11 34 74)),
     (0x053AD21E, (.sxor 107 36 30)),
     (0x0553971A, (.sandn 78 46 26)),
     (0x056C2F98, (.sshl 48 95 24)),
     (0x058407B4, (.sshr 16 15 52)),
     (0x05BFF6D0, (.ssra 127 109 80)),
     (0x05DDFA5C, (.smin 119 116 92)),
     (0x05F31FAE, (.sminU 76 63 46)),
     (0x060F8A4C, (.smax 62 20 76)),
     (0x063FABF2, (.smaxU 126 87 114)),
     (0x0652491E, (.ssetEq 73 18 30)),
     (0x067AD557, (.ssetNe 107 42 87)),
     (0x0689BEEB, (.ssetLt 38 125 107)),
     (0x06A289D0, (.ssetLe 10 19 80)),
     (0x06D5ECFF, (.ssetLtU 87 89 127)),
     (0x06FD0897, (.ssetLeU 116 17 23)),
     (0x07117C90, (.ssel 69 121 16)),
     (0x0723C04F, (.smov 15 79)),
     (0x075C8048, (.sclz 114 72)),
     (0x07788058, (.spopc 98 88)),
     (0x07817B5A, (.sbfx 5 118 90)),
     (0x07AACEFE, (.sbfi 43 29 126))] := by and_intros <;> first | rfl | trivial

theorem test_words_02 : codes
    [(0x08039B48, (.saddQ 14 54 72)),
     (0x08281F64, (.ssubQ 32 62 100)),
     (0x08593F14, (.smulQ 100 126 20)),
     (0x086AB966, (.smulhQ 42 114 102)),
     (0x0891916E, (.smulhUQ 70 34 110)),
     (0x08B1B55A, (.sdivQ 70 106 90)),
     (0x08D81D26, (.sdivUQ 96 58 38)),
     (0x08E51626, (.sandQ 20 44 38)),
     (0x090E9D02, (.sorQ 58 58 2)),
     (0x093F1742, (.sxorQ 124 46 66)),
     (0x09520024, (.sandnQ 72 0 36)),
     (0x097AAF50, (.sshlQ 106 94 80)),
     (0x09880674, (.sshrQ 32 12 116)),
     (0x09B93266, (.ssraQ 100 100 102)),
     (0x09D90D7A, (.sminQ 100 26 122)),
     (0x09F98730, (.sminUQ 102 14 48)),
     (0x0A041A70, (.smaxQ 16 52 112)),
     (0x0A2A0E56, (.smaxUQ 40 28 86)),
     (0x0A430D00, (.ssetEqQ 12 26 0)),
     (0x0A698C5C, (.ssetNeQ 38 24 92)),
     (0x0A818934, (.ssetLtQ 6 18 52)),
     (0x0AB81340, (.ssetLeQ 96 38 64)),
     (0x0AD62E78, (.ssetLtUQ 88 92 120)),
     (0x0AE78E7C, (.ssetLeUQ 30 28 124)),
     (0x0B1DBD7A, (.sselQ 118 122 122)),
     (0x0B338014, (.smovQ 78 20)),
     (0x0B49001A, (.sclzQ 36 26)),
     (0x0B758042, (.spopcQ 86 66)),
     (0x0B9E9404, (.sbfxQ 122 40 4)),
     (0x0BAD2E24, (.sbfiQ 52 92 36))] := by and_intros <;> first | rfl | trivial

theorem test_words_03 : codes
    [(0x0C300989, (.simm 6 2441))] := ⟨⟨rfl, rfl⟩, trivial⟩

theorem test_words_04 : codes
    [(0x10BC2BBC, (.saddImm 23 66 3004))] := ⟨⟨rfl, rfl⟩, trivial⟩

theorem test_words_05 : codes
    [(0x1555B721, (.sandImm 42 91 1825))] := ⟨⟨rfl, rfl⟩, trivial⟩

theorem test_words_06 : codes
    [(0x1AA3963E, (.sorImm 84 57 1598))] := ⟨⟨rfl, rfl⟩, trivial⟩

theorem test_words_07 : codes
    [(0x1DEE6741, (.sxorImm 61 102 1857))] := ⟨⟨rfl, rfl⟩, trivial⟩

theorem test_words_08 : codes
    [(0x219FE016, (.sshlImm 51 126 22)),
     (0x20387031, (.sshrImm 7 7 17)),
     (0x23C4204C, (.ssraImm 120 66 12))] := by and_intros <;> first | rfl | trivial

theorem test_words_09 : codes
    [(0x24020587, (.kand 8 11 7)),
     (0x24210306, (.kor 4 6 6)),
     (0x24428782, (.kxor 10 15 2)),
     (0x2463C305, (.kandn 15 6 5)),
     (0x24834100, (.kmov 13 2)),
     (0x24A23300, (.kmovFromQ 8 102)),
     (0x24C50280, (.kmovToQ 20 5)),
     (0x24E80200, (.kpopc 32 4)),
     (0x251DC780, (.kfirst 119 15))] := by and_intros <;> first | rfl | trivial

theorem test_words_0a : codes
    [(0x29902BD2, (.br 6 4 11218))] := ⟨⟨rfl, rfl⟩, trivial⟩

theorem test_words_0b : codes
    [(0x2D4D1D2F, (.brd 5 3 73007))] := ⟨⟨rfl, rfl⟩, trivial⟩

theorem test_words_0c : codes
    [(0x30037871, (.call 227441))] := ⟨⟨rfl, rfl⟩, trivial⟩

theorem test_words_0d : codes
    [(0x3419B036, (.loop 6 110646))] := ⟨⟨rfl, rfl⟩, trivial⟩

theorem test_words_0e : codes
    [(0x38000400, (.join 8)),
     (0x38201B00, (.calli 54)),
     (0x38400000, .ret),
     (0x38602500, (.jmpi 74)),
     (0x38800000, .lexit),
     (0x38A00000, .exit),
     (0x38C00000, .yield),
     (0x38E00000, .nop),
     (0x39001E83, (.waitc 61 3)),
     (0x39200003, (.bar 3)),
     (0x39484700, (.launch 33 14)),
     (0x3976BA80, (.qcap 90 117)),
     (0x399A8009, (.srd 106 9)),
     (0x39A0136F, (.trap 4975)),
     (0x39A04264, (.trapBind 612)),
     (0x39C03856, (.bkpt 14422))] := by and_intros <;> first | rfl | trivial

theorem test_words_10 : codes
    [(0x4017014C, (.vadd 46 1 38 0)),
     (0x4052793C, (.vsub 36 121 30 0)),
     (0x40A9FB36, (.vmul 83 123 27 0)),
     (0x40DFB08C, (.vmulh 63 48 70 0)),
     (0x410CF30E, (.vmad 25 115 7 0)),
     (0x4178D367, (.vand 113 83 51 1)),
     (0x41B9FA7F, (.vor 115 122 63 1)),
     (0x41D9F247, (.vxor 51 114 35 1)),
     (0x420FE4E3, (.vshl 31 100 113 1)),
     (0x42493DDA, (.vshr 18 61 109 0)),
     (0x429B4D3E, (.vsra 54 77 31 0)),
     (0x42EEA480, (.vmin 93 36 64 0)),
     (0x433BB831, (.vmax 119 56 24 1)),
     (0x437E2972, (.vsel 124 41 57 0)),
     (0x43B767AD, (.vbfx 110 103 86 1))] := by and_intros <;> first | rfl | trivial

theorem test_words_11 : codes
    [(0x441900B7, (.vabs 50 91 1)),
     (0x444B80BA, (.vclz 23 93 0)),
     (0x44AB00EB, (.vpopc 86 117 1)),
     (0x44C200C5, (.vmov 4 98 1)),
     (0x45259039, (.vbcst 75 16 28)),
     (0x45479A2B, (.vsetEq 15 26 21 1)),
     (0x4580AE8A, (.vsetNe 1 46 69 0)),
     (0x45C742CE, (.vsetLt 14 66 103 0)),
     (0x4606532D, (.vsetLe 12 83 22 1)),
     (0x4646AED8, (.vsetLtU 13 46 108 0)),
     (0x46809684, (.vsetLeU 1 22 66 0)),
     (0x46DC1186, (.vmulhU 56 17 67 0)),
     (0x473A02AD, (.vminU 116 2 86 1)),
     (0x47622116, (.vmaxU 68 33 11 0))] := by and_intros <;> first | rfl | trivial

theorem test_words_12 : codes
    [(0x480E2884, (.vaddD 28 40 66 0)),
     (0x4857329D, (.vsubD 46 50 78 1)),
     (0x489A4AE4, (.vmulD 52 74 114 0)),
     (0x48E25809, (.vmulhD 68 88 4 1)),
     (0x49040208, (.vmadD 8 2 4 0)),
     (0x497C3EE4, (.vandD 120 62 114 0)),
     (0x49B77EC9, (.vorD 110 126 100 1)),
     (0x49DB3AAC, (.vxorD 54 58 86 0)),
     (0x4A1166B0, (.vshlD 34 102 88 0)),
     (0x4A500225, (.vshrD 32 2 18 1)),
     (0x4AB7281C, (.vsraD 110 40 14 0)),
     (0x4AF0487D, (.vminD 96 72 62 1)),
     (0x4B05745C, (.vmaxD 10 116 46 0)),
     (0x4B627201, (.vselD 68 114 0 1)),
     (0x4BAE54A4, (.vbfxD 92 84 82 0))] := by and_intros <;> first | rfl | trivial

theorem test_words_13 : codes
    [(0x4C04009C, (.vabsD 8 78 0)),
     (0x4C6D005C, (.vclzD 90 46 0)),
     (0x4CAA00C0, (.vpopcD 84 96 0)),
     (0x4CFC008C, (.vmovD 120 70 0)),
     (0x4D1F002D, (.vbcstD 62 0 22)),
     (0x4D471649, (.vsetEqD 14 22 36 1)),
     (0x4D838499, (.vsetNeD 7 4 76 1)),
     (0x4DC126C5, (.vsetLtD 2 38 98 1)),
     (0x4E01C848, (.vsetLeD 3 72 36 0)),
     (0x4E462208, (.vsetLtUD 12 34 4 0)),
     (0x4E808A45, (.vsetLeUD 1 10 34 1)),
     (0x4ECD60E4, (.vmulhUD 26 96 114 0)),
     (0x4F023EF9, (.vminUD 4 62 124 1)),
     (0x4F407420, (.vmaxUD 0 116 16 0))] := by and_intros <;> first | rfl | trivial

theorem test_words_14 : codes
    [(0x50087980, (.vfadd 16 121 64 0)),
     (0x5061BC68, (.vfsub 67 60 52 0)),
     (0x50BAFEC2, (.vfmul 117 126 97 0)),
     (0x50FD4916, (.vfma 122 73 11 0)),
     (0x5109A5A9, (.vfmin 19 37 84 1)),
     (0x5166A207, (.vfmax 77 34 3 1)),
     (0x51844432, (.vfsetEq 8 68 25 0)),
     (0x51C2C9ED, (.vfsetLt 5 73 118 1)),
     (0x52069E67, (.vfsetLe 13 30 51 1)),
     (0x5247F909, (.vfsetUn 15 121 4 1)),
     (0x52BA8027, (.vfcls 117 19 1)),
     (0x52E200C6, (.vrcp 68 99 0)),
     (0x531A8026, (.vrsq 53 19 0)),
     (0x53520087, (.vsqrt 36 67 1)),
     (0x5390808E, (.vexp2 33 71 0)),
     (0x53EE8077, (.vlog2 93 59 1))] := by and_intros <;> first | rfl | trivial

theorem test_words_15 : codes
    [(0x543E640C, (.vfaddD 124 100 6 0)),
     (0x54407CE5, (.vfsubD 0 124 114 1)),
     (0x54A624D5, (.vfmulD 76 36 106 1)),
     (0x54F0503D, (.vfmaD 96 80 30 1)),
     (0x550052AD, (.vfminD 0 82 86 1)),
     (0x554F3205, (.vfmaxD 30 50 2 1)),
     (0x558310C9, (.vfsetEqD 6 16 100 1)),
     (0x55C36C8C, (.vfsetLtD 6 108 70 0)),
     (0x56010C90, (.vfsetLeD 2 12 72 0)),
     (0x5642EEA0, (.vfsetUnD 5 110 80 0)),
     (0x56AF00D8, (.vfclsD 94 108 0)),
     (0x56F30068, (.vrcpD 102 52 0)),
     (0x570600D1, (.vrsqD 12 104 1)),
     (0x57510091, (.vsqrtD 34 72 1)),
     (0x57860040, (.vexp2D 12 32 0)),
     (0x57FC00D5, (.vlog2D 120 106 1))] := by and_intros <;> first | rfl | trivial

theorem test_words_16 : codes
    [(0x58244C0E, (.vcvt 72 76 1 1 1)),
     (0x585ECD00, (.vqmx 61 77)),
     (0x58BDE400, (.vdqmx 123 100 0)),
     (0x58D42900, (.vcbd 40 41 0))] := by and_intros <;> first | rfl | trivial

theorem test_words_17 : codes
    [(0x5C1AFF71, (.vperm 53 127 56 1)),
     (0x5C6AF3DA, (.vshfl 85 115 109 0)),
     (0x5C98BE00, (.vred 49 62)),
     (0x5CCBAC00, (.vscan 23 44))] := by and_intros <;> first | rfl | trivial

theorem test_words_18 : codes
    [(0x602B1701, (.vsort 86 23 0 1)),
     (0x606F4267, (.vtopk 94 66 51)),
     (0x6082E9C5, (.vrand 5 105 98))] := by and_intros <;> first | rfl | trivial

theorem test_words_19 : codes
    [(0x6434B4C1, (.gori2 105 52 96 1)),
     (0x646B0EFD, (.gori3 86 14 126 1)),
     (0x64AE206D, (.ginc 92 32 54 1)),
     (0x64E2BEC5, (.gins 69 62 98 1)),
     (0x65396E9D, (.gsegx 114 110 78 1))] := by and_intros <;> first | rfl | trivial

theorem test_words_1a : codes
    [(0x69008D9B, (.vaddImm 32 8 3483))] := ⟨⟨rfl, rfl⟩, trivial⟩

theorem test_words_1b : codes
    [(0x6FCFD001, (.vandImm 121 125 1))] := ⟨⟨rfl, rfl⟩, trivial⟩

theorem test_words_1c : codes
    [(0x7096401D, (.vshlImm 18 100 29)),
     (0x7393F026, (.vshrImm 114 63 6)),
     (0x71CA7049, (.vsraImm 57 39 9))] := by and_intros <;> first | rfl | trivial

theorem test_words_1d : codes
    [(0x74D80EA2, (.vmovImm 27 3746))] := ⟨⟨rfl, rfl⟩, trivial⟩

theorem test_words_20 : codes
    [(0x800A8008, (.ldB 21 0 0 8)),
     (0x805D89A8, (.ldSb 59 0 77 8)),
     (0x80A06386, (.ldH 64 6 28 6)),
     (0x80C94638, (.ldSh 18 4 49 24)),
     (0x81213000, (.ldW 66 3 0 0)),
     (0x816678F4, (.ldD 76 7 71 20)),
     (0x819E778F, (.ldQ 60 7 60 15)),
     (0x82038D33, (.ldPrvB 7 105 19)),
     (0x824700AC, (.ldPrvSb 14 5 12)),
     (0x82BF8D65, (.ldPrvH 127 107 5)),
     (0x82E0875B, (.ldPrvSh 65 58 27)),
     (0x832F075F, (.ldPrvW 94 58 31)),
     (0x83440ADA, (.ldPrvD 8 86 26))] := by and_intros <;> first | rfl | trivial

theorem test_words_21 : codes
    [(0x842E6640, (.stB 92 6 50 0)),
     (0x84A5169F, (.stH 74 1 52 31)),
     (0x8519C62E, (.stW 51 4 49 14)),
     (0x857B3872, (.stD 118 3 67 18)),
     (0x858C75EE, (.stQ 24 7 47 14)),
     (0x863E0D43, (.stPrvB 124 106 3)),
     (0x86928C83, (.stPrvH 37 100 3)),
     (0x871B00C9, (.stPrvW 54 6 9)),
     (0x877501A3, (.stPrvD 106 13 3))] := by and_intros <;> first | rfl | trivial

theorem test_words_22 : codes
    [(0x8AF80A07, (.ldl 2 3 112 80 7))] := ⟨⟨rfl, rfl⟩, trivial⟩

theorem test_words_23 : codes
    [(0x8E6A060B, (.stl 2 1 84 48 11))] := ⟨⟨rfl, rfl⟩, trivial⟩

theorem test_words_24 : codes
    [(0x903B89F8, (.atomAdd 119 0 79 24)),
     (0x906FDE2A, (.atomAnd 95 5 113 10)),
     (0x908D8291, (.atomOr 27 0 20 17)),
     (0x90CA5D67, (.atomXor 20 5 107 7)),
     (0x911AEB73, (.atomMin 53 6 91 19)),
     (0x9177119E, (.atomMax 110 1 12 30)),
     (0x91995E4C, (.atomMinU 50 5 114 12)),
     (0x91E95F21, (.atomMaxU 82 5 121 1)),
     (0x9234BCE2, (.atomExch 105 3 103 2)),
     (0x92700EC4, (.atomAddD 96 0 118 4)),
     (0x92874624, (.atomExchD 14 4 49 4)),
     (0x92EB58B5, (.atomFadd 86 5 69 21))] := by and_intros <;> first | rfl | trivial

theorem test_words_25 : codes
    [(0x9405CA31, (.atomAddPosted 11 4 81 17)),
     (0x94660201, (.atomAndPosted 76 0 16 1)),
     (0x949D9F3D, (.atomOrPosted 59 1 121 29)),
     (0x94F14DDF, (.atomXorPosted 98 4 110 31)),
     (0x9510F5C0, (.atomMinPosted 33 7 46 0)),
     (0x9566A794, (.atomMaxPosted 77 2 60 20)),
     (0x95A8FB85, (.atomMinUPosted 81 7 92 5)),
     (0x95D9650F, (.atomMaxUPosted 50 6 40 15)),
     (0x9634111E, (.atomExchPosted 104 1 8 30)),
     (0x96692DA6, (.atomAddDPosted 82 2 109 6)),
     (0x968942AD, (.atomExchDPosted 18 4 21 13)),
     (0x96CC6FFC, (.atomFaddPosted 24 6 127 28))] := by and_intros <;> first | rfl | trivial

theorem test_words_26 : codes
    [(0x9816345A, (.casW 44 3 34 26)),
     (0x987A33F2, (.casD 116 3 31 18)),
     (0x98A44897, (.casQ 72 4 68 23))] := by and_intros <;> first | rfl | trivial

theorem test_words_27 : codes
    [(0x9C000182, (.fence 3 2)),
     (0x9C20383F, (.cwb 112 63)),
     (0x9C40173E, (.cinvD 46 62)),
     (0x9C405E27, (.cinvI 60 39)),
     (0x9C602430, (.prefL2 72 48)),
     (0x9C606910, (.prefL1 82 16)),
     (0x9C81A03E, (.xlate 6 64 62)),
     (0x9CA0C000, (.xdrop 3)),
     (0x9CC00C76, (.sems 24 118)),
     (0x9CE0041A, (.semw 8 26)),
     (0x9D000000, (.migrate 0))] := by and_intros <;> first | rfl | trivial

theorem test_words_28 : codes
    [(0xA13CBE57, (.ldtW 121 3 114 23)),
     (0xA1454767, (.ldtD 10 4 59 7)),
     (0xA1863624, (.ldtQ 12 3 49 4))] := by and_intros <;> first | rfl | trivial

theorem test_words_29 : codes
    [(0xA52FAE50, (.sttW 95 2 114 16)),
     (0xA5401B2D, (.sttD 0 1 89 13)),
     (0xA5845AE9, (.sttQ 8 5 87 9))] := by and_intros <;> first | rfl | trivial

theorem test_words_2a : codes
    [(0xA8043010, (.tcopy 8 3 16)),
     (0xA8443054, (.tcopyGath 8 3 2 20)),
     (0xA8B455F3, (.tcopyScat 104 5 47 19))] := by and_intros <;> first | rfl | trivial

theorem test_words_30 : codes
    [(0xC004C200, (.seal 2 6 1)),
     (0xC03E0000, (.hfree 15)),
     (0xC05E4002, (.mma 15 2 1 0)),
     (0xC0780800, (.mloop 12 4 0)),
     (0xC0808000, (.mrdy 4)),
     (0xC0B80000, (.mfence 12)),
     (0xC0D000D1, (.mwait 8 209)),
     (0xC0F20000, (.sufx 9)),
     (0xC113A000, (.attn 9 13)),
     (0xC1232000, (.selpg 1 9)),
     (0xC155B800, (.massr 10 13 12 0)),
     (0xC174C001, (.dcln 10 6 1)),
     (0xC198C001, (.tier 12 6 0 1)),
     (0xC1ABA000, (.ctrc 5 13)),
     (0xC1C65975, (.expd 3 2 12 373)),
     (0xC1FC8800, (.sqgrow 14 4 4))] := by and_intros <;> first | rfl | trivial

theorem test_words_38 : codes
    [(0xE000C624, (.tlbinv 3 12 36)),
     (0xE0200000, .tlback),
     (0xE0594B5E, (.ctxsv 101 22 94)),
     (0xE06AD200, (.ctxld 43 36)),
     (0xE0966400, (.tret 89 72)),
     (0xE0AA1500, (.srr 40 42)),
     (0xE0C0081A, (.srw 16 26)),
     (0xE0E03100, (.preemptReq 98)),
     (0xE0FF5901, (.preemptWait 125 50)),
     (0xE0E02682, (.preemptClr 77)),
     (0xE1080000, (.fltqPop 32)),
     (0xE102FD81, (.fltqRpl 11 123)),
     (0xE1140682, (.fltqAcc 80 13)),
     (0xE1180003, (.fltqTpop 96))] := by and_intros <;> first | rfl | trivial

theorem test_words_3f : codes
    [(0xFC161764, (.himm 1447780)),
     (0xFC800007, (.hgrd 0 7)),
     (0xFD000CF1, (.hstl 3313)),
     (0xFD8C95F9, (.hmod 100 2 5 3 1 25)),
     (0xFE00000A, (.hfe 10)),
     (0xFE80ABCD, (.hfil 0 43981)),
     (0xFF000026, (.hadd 0 38))] := by and_intros <;> first | rfl | trivial

/-- Each run of words is one stream instruction, and the instruction encodes as those words (R230, R231, R327, R328). -/
def runs' : List (List Word × Instr) → Prop
  | [] => True
  | x :: r => (decodeStream x.1 = .ok (x.2, []) ∧ encode x.2 = x.1) ∧ runs' r

theorem test_stream_words : runs'
    [([0x04000015, 0x1000, 0, 0x2000, 0x10000000, 64], .cpy 1 0x1000 0x1000000000002000 64),
     ([0x08000008, 0x20, 0x20000000, 0x40, 2, 16, 3, 0xFFFFFFF0, 32], .cpy2 0 0x2000000000000020 0x200000040 16 3 0xFFFFFFF0 32),
     ([0x0C100087, 0x100, 0, 0x200, 0, 0x300, 0, 9], .cgath 8 1 0 0x100 0x200 0x300 9),
     ([0x102FFFF7, 0x3FFFC, 0x40000000, 0x200, 0, 0x300, 0, 9], .cscat 0xFFFF 0 1 0x400000000003FFFC 0x200 0x300 9),
     ([0x14000035, 0x100, 0, 0x89ABCDEF, 0x01234567, 24], .cfill 3 0x100 0x0123456789ABCDEF 24),
     ([0x18006805, 0x100, 0, 0x200, 0, 7], .cconv 0 8 2 1 0x100 0x200 7),
     ([0x1C000014, 0x40, 0, 1, 2], .csems 1 0x40 0x200000001),
     ([0x20000004, 0x40, 0x10000000, 5, 0], .csemw 0x1000000000000040 5),
     ([0x24000051, 10], .cloop 5 10),
     ([0x28000002, 0xFFFFFFFC, 0x01FFFFFF], .cjmp 0x01FFFFFFFFFFFFFC),
     ([0x2C000000], .chalt)] := by and_intros <;> first | rfl | trivial

/-- What the stream decoder refuses by name: a reserved opcode, another NOPW, a reserved bit of ARG, too few words (R230, R232). -/
theorem test_stream_refused : decodeStream [0x30000000] = .error .major ∧ decodeStream [0] = .error .major ∧
    decodeStream [0x2C000001, 0] = .error .unused ∧ decodeStream [0x2C000010] = .error .unused ∧ decodeStream [0x24000051] = .error .unused := by
  and_intros
  any_goals rfl

/-! ### The static checks: one ill-formed term for each -/

/-- Ill-formed terms: the term is refused, and so are its words. -/
def illFormed : List Instr → Prop
  | [] => True
  | i :: r => (i.wf = false ∧ (match encode i with | [w] => decode w = .error .field | _ => True)) ∧ illFormed r

/-- A pair that starts at an odd register, a group of four, eight, sixteen or thirty-two that is not aligned, a k register above 15, k0 as a
destination, and the codes that an instruction does not take (R212 to R215, R229). -/
theorem test_ill_formed : illFormed
    [.saddQ 1 2 4,
     .saddQ 2 3 4,
     .saddQ 2 4 5,
     .kor 0 1 2,
     .kor 16 1 2,
     .kor 1 16 2,
     .kor 1 2 16,
     .ldQ 2 0 1 0,
     .ldD 1 0 1 0,
     .fltqPop 16,
     .fltqTpop 2,
     .join 16,
     .ldl 3 0 4 3 0,
     .ldl 0 2 2 3 0,
     .stl 1 0 4 3 0,
     .srd 0 20,
     .srd 1 16,
     .fence 0 0,
     .fence 4 0,
     .fence 1 7,
     .brd 0 0 1,
     .br 9 0 1,
     .br 0 1 1,
     .waitc 1 5,
     .bar 0,
     .bar 4,
     .dcln 0 1 0,
     .massr 1 2 2 0,
     .hmod 0 0 1 0 0 0,
     .hmod 0 0 0 1 0 0,
     .hmod 0 1 7 0 0 0,
     .hfil 1 0x10000] := by and_intros <;> first | rfl | trivial

/-- Operands that a stream instruction does not take: REL with a local space, a local offset of 2^18, space 3, a local source, RB 0, a local
semaphore, BACK 0, a target of 2^57, a format code (R327, R328). -/
theorem test_ill_formed_streams : (Instr.cpy 0 0x3000000000000000 0 4).wf = false ∧ (Instr.cpy 0 0x2000000000040000 0 4).wf = false ∧
    (Instr.cpy 0 0x6000000000000000 0 4).wf = false ∧ (Instr.cpy 0 0 0x2000000000000000 4).wf = false ∧
    (Instr.cgath 0 0 0 0 0 0 1).wf = false ∧ (Instr.csems 0 0x2000000000000000 1).wf = false ∧ (Instr.cloop 0 1).wf = false ∧
    (Instr.cjmp 0x200000000000000).wf = false ∧ (Instr.cconv 4 0 0 0 0 0 1).wf = false ∧ (Instr.cconv 0 7 0 0 0 0 1).wf = false ∧
    decodeStream [0x24000001, 1] = .error .field ∧ decodeStream [0x04000005, 0, 0x30000000, 0, 0, 4] = .error .field := by
  and_intros
  any_goals rfl


/-! ### Small steps -/

/-- What becomes of the lone warp, as f leaves it, when it executes the instruction. -/
def leaves (i : Instr) (f : Warp → Warp) (p : Warp → Bool) : Bool :=
  match exec i (lone f) with
  | .next t => (match tfind t.warps 0 with | some y => p y | none => false)
  | _ => false

/-- Sums wrap, and a source may be the destination (R234). -/
theorem test_sadd_wraps : leaves (.sadd 1 1 2) (withS [(1, 0xFFFFFFFF), (2, 3)]) (fun y => y.sreg 1 == 2 && y.sreg 2 == 3 && (y.split 0).pc == 4) =
    true := by decide +kernel

/-- A taken branch goes to its own address plus four times the displacement, an untaken one to the next word. -/
theorem test_br_taken : leaves (.br 0 0 (-1)) (withSplit (fun q => { q with pc := 8 })) (fun y => (y.split 0).pc == 4) = true := by decide +kernel

/-- The last word of a loop body goes back to its start while its count is above 1, and then on (R52). -/
theorem test_loop_end : leaves .yield (withSplit (fun q => { q with pc := 12, loops := [around] })) (fun y => (y.split 0).pc == 4) = true ∧
    leaves .yield (withSplit (fun q => { q with pc := 12, loops := [{ around with count := 1 }] })) (fun y => (y.split 0).pc == 16) = true := by
  decide +kernel

/-- BKPT stops the warp with code 0x0C and its workgroup halts (R69, R71). -/
theorem test_bkpt : leaves (.bkpt 5) id (fun y => match y.life with | .stopped r => r.code.num == 0x0C && r.primary && r.pc == 0 | _ => false) = true := by
  decide +kernel

/-- The word of SIMM s1, 20, and a CHALT, placed where the next step fetches them: the step runs them. -/
theorem test_fetched : (match step (State.reset.withFetchWord 32 0x0C080014) with
      | .next t => (match tfind t.warps 0 with | some y => y.sreg 1 == 20 | none => false) | _ => false) = true ∧
    (match step (State.reset.withFetchWord 32 0x2C000000) with
      | .next t => t.streams.all (fun x => x.2.st == .stopped 0) && !t.streams.isEmpty | _ => false) = true := by decide +kernel

/-- The check value of the boot image's checksum, which the family of that polynomial publishes. -/
theorem test_crc32 : crc32 [0x31, 0x32, 0x33, 0x34, 0x35, 0x36, 0x37, 0x38, 0x39] = 0xCBF43926 := by decide +kernel

end Sys2Proof.Tests
end

section
/-! Facts about the state's operations, the operand forms and the word of CALL, then the two statements of R253 and R256. -/

namespace Sys2Proof

/-! ### The word of CALL -/

/-- The fields of a B-format word (R210). -/
theorem bformat_major (m : BitVec 6) (n k : BitVec 4) (d : BitVec 18) : (m ++ n ++ k ++ d).extractLsb' 26 6 = m := by
  rw [BitVec.extractLsb'_append_eq_of_le (by decide), BitVec.extractLsb'_append_eq_of_le (by decide)]
  exact BitVec.extractLsb'_append_eq_left

theorem bformat_cond (m : BitVec 6) (n k : BitVec 4) (d : BitVec 18) : (m ++ n ++ k ++ d).extractLsb' 18 8 = n ++ k := by
  rw [BitVec.extractLsb'_append_eq_of_le (by decide), BitVec.append_assoc, BitVec.cast_eq]
  exact BitVec.extractLsb'_append_eq_right

theorem bformat_disp (m : BitVec 6) (n k : BitVec 4) (d : BitVec 18) : (m ++ n ++ k ++ d).extractLsb' 0 18 = d :=
  BitVec.extractLsb'_append_eq_right

theorem append_eq_zero_iff {m n : Nat} (x : BitVec m) (y : BitVec n) : x ++ y = 0#(m + n) ↔ x = 0#m ∧ y = 0#n := by
  constructor
  · intro h
    constructor
    · rw [← BitVec.extractLsb'_append_eq_left (a := x) (b := y), h, BitVec.extractLsb'_zero]
    · rw [← BitVec.extractLsb'_append_eq_right (a := x) (b := y), h, BitVec.extractLsb'_zero]
  · rintro ⟨rfl, rfl⟩
    exact BitVec.zero_append_zero

theorem decodeFields_major_0C {w : Word} (h : w.extractLsb' 26 6 = 0x0C#6) : decodeFields w = decode0C w := by
  unfold decodeFields
  rw [h]
  rfl

/-- A word of major 0x0C is CALL where its COND and K are 0, and no instruction elsewhere (R229, R256). -/
theorem decode_major_0C (n k : BitVec 4) (d : BitVec 18) :
    decode (0x0C#6 ++ n ++ k ++ d) = if n = 0 ∧ k = 0 then .ok (.call d) else .error .unused := by
  have hf : decodeFields (0x0C#6 ++ n ++ k ++ d) = if n ++ k != 0#8 then .error .unused else .ok (.call d) := by
    rw [decodeFields_major_0C (bformat_major _ n k d), decode0C, bformat_cond, bformat_disp]
    rfl
  have hz := append_eq_zero_iff n k
  unfold decode
  rw [hf]
  by_cases h : n = 0 ∧ k = 0
  · rw [if_pos h, if_neg (by simpa using hz.mpr h)]
    rfl
  · rw [if_neg h, if_pos (by simpa using fun e => h (hz.mp e))]

end Sys2Proof

namespace Sys2Proof.Machine

/-! ### Entries of the split table -/

@[simp] theorem lset_lset {α : Type} (l : List α) (n : Nat) (x y : α) : lset (lset l n x) n y = lset l n y := by
  induction l generalizing n with
  | nil => rfl
  | cons a r ih => cases n <;> simp [lset, ih]

theorem getD_lset_same {α : Type} (l : List α) {n : Nat} (x d : α) (h : n < l.length) : (lset l n x).getD n d = x := by
  induction l generalizing n with
  | nil => simp at h
  | cons a r ih =>
    cases n with
    | zero => rfl
    | succ n => simpa [lset] using ih (by simpa using h)

theorem lset_past_end {α : Type} (l : List α) {n : Nat} (x : α) (h : l.length ≤ n) : lset l n x = l := by
  induction l generalizing n with
  | nil => rfl
  | cons a r ih =>
    cases n with
    | zero => simp at h
    | succ n => simp [lset, ih (by simpa using h)]

/-- Two changes of one entry are one change; an entry that the table lacks changes neither time. -/
theorem setSplit_setSplit (w : Warp) (n : Nat) (f g : Split → Split) :
    (w.setSplit n f).setSplit n g = w.setSplit n (fun p => g (f p)) := by
  rcases Nat.lt_or_ge n w.splits.length with h | h
  · simp only [Warp.setSplit, Warp.split, getD_lset_same _ _ _ h, lset_lset]
  · simp [Warp.setSplit, lset_past_end, h]

theorem onWarp_onWarp (s : State) (c : Cx) (f g : Warp → Warp) : (s.onWarp c f).onWarp c g = s.onWarp c (fun w => g (f w)) := by
  cases h : tfind s.warps c.w <;> simp [State.onWarp, State.setWarp, h]

/-- Changes of the issuing warp that agree on it leave the same state. -/
theorem onWarp_congr {s : State} {c : Cx} {f g : Warp → Warp} (h : ∀ w, tfind s.warps c.w = some w → f w = g w) :
    s.onWarp c f = s.onWarp c g := by
  cases hw : tfind s.warps c.w with
  | none => simp [State.onWarp, State.setWarp, hw]
  | some w => simp [State.onWarp, State.setWarp, hw, h w hw]

/-! ### Register writes and the bookkeeping of one issue -/

/-- The issuing warp after the bookkeeping of one issue. -/
def Cx.ticked (c : Cx) (x : Warp) : Warp :=
  { x with replay := none, owed := [], last := c.sp, skid := if c.group.st = .halting then x.skid + 1 else x.skid }

/-- A change of the issuing warp that leaves its bookkeeping may come before or after the tick. -/
theorem tick_onWarp (s : State) (c : Cx) {f : Warp → Warp} (h : ∀ x, f (c.ticked x) = c.ticked (f x)) :
    (s.tick c).onWarp c f = (s.onWarp c f).tick c := by
  unfold Cx.ticked at h
  cases hw : tfind s.warps c.w <;> simp [State.tick, State.onWarp, State.setWarp, hw, State.slotCyc, h]

theorem write_ticked (c : Cx) (width : Nat) (x : Warp) (r : RegWrite) :
    (c.ticked x).write width r = c.ticked (x.write width r) := by cases r <;> rfl

theorem writeAll_ticked (c : Cx) (width : Nat) (l : List RegWrite) (x : Warp) :
    (c.ticked x).writeAll width l = c.ticked (x.writeAll width l) :=
  List.foldl_hom c.ticked (fun x r => write_ticked c width x r)

@[simp] theorem write_splits (width : Nat) (x : Warp) (r : RegWrite) : (x.write width r).splits = x.splits := by cases r <;> rfl

@[simp] theorem writeAll_splits (width : Nat) (l : List RegWrite) (x : Warp) : (x.writeAll width l).splits = x.splits := by
  induction l generalizing x with
  | nil => rfl
  | cons r l ih => exact (ih _).trans (write_splits width x r)

/-! ### Transfers that keep the loop stack as given -/

/-- A split placed with the mask it has is moved, and its count of divided calls set. -/
theorem place_same_mask {s : State} {c : Cx} (pc : Nat) (loops : List LoopEnt) (n : Nat)
    (h : ∀ w, tfind s.warps c.w = some w → (w.split c.sp).mask = c.split.mask) :
    s.place c pc c.split.mask loops n =
      (s.onWarp c (fun w => w.setSplit c.sp (fun p => p.moved pc loops (s.slotCyc c.warp.core c.warp.slot)))).onWarp c
        (fun w => w.setSplit c.sp (fun p => { p with div := n })) := by
  rw [onWarp_onWarp]
  refine onWarp_congr (fun w hw => ?_)
  rw [setSplit_setSplit]
  simp [Warp.setSplit, Split.moved, ← h w hw]

/-- The whole split placed elsewhere after register writes. -/
theorem place_writes {s : State} {c : Cx} (l : List RegWrite) (pc : Nat) (loops : List LoopEnt) (n : Nat)
    (hw : tfind s.warps c.w = some c.warp) (hs : c.split = c.warp.split c.sp) :
    ((s.tick c).onWarp c (fun w => w.writeAll c.grid.w l)).place c pc c.split.mask loops n =
      (s.afterAt c loops pc (fun w => w.writeAll c.grid.w l)).onWarp c (fun w => w.setSplit c.sp (fun p => { p with div := n })) := by
  rw [tick_onWarp s c (fun x => writeAll_ticked c c.grid.w l x), place_same_mask pc loops n]
  · exact congrArg (fun t => State.onWarp t c _) (moved_end (fun w => w.writeAll c.grid.w l) hw (fun _ => (loops, pc)))
  · intro w h
    simp only [State.tick, State.onWarp, warps_setWarp, if_true, hw, Option.map_some, Option.some.injEq] at h
    subst h
    simp [Warp.split, hs]

/-! ### Immediates -/

/-- The model's sign extension of a field is the integer of that field in two's complement. -/
theorem sext_toNat {n : Nat} (x : BitVec n) : sext x.toNat n = x.toInt := by
  have hm : x.toNat % 2 ^ n = x.toNat := Nat.mod_eq_of_lt x.isLt
  have hi : (x.toNat : Int) % 2 ^ n = x.toNat := by exact_mod_cast hm
  simp [sext, BitVec.toInt_eq_msb_cond, BitVec.msb_eq_decide, hm, hi]

theorem toNat_append_eq {m n : Nat} (x : BitVec m) (y : BitVec n) : (x ++ y).toNat = x.toNat * 2 ^ n + y.toNat := by
  rw [BitVec.toNat_append, ← Nat.shiftLeft_add_eq_or_of_lt y.isLt, Nat.shiftLeft_eq]

/-- A displacement is its field, with HIMM's payload above it where the group has one (R211, R216). -/
theorem imm_eq_toInt (c : Cx) (d : BitVec 18) :
    c.imm 18 d.toNat = match c.hint 0 with | some p => (p ++ d).toInt | none => d.toInt := by
  cases h : c.hint 0 with
  | none => simpa [Cx.imm, Cx.ihi, h] using sext_toNat d
  | some p => simpa [Cx.imm, Cx.ihi, h] using toNat_append_eq p d ▸ sext_toNat (p ++ d)

/-- The target of a B-format word (R211). -/
theorem target_eq (c : Cx) (d : BitVec 18) :
    c.target d = (((c.split.pc : Int) + 4 * (match c.hint 0 with | some p => (p ++ d).toInt | none => d.toInt)) % (2 ^ 57 : Int)).toNat := by
  rw [Cx.target, imm_eq_toInt]; rfl

/-! ### LEXIT and CALL -/

theorem lexit_pops {s : State} {c : Cx} {e : LoopEnt} {r : List LoopEnt} (h : Ready s c (once true Accept.none c [] []))
    (hl : c.split.loops = e :: r) :
    exec .lexit s = .next (s.afterAt c (unwind r ((e.stop + 4) % vaMod)) ((e.stop + 4) % vaMod) id) := by
  rw [exec_lexit, execLexit, issue_ready _ h]
  simp only [hl]
  exact congrArg Host.Outcome.next
    (moved_now (issueCx_warp h.cx) (fun _ => (unwind r ((e.stop + 4) % vaMod), (e.stop + 4) % vaMod)))

theorem lexit_empty {s : State} {c : Cx} (h : Ready s c (once true Accept.none c [] [])) (hl : c.split.loops = []) :
    exec .lexit s = .next (s.trap c .illegal c.split.mask 0) := by
  rw [exec_lexit, execLexit, issue_ready _ h]
  simp only [hl]

/-- A lone split that no divided call reached makes no divided call (R399). -/
theorem callDiv_lone {w : Warp} {p : Split} (hw : w.splitCount ≤ 1) (hp : p.div = 0) : w.callDiv p = 0 := by
  simp [Warp.callDiv, hp, Nat.not_lt.mpr hw]

theorem call_links {s : State} {c : Cx} (d : BitVec 18) (h : Ready s c (once true accImm c [] [.v 0, .v 1])) :
    exec (.call d) s = .next ((s.afterAt c c.split.loops (c.target d) (fun w => w.writeAll c.grid.w (c.linkWrites c.split.mask))).onWarp c
      (fun w => w.setSplit c.sp (fun p => { p with div := c.warp.callDiv c.split }))) := by
  rw [exec_call, execCall, issue_ready _ h]
  exact congrArg Host.Outcome.next (place_writes _ _ _ _ (issueCx_warp h.cx) (issueCx_split h.cx))

/-- Settles O58: the word by evaluation, the two outcomes from what LEXIT does with its split's stack. -/
theorem lexitLeavesTheLoop : Obligations.LexitLeavesTheLoop :=
  ⟨rfl, rfl, fun _ _ h => ⟨fun _ _ hl => lexit_pops h hl, fun hl => ⟨lexit_empty h hl, rfl⟩⟩⟩

/-- Settles O59: the words from the decoder's answer for major 0x0C, the state from the rule of a whole split placed elsewhere after its
link is written; the count is the model's callDiv. -/
theorem callLinksEveryLane : Obligations.CallLinksEveryLane := by
  refine ⟨fun d => (decode_major_0C 0 0 d).trans (if_pos ⟨rfl, rfl⟩), fun n k d e h hd => ?_, fun s c d h => ?_⟩
  · rw [decode_major_0C, if_neg (fun ⟨hn, hk⟩ => h.elim (· hn) (· hk))] at hd
    cases hd
  · refine ⟨c.warp.callDiv c.split, callDiv_lone, ?_⟩
    rw [call_links d h, target_eq]
    rfl

end Sys2Proof.Machine
end

section
/-! What the table of warps reads after an instruction completes, then the statement of R339 on HFREE. -/

namespace Sys2Proof.Machine

/-! ### The warps after an instruction completes -/

theorem warps_after_same (s : State) (c : Cx) (f : Warp → Warp) :
    tfind (s.after c f).warps c.w = some (c.retire (s.slotCyc c.warp.core c.warp.slot + 1)
      (loopEnd c.split.loops c.split.pc).1 (loopEnd c.split.loops c.split.pc).2 (f c.warp)) :=
  tfind_tput_same _ _ _

theorem warps_after_other (s : State) (c : Cx) (f : Warp → Warp) {j : Nat} (h : j ≠ c.w) :
    tfind (s.after c f).warps j = tfind s.warps j :=
  tfind_tput_other _ _ h

/-! ### HFREE -/

/-- The warp with handle register n EMPTY. -/
def Warp.freeHandle (n : Nat) (w : Warp) : Warp := { w with h := tset Handle.none w.h n Handle.none }

@[simp] theorem hreg_freeHandle_same (w : Warp) (n : Nat) : (w.freeHandle n).hreg n = Handle.none := by
  simp [Warp.hreg, Warp.freeHandle]

theorem hreg_freeHandle_other (w : Warp) {n j : Nat} (h : j ≠ n) : (w.freeHandle n).hreg j = w.hreg j := by
  simp [Warp.hreg, Warp.freeHandle, tget_tset_other _ _ _ h]

/-- HFREE completes at once, and the handle register is all that it writes (R339). -/
theorem hfree_frees {s : State} {c : Cx} {h : BitVec 4} (hr : Ready s c (once true accNoMod c [] [.h h.toNat])) :
    exec (.hfree h) s = .next (s.after c (Warp.freeHandle h.toNat)) := by
  rw [exec_hfree, execHfree, issue_ready _ hr, now_eq _ (issueCx_warp hr.cx)]
  rfl

/-- Settles O60: the state is the completed one with the register freed, so that the operations and the other warps are those of any
completed instruction; neither freeing nor completing touches the warp's batches. -/
theorem freedHandlesAreEmpty : Obligations.FreedHandlesAreEmpty := by
  intro s c h hr
  refine ⟨hfree_frees hr, after_ops .., after_mem .., fun _ hj => warps_after_other s c _ hj,
    _, warps_after_same s c (Warp.freeHandle h.toNat), ?_⟩
  exact ⟨hreg_freeHandle_same c.warp _, fun _ hj => hreg_freeHandle_other c.warp hj, rfl, rfl, rfl⟩

end Sys2Proof.Machine
end
